-- ==== Sys2Proof/Word.lean ====
section
/-! DEFINITION. The word types of the LZ-960. Every register, latch lane and special register is 32 bits (R43),
memory is addressed by byte (R1), and virtual addresses and counts of cycles are 64 bits (R72, R149). -/
namespace Sys2Proof

/-- One byte of memory. -/
abbrev Byte := BitVec 8

/-- One 32-bit register lane or scalar (R43). -/
abbrev Word := BitVec 32

/-- A 64-bit address or count (R72, R149). -/
abbrev DWord := BitVec 64

end Sys2Proof
end

