-- ==== Sys2Proof/Machine/Bits.lean ====
section
/-! DEFINITION. Bit fields, sign extension and byte order (R1), shared by the decoder and the machine. -/
namespace Sys2Proof

/-- The value of bits [hi:lo] of `x` (R1: both ends included, bit 0 least significant). -/
def field (x hi lo : Nat) : Nat := x / 2 ^ lo % 2 ^ (hi + 1 - lo)

/-- Bit `i` of `x`. -/
def bit (x i : Nat) : Bool := x / 2 ^ i % 2 == 1

/-- The word with the value `x` modulo 2^32. -/
def word (x : Nat) : Word := BitVec.ofNat 32 x

/-- A `Bool` as 0 or 1. -/
def b2n (b : Bool) : Nat := if b then 1 else 0

/-- The signed value of the low `n` bits of `x`. -/
def signed (n x : Nat) : Int :=
  let y := x % 2 ^ n
  if y < 2 ^ (n - 1) then (y : Int) else (y : Int) - (2 ^ n : Nat)

/-- An integer modulo 2^n. -/
def wrapNat (n : Nat) (x : Int) : Nat := (x % ((2 ^ n : Nat) : Int)).toNat

/-- Sign-extends the low `n` bits of `x` to 32 bits (R63). -/
def sext32 (n x : Nat) : Word := word (wrapNat 32 (signed n x))

/-- `len` little-endian bytes of `x` (R1). -/
def bytesLE : Nat → Nat → List Byte
  | 0, _ => []
  | len + 1, x => BitVec.ofNat 8 x :: bytesLE len (x / 256)

/-- The value of a list of little-endian bytes (R1). -/
def natLE : List Byte → Nat
  | [] => 0
  | b :: bs => b.toNat + 256 * natLE bs

/-- The number of set bits of the low `n` bits of `x`. -/
def popCount : Nat → Nat → Nat
  | 0, _ => 0
  | n + 1, x => x % 2 + popCount n (x / 2)

/-- The position of the lowest set bit below `n`, if any. -/
def lowBit? (n x : Nat) : Option Nat := (List.range n).find? (bit x)

/-- Replaces bits [hi:lo] of `x` by the low bits of `v`. -/
def setField (x hi lo v : Nat) : Nat :=
  x - field x hi lo * 2 ^ lo + v % 2 ^ (hi + 1 - lo) * 2 ^ lo

/-- The least power-of-two exponent `e` with `x < 2^e`: the bit length. -/
def bitLength (x : Nat) : Nat := if x = 0 then 0 else Nat.log2 x + 1

/-- x rounded up to a multiple of `m`, divided by `m`. -/
def ceilDiv (x m : Nat) : Nat := (x + m - 1) / m

end Sys2Proof
end

