-- ==== Sys2Proof/Syntax.lean ====
section
/-! DEFINITION. The syntax of Exian and of the device's other indivisible steps: one constructor of `Instr` for each
row of the opcode table. An instruction word keeps every field it holds, also a field its entry leaves unused, because
a field that breaks the operand rules is a trap of that instruction (R54) and not another instruction. A stream-list
command keeps its reserved bits for the same reason (R242). A step that no word encodes (a packet, a register write of
the host, an event of the device) carries as arguments what the world outside the machine decides of it. -/
namespace Sys2Proof

/-- A 7-bit operand field, decoded as R55 lists. -/
inductive Operand where
  /-- `v0`-`v63`, values 0-63 -/
  | vreg (n : Fin 64)
  /-- `s0`-`s31`, values 64-95 -/
  | sreg (n : Fin 32)
  /-- `L0`-`L3`, values 96-99 -/
  | latch (n : Fin 4)
  /-- `p0`-`p7`, values 100-107 -/
  | preg (n : Fin 8)
  /-- value 108, reads 0 -/
  | zero
  /-- value 109, reads 1 -/
  | one
  /-- value 110, reads 0xFFFF_FFFF -/
  | ones
  /-- value 111, the lane number -/
  | lane
  /-- value 112, the group index in the team -/
  | grp
  /-- value 113, the team index in the gang -/
  | team
  /-- value 114, `STAGE.stage` -/
  | stage
  /-- value 115, the lane number div 4 -/
  | slice
  /-- values 116-127, reserved -/
  | reserved (n : Fin 12)
deriving DecidableEq, Repr

/-- The fields of format R (R53): `nw`, `d`, `a`, `b`. -/
structure RForm where
  nw : Bool
  d : Operand
  a : Operand
  b : Operand
deriving DecidableEq, Repr

/-- The fields of format K (R53): `d` and the 15-bit immediate. -/
structure KForm where
  d : Operand
  k : BitVec 15
deriving DecidableEq, Repr

/-- The operation codes of an atomic (R66), in code order. -/
inductive AtmOp where
  | add | min | max | and_ | or_ | xor_ | xchg | cas
deriving DecidableEq, Repr

/-- The fields of `SFETCH` and `SSTORE` (R242) with the box word that follows. -/
structure BoxForm where
  tid : BitVec 8
  quad : Bool
  acq : Bool
  rel : Bool
  mirror : Bool
  scope : BitVec 2
  rsv : BitVec 8
  box : Word
deriving DecidableEq, Repr

/-- A queue interface: function 0-31 and interface 0-7 (R363, R364). -/
structure QRef where
  fn : Nat
  q : Nat
deriving DecidableEq, Repr

/-- Where one team of a gang is placed: device core index, group slots, first scratchpad row and extended blocks
(R27, R145). -/
structure TeamPlace where
  core : Nat
  slots : List Nat
  row0 : Nat
  blocks : List Nat
deriving DecidableEq, Repr

/-- What waits under a declared limit (R41): a split, or operation `i` of cluster `c`'s matrix queue. -/
inductive Waiter where
  | split (gid entry : Nat)
  | queued (c i : Nat)
deriving DecidableEq, Repr

/-- Who asks for a pre-emption (R357). -/
inductive Requester where
  | slice | priority | scan | reclaim | halt | shrink
deriving DecidableEq, Repr

/-- The budget that ran out (R316, R321). -/
inductive BreachKind where
  | team | energy | bound
deriving DecidableEq, Repr

/-- A change of the construction map (R13): the new words, and the cost entries that it raises (R21). -/
structure MapChange where
  writes : List (Nat × Word)
  costs : List (Nat × Word × Word)
deriving DecidableEq, Repr

/-- What one patrol-scrub visit of stack `s` finds (R351). -/
inductive ScrubFinding where
  /-- every codeword decodes, or is corrected in place -/
  | clean
  /-- a persistent bad symbol position on a rank, with the pseudo-channels that it affects -/
  | symbol (s rank pos : Nat) (affects : List Nat)
  /-- a pseudo-channel that keeps failing -/
  | failing (s pc : Nat)
deriving DecidableEq, Repr

/-- A link whose state changes (R12, R374, R379): links 0-14 of words 0x4000+n, or a UCIe link of a tile. -/
inductive LinkRef where
  | port (n : Nat)
  | ucie (tile : Nat)
deriving DecidableEq, Repr

/-- An access that a peer device makes to this one (R376). -/
structure PeerAccess where
  node : Nat
  addr : Nat
  write : Option (List Byte)
  len : Nat
deriving DecidableEq, Repr

/-- A host register named by a plain register write (R3, R358-R364): a hub register by its offset (R12, R20, R363),
or a register of a queue interface. -/
inductive RegRef where
  | hub (off : Nat)
  | qi (q : QRef) (off : Nat)
deriving DecidableEq, Repr

/-- What a reservation holds (R311): clusters, engines, pseudo-channel groups and the cadence ceiling. -/
structure Reservation where
  clusters : List Nat
  engines : List Nat
  pcgs : List Nat
  ceil : Nat
deriving DecidableEq, Repr

/-- What the boot ROM finds of one stage (R383). -/
structure StageImage where
  digest : List Byte
  digestOk : Bool
  signatureOk : Bool
  version : Nat
  minVersion : Nat
deriving DecidableEq, Repr

/-- What boot finds of this part: the four stages, the units it has (the map words), its cost table and revision. -/
structure BootInput where
  stages : List StageImage
  map : List (Nat × Word)
  costs : List (Nat × Word × Word)
  rev : Nat
deriving DecidableEq, Repr

/-- The machine's indivisible steps: Exian's instruction words, the stream-list commands, and the device's events. -/
inductive Instr where
  /-- Issuing the all-zero word traps with ILLEGAL_ZERO. (R67) -/
  | illegalZero
  /-- Issuing a word with opcode 0x000, an unassigned opcode, an illegal ATM pair or an opcode excluded on the MCC traps with ILLEGAL_OPCODE. (R67) -/
  | illegalOpcode (w : Word)
  /-- Issuing a word with opcode 0x300-0x3FF in a core's or the MCC's stream traps with STREAM_WORD. (R67) -/
  | streamWord (w : Word)
  /-- Does nothing, shifts no latch and is not guarded. (R103) -/
  | nop (f : RForm)
  /-- Adds a and b per element, with rounding or saturation as MODE gives. (R104) -/
  | add (f : RForm)
  /-- Subtracts b from a per element. (R104) -/
  | sub (f : RForm)
  /-- Multiplies a by b per element. (R104) -/
  | mul (f : RForm)
  /-- Returns the upper w bits of the exact integer product. (R104) -/
  | mulh (f : RForm)
  /-- Computes d + a*b as a fused operation with one rounding. (R104) -/
  | mac (f : RForm)
  /-- Returns the lesser of a and b per element. (R104) -/
  | min (f : RForm)
  /-- Returns the greater of a and b per element. (R104) -/
  | max (f : RForm)
  /-- Returns the absolute value of a per element. (R104) -/
  | abs (f : RForm)
  /-- Returns the negation of a per element. (R104) -/
  | neg (f : RForm)
  /-- Divides a by b per element; division by zero gives all ones or infinity and never traps. (R104) -/
  | div (f : RForm)
  /-- Returns the integer remainder, taking the sign of the dividend. (R104) -/
  | rem (f : RForm)
  /-- Computes 1/a, rounded once. (R107) -/
  | rcp (f : RForm)
  /-- Computes 1/sqrt(a), rounded once. (R107) -/
  | rsq (f : RForm)
  /-- Computes sqrt(a), rounded once. (R107) -/
  | sqrt (f : RForm)
  /-- Computes 2^a, rounded once. (R107) -/
  | exp2 (f : RForm)
  /-- Computes log2 a, rounded once. (R107) -/
  | log2 (f : RForm)
  /-- Computes tanh a, rounded once. (R107) -/
  | tanh (f : RForm)
  /-- Bitwise and of a and b. (R109) -/
  | and_ (f : RForm)
  /-- Bitwise or of a and b. (R109) -/
  | or_ (f : RForm)
  /-- Bitwise exclusive-or of a and b. (R109) -/
  | xor_ (f : RForm)
  /-- Bitwise a and not b. (R109) -/
  | andn (f : RForm)
  /-- Shifts a left by n, giving 0 when n is 32 or more. (R109) -/
  | shl (f : RForm)
  /-- Shifts a right by n with zero fill. (R109) -/
  | shr (f : RForm)
  /-- Shifts a right by n with sign fill. (R109) -/
  | sar (f : RForm)
  /-- Rotates a left by n mod 32. (R109) -/
  | rot (f : RForm)
  /-- Counts the set bits of a. (R109) -/
  | popc (f : RForm)
  /-- Counts the leading zero bits of a. (R109) -/
  | clz (f : RForm)
  /-- Reverses the bit order of a. (R109) -/
  | brev (f : RForm)
  /-- Extracts a bit field, with sign extension under signed types. (R110) -/
  | bfx (f : RForm)
  /-- Inserts a bit field of a into d. (R110) -/
  | bfi (f : RForm)
  /-- Permutes bytes of a and d under the nibbles of b. (R111) -/
  | prmt (f : RForm)
  /-- Converts elements into binary32 at the position that b selects. (R112) -/
  | cvtF32 (f : RForm)
  /-- Converts elements into bfloat16. (R112) -/
  | cvtBf16 (f : RForm)
  /-- Converts elements into binary16. (R112) -/
  | cvtF16 (f : RForm)
  /-- Converts elements into E4M3. (R112) -/
  | cvtE4m3 (f : RForm)
  /-- Converts elements into E5M2. (R112) -/
  | cvtE5m2 (f : RForm)
  /-- Converts elements into E2M1. (R112) -/
  | cvtE2m1 (f : RForm)
  /-- Converts elements into DYAD8, ignoring MODE.round and MODE.sat. (R86) -/
  | cvtDy8 (f : RForm)
  /-- Converts elements into signed 32-bit integers. (R112) -/
  | cvtI32 (f : RForm)
  /-- Converts elements into natural 32-bit integers. (R112) -/
  | cvtN32 (f : RForm)
  /-- Converts elements into signed 8-bit integers. (R112) -/
  | cvtI8 (f : RForm)
  /-- Converts elements into natural 8-bit integers. (R112) -/
  | cvtN8 (f : RForm)
  /-- Sets a predicate per lane where a equals b in every element. (R114) -/
  | cmpEq (f : RForm)
  /-- Sets a predicate where a differs from b. (R114) -/
  | cmpNe (f : RForm)
  /-- Sets a predicate where a is less than b. (R114) -/
  | cmpLt (f : RForm)
  /-- Sets a predicate where a is at most b. (R114) -/
  | cmpLe (f : RForm)
  /-- Sets a predicate where a is greater than b. (R114) -/
  | cmpGt (f : RForm)
  /-- Sets a predicate where a is at least b. (R114) -/
  | cmpGe (f : RForm)
  /-- Sets a predicate where neither input is NaN. (R114) -/
  | cmpOrd (f : RForm)
  /-- Sets a predicate where either input is NaN. (R114) -/
  | cmpUnord (f : RForm)
  /-- Predicate and, per lane. (R116) -/
  | pand (f : RForm)
  /-- Predicate or, per lane. (R116) -/
  | por (f : RForm)
  /-- Predicate exclusive-or, per lane. (R116) -/
  | pxor (f : RForm)
  /-- Predicate not, per lane. (R116) -/
  | pnot (f : RForm)
  /-- Copies a predicate, or sets it where a value is nonzero. (R116) -/
  | pmov (f : RForm)
  /-- Writes 1 to a scalar if the predicate holds in any counted lane. (R117) -/
  | vany (f : RForm)
  /-- Writes 1 to a scalar if the predicate holds in every counted lane. (R117) -/
  | vall (f : RForm)
  /-- Writes the ballot mask of the predicate over the counted lanes. (R117) -/
  | vbal (f : RForm)
  /-- Reads a from the lane indexed by b. (R118) -/
  | shfl (f : RForm)
  /-- Reads a from lane l xor n. (R118) -/
  | shflx (f : RForm)
  /-- Reads a from lane l - n. (R118) -/
  | shflu (f : RForm)
  /-- Reads a from lane l + n. (R118) -/
  | shfld (f : RForm)
  /-- Copies one lane of a vector into a scalar. (R119) -/
  | bcast (f : RForm)
  /-- Writes a scalar into one lane of a vector. (R120) -/
  | lwr (f : RForm)
  /-- Copies a into d. (R121) -/
  | mov (f : RForm)
  /-- Writes a where the guard is true and b elsewhere; never suppressed. (R122) -/
  | sel (f : RForm)
  /-- Writes MODE from bits [14:0] of a uniform operand. (R126) -/
  | msetr (f : RForm)
  /-- At the innermost frame's join address, waits for the frame's splits and re-gangs them, or takes up a recorded side. (R132) -/
  | join (f : RForm)
  /-- Pops the return stack and continues at the popped address, travelling if it lies in another clause. (R135) -/
  | ret (f : RForm)
  /-- Pops the innermost loop and continues at its end address. (R138) -/
  | lbrk (f : RForm)
  /-- Removes the guarded active lanes for good, ending the split, group and team when none remain. (R39) -/
  | exit (f : RForm)
  /-- A switch point whose wait ends 8 local cycles after issue. (R140) -/
  | yld (f : RForm)
  /-- Raises the BKPT trap and halts every split of the group. (R142) -/
  | bkpt (f : RForm)
  /-- Calls through a jump-table entry, trapping with JTAB_RANGE on a bad table or entry. (R134) -/
  | callt (f : RForm)
  /-- Opens a hardware loop, or skips it when the count is 0 or the leader's guard is false. (R136) -/
  | lpb (f : RForm)
  /-- Loads the sign-extended k15 constant. (R123) -/
  | ldi (f : KForm)
  /-- Places k15 in bits [31:17] and keeps bits [16:0] of d. (R123) -/
  | ldih (f : KForm)
  /-- Loads word k of the constant pool. (R123) -/
  | ldc (f : KForm)
  /-- Reads a special register; a read of LCLK also captures LCLKH. (R124) -/
  | srd (f : KForm)
  /-- Writes a special register, with per-register effects for EXEC, FPX, RNGS, MODE and LIVE. (R125) -/
  | swr (f : KForm)
  /-- Writes k15 into MODE [14:0]. (R126) -/
  | mset (f : KForm)
  /-- Pushes a split frame that holds a join address and the stack depths. (R131) -/
  | jmark (f : KForm)
  /-- Acquires an extended register window, waiting for a free block. (R143) -/
  | xacq (f : KForm)
  /-- Releases an extended register window and its block. (R144) -/
  | xrel (f : KForm)
  /-- Hints the group's coming phase; has no architectural effect. (R141) -/
  | phase (f : KForm)
  /-- Raises SW_TRAP with TRAPC.info = k. (R337) -/
  | trap (f : KForm)
  /-- Writes the LIVE mask that selects the registers that travel. (R295) -/
  | live (f : KForm)
  /-- Reads an allow-listed event counter of the partition, else gives 0 and sets CNTX. (R361) -/
  | cntrd (f : KForm)
  /-- Reads one construction-map word at a single version. (R328) -/
  | maprd (f : KForm)
  /-- Loads 4 bytes per lane from the scratchpad allotment. (R210) -/
  | lds32 (f : RForm)
  /-- Loads 8 bytes per lane from the scratchpad allotment. (R210) -/
  | lds64 (f : RForm)
  /-- Loads 16 bytes per lane from the scratchpad allotment. (R210) -/
  | lds128 (f : RForm)
  /-- Stores 4 bytes per lane to the scratchpad allotment. (R210) -/
  | sts32 (f : RForm)
  /-- Stores 8 bytes per lane to the scratchpad allotment. (R210) -/
  | sts64 (f : RForm)
  /-- Stores 16 bytes per lane to the scratchpad allotment. (R210) -/
  | sts128 (f : RForm)
  /-- Loads 4 bytes per lane by virtual address, after translation and checks. (R211) -/
  | ldg32 (f : RForm)
  /-- Loads 8 bytes per lane by virtual address. (R211) -/
  | ldg64 (f : RForm)
  /-- Loads 16 bytes per lane by virtual address. (R211) -/
  | ldg128 (f : RForm)
  /-- Stores 4 bytes per lane by virtual address. (R211) -/
  | stg32 (f : RForm)
  /-- Stores 8 bytes per lane by virtual address. (R211) -/
  | stg64 (f : RForm)
  /-- Stores 16 bytes per lane by virtual address. (R211) -/
  | stg128 (f : RForm)
  /-- Acquire fence at MODE.scope, pairing through spc atomics. (R215) -/
  | fenceAcq (f : RForm)
  /-- Release fence at MODE.scope, which flushes qnt buffers at clu scope or wider. (R215) -/
  | fenceRel (f : RForm)
  /-- Acquire-release fence at MODE.scope. (R215) -/
  | fenceAr (f : RForm)
  /-- Flushes every qnt buffer of the home cluster. (R216) -/
  | flushq (f : RForm)
  /-- Initialises a named barrier with its expected arrival count. (R219) -/
  | bari (f : RForm)
  /-- Arrives at a named barrier as a release and returns the ticket. (R219) -/
  | bara (f : RForm)
  /-- Waits until the ticket's generation completes, then acquires. (R219) -/
  | barw (f : RForm)
  /-- Arrives at a named barrier and waits on the ticket of that arrival. (R219) -/
  | baraw (f : RForm)
  /-- Team barrier: the group arrives when all its splits wait, and the barrier completes when every live group has arrived. (R220) -/
  | tbar (f : RForm)
  /-- Initialises a tray header from a descriptor. (R223) -/
  | tri (f : RForm)
  /-- Claims the next tray index, waiting while the window is full. (R224) -/
  | trc (f : RForm)
  /-- Fills a claimed index as a release and advances filled. (R225) -/
  | trf (f : RForm)
  /-- Waits for an index to fill or resolve and returns its state code, or takes an engine fault report. (R226) -/
  | trw (f : RForm)
  /-- Releases an index and advances released. (R227) -/
  | trr (f : RForm)
  /-- Opens a HELD index of a HOLD tray, then runs resolution. (R228) -/
  | tro (f : RForm)
  /-- Vetoes a HELD index of a HOLD tray, then runs resolution. (R228) -/
  | trv (f : RForm)
  /-- Reads a tray counter or header word, or restarts or abandons the tray's parked commands. (R229) -/
  | trq (f : RForm)
  /-- Checks a box copy and gives it to an engine of the grid's engine share. (R232) -/
  | tcopy (f : RForm)
  /-- Issues a box copy whose writes commit only if the version word matches. (R236) -/
  | tcopyv (f : RForm)
  /-- Writes or invalidates a tensor-table entry. (R230) -/
  | tset (f : RForm)
  /-- Reads one word of a tensor-table entry. (R231) -/
  | tget (f : RForm)
  /-- Starts a stream list on an engine and returns its handle. (R239) -/
  | slrun (f : RForm)
  /-- Advances a list's tail, making its words reachable by the engine. (R240) -/
  | stail (f : RForm)
  /-- Reads a tray's engine sequence number. (R241) -/
  | slseq (f : RForm)
  /-- Unordered atomic read-modify-write of operation op, returning the old value. (R214) -/
  | atmUnp (op : AtmOp) (f : RForm)
  /-- Combining atomic update of operation op, merged in transit, returning nothing. (R192) -/
  | atmCom (op : AtmOp) (f : RForm)
  /-- Coherent atomic of operation op outside ordered-before, returning the old value. (R214) -/
  | atmNor (op : AtmOp) (f : RForm)
  /-- Atomic of operation op combined in the cluster's per-location buffer. (R193) -/
  | atmQnt (op : AtmOp) (f : RForm)
  /-- Speculative atomic of operation op; a cas may fail spuriously. (R194) -/
  | atmSpc (op : AtmOp) (f : RForm)
  /-- Atomic of operation op whose read is an acquire at MODE.scope. (R214) -/
  | atmAcq (op : AtmOp) (f : RForm)
  /-- Atomic of operation op whose write is a release at MODE.scope. (R214) -/
  | atmRel (op : AtmOp) (f : RForm)
  /-- Atomic of operation op that is both acquire and release. (R214) -/
  | atmAr (op : AtmOp) (f : RForm)
  /-- Writes MSHP, the mask of bands that take part in MSTR and MCLR. (R264) -/
  | mshape (f : RForm)
  /-- Queues a load of the shadow weight plane from a tensor. (R266) -/
  | mwl (f : RForm)
  /-- Queues an exchange of the active and shadow planes. (R267) -/
  | mswap (f : RForm)
  /-- Queues streaming of activation rows into an accumulator tile. (R268) -/
  | mstr (f : RForm)
  /-- Queues a scaled, converted drain of tile rows to a tensor or tray. (R269) -/
  | mdrn (f : RForm)
  /-- Queues writing +0 into the selected bands of a tile. (R270) -/
  | mclr (f : RForm)
  /-- Writes the drain scale, rounding and saturation. (R265) -/
  | mscl (f : RForm)
  /-- Waits until all but the n most recent queued operations have completed. (R271) -/
  | mwait (f : RForm)
  /-- Returns the clause, replica and station of the current PC. (R296) -/
  | clid (f : RForm)
  /-- Returns a snapshot of a station's queue, spill and free slots. (R297) -/
  | aqst (f : RForm)
  /-- Launches a child grid under a standing quote and returns a child handle. (R326) -/
  | launch (f : RForm)
  /-- Waits for a child grid to complete and returns its outcome. (R327) -/
  | lwait (f : RForm)
  /-- Acknowledges a map version, closing the windows up to it. (R329) -/
  | mapack (f : RForm)
  /-- Ends a handler, restores user state and delivers any queued or pending trap. (R339) -/
  | rtt (f : RForm)
  /-- Maps a zeroed pool page at a first-touch address. (R340) -/
  | pfmap (f : RForm)
  /-- Invalidates the context's cached translations of a range on every tile. (R341) -/
  | tlbi (f : RForm)
  /-- Reads one word of the context's error log. (R342) -/
  | errrd (f : RForm)
  /-- Ends a handler by ending the split, the group or the context, or by escalating to the host. (R343) -/
  | kill (f : RForm)
  /-- Guarded branch that moves, divides or serialises the split, or travels. (R130) -/
  | br (off : BitVec 22)
  /-- Pushes the return address and branches, after the depth check. (R133) -/
  | call (off : BitVec 22)
  /-- Ends a loop trip: starts another trip, or pops the loop. (R137) -/
  | lpe (off : BitVec 22)
  /-- Engine reads a tensor box into the current slot and fills it. (R243) -/
  | sfetch (f : BoxForm)
  /-- Engine waits for the consume index, writes its box to a tensor unless vetoed, and releases the index. (R243) -/
  | sstore (f : BoxForm)
  /-- Pushes a stream-list loop entry. (R243) -/
  | sloop (trips : BitVec 16) (rsv : BitVec 6)
  /-- Repeats the list loop from its start, or pops it. (R243) -/
  | snext (rsv : BitVec 22)
  /-- Adds a signed step to a list register. (R243) -/
  | sadv (c : BitVec 3) (step : BitVec 19)
  /-- Claims a tray index as the list's current slot, waiting for window room. (R243) -/
  | swaitf (rsv : BitVec 22)
  /-- Engine acquire at the given scope. (R243) -/
  | sacq (rsv : BitVec 20) (scope : BitVec 2)
  /-- Engine release at the given scope. (R243) -/
  | srel (rsv : BitVec 20) (scope : BitVec 2)
  /-- Increments the tray's seq after all earlier writes of the list. (R243) -/
  | sseq (rsv : BitVec 22)
  /-- Continues reading the list at another block. (R243) -/
  | slink (rsv : BitVec 22) (lo hi : Word)
  /-- Ends the list and frees its place on the engine. (R243) -/
  | shalt (rsv : BitVec 22)
  /-- Sets a list register from the extension word. (R243) -/
  | sset (c : BitVec 3) (rsv : BitVec 19) (v : Word)
  /-- An engine performs a TCOPY or TCOPYV command: claim, read box, write, release, status, fill. (R234) -/
  | engineCopy (k : Nat)
  /-- An engine waiting at a tail, a full window or a consume index resumes once the condition holds. (R243) -/
  | engineWaitEnd (k serial : Nat)
  /-- An instruction-store line fill from the tile's code copy completes and the waiting fetch proceeds. (R48) -/
  | lineFill (gid entry : Nat)
  /-- A waiting split becomes ready within 16 local cycles of its condition holding. (R41) -/
  | splitReady (gid entry : Nat)
  /-- A declared-wait counter would pass its limit, trapping and voiding the quote. (R314) -/
  | limitWait (w : Waiter)
  /-- A pending asynchronous trap is delivered at the group's next free instruction boundary. (R333) -/
  | asyncTrapDelivery (gid : Nat)
  /-- The distributor forms and places a gang once it fits, and starts its groups and MCC. (R27) -/
  | gangForm (grid stage : Nat) (p : List TeamPlace)
  /-- A pre-emption request halts every group of the gangs at instruction boundaries within 2 us and saves their state. (R49) -/
  | preEmption (gang : Nat) (by_ : Requester)
  /-- A suspended gang or sentence is restored exactly on cores that can take it. (R50) -/
  | gangResume (gang : Nat) (p : List TeamPlace)
  /-- A grid completes when all teams have retired, MCC queues are empty and engine commands have ended. (R47) -/
  | gridComplete (grid : Nat)
  /-- A travel packet reaches its station and takes its reserved place. (R288) -/
  | packetArrival (packet : Nat)
  /-- A station admits its oldest return packet, or else its oldest packet, as a new group when a slot is free. (R289) -/
  | admission (gang station : Nat)
  /-- A queued matrix operation starts once the operations before it have started and its conflicts have cleared. (R258) -/
  | queueStart (c i rows : Nat)
  /-- A queued matrix operation completes, for MSTR 264 cycles after its last beat. (R254) -/
  | queueComplete (c i : Nat)
  /-- A running queued operation faults, stops at a row boundary and halts the queue. (R259) -/
  | queueFault (c i : Nat)
  /-- A band idle longer than BANDIDLE cycles is gated. (R255) -/
  | bandGate (c band : Nat)
  /-- A power alarm forces narrowed mode on a cluster. (R256) -/
  | narrowedMode (c : Nat) (on : Bool)
  /-- The power controller writes MCAD, effective at a beat boundary and never above a quote's ceiling. (R254) -/
  | cadenceChange (c cad : Nat)
  /-- The power controller issues dummy beats into unselected bands. (R382) -/
  | ballastRow (c bands : Nat)
  /-- A partition's rail vote lapses after the settle interval and the rail falls. (R381) -/
  | railVoteLapse (tile part : Nat)
  /-- ENERGY and QNRG are refreshed every 65,536 local cycles. (R336) -/
  | energyRefresh (gid steps : Nat)
  /-- A budget is exhausted without a limit trap, and a BREACH record is written. (R316) -/
  | breach (grid team : Nat) (kind : BreachKind) (cause : Nat)
  /-- A quote's validity ends and it expires or lapses without blame. (R310) -/
  | quoteLapse (qid : Nat)
  /-- A handler that has not ended within 2^20 cycles is stopped and its group suspended. (R347) -/
  | watchdog (gid : Nat)
  /-- An acknowledgement window expires, suspending the context and voiding its quotes. (R18) -/
  | mapAckLate (ctx : Nat)
  /-- A degradation or restoration is published with MAPV raised by 1. (R13) -/
  | mapPublish (m : MapChange)
  /-- Patrol scrub reads and corrects codewords, and may record erasures or retire pseudo-channels. (R351) -/
  | patrolScrub (f : ScrubFinding)
  /-- Free pages below the low mark start engine demotion of clock-scan victims. (R158) -/
  | demotion (ctx va : Nat)
  /-- A migrated page's entry is rewritten, stale TLB entries are removed and M clears. (R158) -/
  | migrationDone (ctx va : Nat) (frame : Nat)
  /-- The scheduler drains a cluster and runs its scan patterns. (R352) -/
  | scan (c : Nat)
  /-- A scan passes, the cluster gets a PROOF mark and held slots become proofed. (R352) -/
  | scanPass (c : Nat)
  /-- A failed scan retires the cluster, writes SUSPECT records, delivers SCAN_FAIL and vetoes held slots. (R355) -/
  | scanFail (c : Nat)
  /-- A Nirler, UCIe, PCIe or CXL link goes down, trains, comes up or is reduced. (R377) -/
  | linkStateChange (l : LinkRef) (w : Word)
  /-- A peer stays RECOVERING past NIRTO and becomes LOST; its held accesses trap. (R377) -/
  | peerLost (node : Nat)
  /-- An arriving peer access is performed inside an open window or refused. (R376) -/
  | peerAccess (a : PeerAccess)
  /-- A host write of SQTAIL lets the device consume packets in hseq order, or stop with SEQERR. (R365) -/
  | sqtail (q : QRef) (v : Word)
  /-- A host write of CQACK frees ring room and writes held records. (R368) -/
  | cqack (q : QRef) (v : Word)
  /-- A write of 1 clears SEQERR, making the device reread the entry, or clears DROP and the drop counters. (R364) -/
  | qstat (q : QRef) (v : Word)
  /-- Setting en enables the interface and resets its sequence counters. (R364) -/
  | qcfg (q : QRef) (v : Word)
  /-- Clearing valid revokes the PASID, suspending the context's grids and voiding their quotes. (R370) -/
  | qpasid (q : QRef) (v : Word)
  /-- Assigns or enables a function, ignored while it has a running grid. (R363) -/
  | fnpart (f : Nat) (v : Word)
  /-- Clears a LOST peer so that it becomes absent. (R378) -/
  | peerclr (v : Word)
  /-- A partition's rail level vote, raised before its work runs faster. (R381) -/
  | pwrvote (p : Nat) (v : Word)
  /-- Sets the band gating timeout, effective at each band's next busy-to-idle transition. (R22) -/
  | bandidle (v : Word)
  /-- Sets a partition's ranges, weight, lending and hold grants; overlapping writes are ignored. (R359) -/
  | partitionRegisters (p off : Nat) (v : Word)
  /-- A write to a register without a row of its own updates its RW fields. (R3) -/
  | registerWrite (r : RegRef) (v : Word)
  /-- The QIRQ delay elapses after the first unreported record and an MSI-X interrupt is sent. (R368) -/
  | interruptDelay (q : QRef)
  /-- A QUOTE packet starts a walk of the kernel against the current map and cost table. (R308) -/
  | quote (q : QRef)
  /-- The walk ends, the reservation is held and quote records and a QUOTED record are written. (R308) -/
  | quoted (q : QRef) (r : Reservation)
  /-- Accepts named quotes, refusing expired, touched, used or unknown ones. (R310) -/
  | accept (q : QRef)
  /-- Releases the named quotes. (R310) -/
  | decline (q : QRef)
  /-- Launches a grid on an accepted quote, choosing a bucket, or is refused. (R322) -/
  | launchPacket (q : QRef)
  /-- The host acknowledges a map version for the context. (R329) -/
  | mapackPacket (q : QRef)
  /-- Suspends a grid as an operator action. (R348) -/
  | halt (q : QRef)
  /-- HALT with abort delivers HOST_ABORT to every group and MCC of the grid. (R348) -/
  | haltAbort (q : QRef)
  /-- Resumes a suspended grid or one named group. (R366) -/
  | resume (q : QRef)
  /-- Logs a host input's digest in the grid's replay log. (R356) -/
  | record (q : QRef)
  /-- Sets the interface's context: table root, supervisor code and HDLR. (R370) -/
  | context (q : QRef)
  /-- Adds local HBM pages to the context's page pool. (R370) -/
  | pool (q : QRef)
  /-- Registers a HOLD tray for egress to a host buffer. (R373) -/
  | egreg (q : QRef)
  /-- Releases OPEN egress indices up to i at sys scope. (R373) -/
  | egack (q : QRef)
  /-- The egress copies the next resolved OPEN slot and writes its record, or releases a VETOED one. (R373) -/
  | egress (n : Nat)
  /-- A function-level reset stops, voids and scrubs the function's work and resets its interfaces. (R371) -/
  | flr (f : Nat)
  /-- A host PASID stop revokes the PASID at the next packet boundary. (R370) -/
  | pasidStop (q : QRef)
  /-- An ATS invalidation completes after every access using the translation is performed. (R370) -/
  | atsInvalidation (q : QRef) (iova pages : Nat)
  /-- Boot verifies stages 1-4 and sets MAPV to 1, or records a failure in BOOTSTAT. (R383) -/
  | boot (b : BootInput)
  /-- SPDM GET_VERSION request through the DOE mailbox. (R385) -/
  | getVersion (msg : List Byte)
  /-- SPDM GET_CAPABILITIES request. (R385) -/
  | getCapabilities (msg : List Byte)
  /-- SPDM NEGOTIATE_ALGORITHMS request. (R385) -/
  | negotiateAlgorithms (msg : List Byte)
  /-- SPDM GET_DIGESTS request. (R385) -/
  | getDigests (msg : List Byte)
  /-- SPDM GET_CERTIFICATE request. (R385) -/
  | getCertificate (msg : List Byte)
  /-- SPDM CHALLENGE request. (R385) -/
  | challenge (msg : List Byte)
  /-- SPDM GET_MEASUREMENTS request returning stage digests, MAPV and CAPCOSTV. (R385) -/
  | getMeasurements (msg : List Byte)
  /-- SPDM KEY_EXCHANGE request. (R385) -/
  | keyExchange (msg : List Byte)
  /-- SPDM FINISH request completing key exchange for IDE. (R385) -/
  | finish (msg : List Byte)
  /-- A TDISP protocol message moves a virtual function into or out of the LOCKED or RUN state, in which writes to QCFG, the ring bases and QPASID are ignored. (R372) -/
  | tdispProtocol (f : Nat) (locked : Bool)
deriving DecidableEq, Repr

end Sys2Proof
end

