-- ==== Sys2Proof/Decode.lean ====
section
/-! DEFINITION. The decoder, total on any word, and the encoder. A word of a core's or the MCC's stream always decodes:
what is no legal instruction has a fate of its own (R67). A stream engine decodes the commands of R242 and refuses,
by name, what is none. -/
namespace Sys2Proof

/-- A 7-bit operand field (R55). -/
def Operand.ofNat (x : Nat) : Operand :=
  if h : x < 64 then .vreg ⟨x, h⟩
  else if h : x - 64 < 32 then .sreg ⟨x - 64, h⟩
  else if h : x - 96 < 4 then .latch ⟨x - 96, h⟩
  else if h : x - 100 < 8 then .preg ⟨x - 100, h⟩
  else if x = 108 then .zero
  else if x = 109 then .one
  else if x = 110 then .ones
  else if x = 111 then .lane
  else if x = 112 then .grp
  else if x = 113 then .team
  else if x = 114 then .stage
  else if x = 115 then .slice
  else .reserved ⟨(x - 116) % 12, Nat.mod_lt _ (by decide)⟩

/-- The value of an operand's field (R55). -/
def Operand.toNat : Operand → Nat
  | .vreg n => n.val
  | .sreg n => 64 + n.val
  | .latch n => 96 + n.val
  | .preg n => 100 + n.val
  | .zero => 108
  | .one => 109
  | .ones => 110
  | .lane => 111
  | .grp => 112
  | .team => 113
  | .stage => 114
  | .slice => 115
  | .reserved n => 116 + n.val

/-- The op codes of R66. -/
def AtmOp.ofCode : Nat → AtmOp
  | 0 => .add
  | 1 => .min
  | 2 => .max
  | 3 => .and_
  | 4 => .or_
  | 5 => .xor_
  | 6 => .xchg
  | _ => .cas

/-- The code of an atomic's operation (R66). -/
def AtmOp.code : AtmOp → Nat
  | .add => 0
  | .min => 1
  | .max => 2
  | .and_ => 3
  | .or_ => 4
  | .xor_ => 5
  | .xchg => 6
  | .cas => 7

/-- The fields of a format-R word (R53). -/
def rform (w : Nat) : RForm :=
  { nw := bit w 21, d := .ofNat (field w 20 14), a := .ofNat (field w 13 7), b := .ofNat (field w 6 0) }

/-- The fields of a format-K word (R53). -/
def kform (w : Nat) : KForm := { d := .ofNat (field w 21 15), k := BitVec.ofNat 15 w }

/-- The format-R opcodes of R65. -/
def opR : Nat → Option (RForm → Instr)
  | 0x001 => some .nop
  | 0x010 => some .add
  | 0x011 => some .sub
  | 0x012 => some .mul
  | 0x013 => some .mulh
  | 0x014 => some .mac
  | 0x015 => some .min
  | 0x016 => some .max
  | 0x017 => some .abs
  | 0x018 => some .neg
  | 0x019 => some .div
  | 0x01A => some .rem
  | 0x020 => some .rcp
  | 0x021 => some .rsq
  | 0x022 => some .sqrt
  | 0x023 => some .exp2
  | 0x024 => some .log2
  | 0x025 => some .tanh
  | 0x030 => some .and_
  | 0x031 => some .or_
  | 0x032 => some .xor_
  | 0x033 => some .andn
  | 0x034 => some .shl
  | 0x035 => some .shr
  | 0x036 => some .sar
  | 0x037 => some .rot
  | 0x038 => some .popc
  | 0x039 => some .clz
  | 0x03A => some .brev
  | 0x03B => some .bfx
  | 0x03C => some .bfi
  | 0x03D => some .prmt
  | 0x040 => some .cvtF32
  | 0x041 => some .cvtBf16
  | 0x042 => some .cvtF16
  | 0x043 => some .cvtE4m3
  | 0x044 => some .cvtE5m2
  | 0x045 => some .cvtE2m1
  | 0x046 => some .cvtDy8
  | 0x047 => some .cvtI32
  | 0x048 => some .cvtN32
  | 0x049 => some .cvtI8
  | 0x04A => some .cvtN8
  | 0x050 => some .cmpEq
  | 0x051 => some .cmpNe
  | 0x052 => some .cmpLt
  | 0x053 => some .cmpLe
  | 0x054 => some .cmpGt
  | 0x055 => some .cmpGe
  | 0x056 => some .cmpOrd
  | 0x057 => some .cmpUnord
  | 0x060 => some .pand
  | 0x061 => some .por
  | 0x062 => some .pxor
  | 0x063 => some .pnot
  | 0x064 => some .pmov
  | 0x065 => some .vany
  | 0x066 => some .vall
  | 0x067 => some .vbal
  | 0x070 => some .shfl
  | 0x071 => some .shflx
  | 0x072 => some .shflu
  | 0x073 => some .shfld
  | 0x074 => some .bcast
  | 0x075 => some .lwr
  | 0x080 => some .mov
  | 0x081 => some .sel
  | 0x090 => some .msetr
  | 0x091 => some .join
  | 0x092 => some .ret
  | 0x093 => some .lbrk
  | 0x094 => some .exit
  | 0x095 => some .yld
  | 0x096 => some .bkpt
  | 0x097 => some .callt
  | 0x098 => some .lpb
  | 0x140 => some .lds32
  | 0x141 => some .lds64
  | 0x142 => some .lds128
  | 0x144 => some .sts32
  | 0x145 => some .sts64
  | 0x146 => some .sts128
  | 0x148 => some .ldg32
  | 0x149 => some .ldg64
  | 0x14A => some .ldg128
  | 0x14C => some .stg32
  | 0x14D => some .stg64
  | 0x14E => some .stg128
  | 0x150 => some .fenceAcq
  | 0x151 => some .fenceRel
  | 0x152 => some .fenceAr
  | 0x153 => some .flushq
  | 0x158 => some .bari
  | 0x159 => some .bara
  | 0x15A => some .barw
  | 0x15B => some .baraw
  | 0x15C => some .tbar
  | 0x160 => some .tri
  | 0x161 => some .trc
  | 0x162 => some .trf
  | 0x163 => some .trw
  | 0x164 => some .trr
  | 0x165 => some .tro
  | 0x166 => some .trv
  | 0x167 => some .trq
  | 0x168 => some .tcopy
  | 0x169 => some .tcopyv
  | 0x16A => some .tset
  | 0x16B => some .tget
  | 0x170 => some .slrun
  | 0x171 => some .stail
  | 0x172 => some .slseq
  | 0x1C0 => some .mshape
  | 0x1C1 => some .mwl
  | 0x1C2 => some .mswap
  | 0x1C3 => some .mstr
  | 0x1C4 => some .mdrn
  | 0x1C5 => some .mclr
  | 0x1C6 => some .mscl
  | 0x1C7 => some .mwait
  | 0x1D0 => some .clid
  | 0x1D1 => some .aqst
  | 0x1E0 => some .launch
  | 0x1E1 => some .lwait
  | 0x1E2 => some .mapack
  | 0x1F0 => some .rtt
  | 0x1F1 => some .pfmap
  | 0x1F2 => some .tlbi
  | 0x1F3 => some .errrd
  | 0x1F4 => some .kill
  | _ => none

/-- The format-K opcodes of R63. -/
def opK : Nat → Option (KForm → Instr)
  | 0x100 => some .ldi
  | 0x101 => some .ldih
  | 0x102 => some .ldc
  | 0x103 => some .srd
  | 0x104 => some .swr
  | 0x105 => some .mset
  | 0x106 => some .jmark
  | 0x107 => some .xacq
  | 0x108 => some .xrel
  | 0x109 => some .phase
  | 0x10A => some .trap
  | 0x10B => some .live
  | 0x10D => some .cntrd
  | 0x10E => some .maprd
  | _ => none

/-- The format-B opcodes of R65. -/
def opB : Nat → Option (BitVec 22 → Instr)
  | 0x200 => some .br
  | 0x201 => some .call
  | 0x202 => some .lpe
  | _ => none

/-- The use codes of R66. -/
def opAtm : Nat → AtmOp → RForm → Instr
  | 0 => .atmUnp
  | 1 => .atmCom
  | 2 => .atmNor
  | 3 => .atmQnt
  | 4 => .atmSpc
  | 5 => .atmAcq
  | 6 => .atmRel
  | _ => .atmAr

/-- The ten illegal pairs of R66: `com` or `qnt` with `xchg` or `cas`, `spc` with `add` to `xor`. -/
def atmIllegal (op use : Nat) : Bool :=
  ((use == 1 || use == 3) && decide (6 ≤ op)) || (use == 4 && decide (op < 6))

/-- A word with an opcode below 0x300 (R65, R66, R67). -/
def decodeOp (w : Word) (op : Nat) : Instr :=
  if 0x180 ≤ op ∧ op < 0x1C0 then
    let o := (op - 0x180) / 8
    let u := op % 8
    if atmIllegal o u then .illegalOpcode w else opAtm u (.ofCode o) (rform w.toNat)
  else
    match opR op with
    | some mk => mk (rform w.toNat)
    | none =>
      match opK op with
      | some mk => mk (kform w.toNat)
      | none =>
        match opB op with
        | some mk => mk (BitVec.ofNat 22 w.toNat)
        | none => .illegalOpcode w

/-- The instruction that a core or an MCC reads in a word of its stream (R52, R67, R68). -/
def decode (w : Word) : Instr :=
  if w = 0 then .illegalZero
  else if 0x300 ≤ field w.toNat 31 22 then .streamWord w
  else decodeOp w (field w.toNat 31 22)

/-- The commands of a stream list (R242). -/
def Instr.isCommand : Instr → Bool
  | .sfetch _ | .sstore _ | .sloop _ _ | .snext _ | .sadv _ _ | .swaitf _ | .sacq _ _ | .srel _ _ | .sseq _ | .slink _ _ _
  | .shalt _ | .sset _ _ _ => true
  | _ => false

/-- Why a stream engine finds no command (R242): the opcode lies outside 0x300-0x30B. -/
inductive StreamError where
  | illegalOpcode
deriving DecidableEq, Repr

/-- The number of extension words of a stream command (R242). -/
def streamExt : Nat → Nat
  | 0x300 => 1
  | 0x301 => 1
  | 0x309 => 2
  | 0x30B => 1
  | _ => 0

/-- The fields of `SFETCH` and `SSTORE` (R242). -/
def boxForm (w : Nat) (box : Word) : BoxForm :=
  { tid := BitVec.ofNat 8 (w / 2 ^ 14), quad := bit w 13, acq := bit w 12, rel := bit w 11, mirror := bit w 10,
    scope := BitVec.ofNat 2 (w / 2 ^ 8), rsv := BitVec.ofNat 8 w, box := box }

/-- The command that a stream engine reads in a list word and its extension words `x`, `y` (R242). -/
def decodeStream (w x y : Word) : Except StreamError Instr :=
  let n := w.toNat
  match field n 31 22 with
  | 0x300 => .ok (.sfetch (boxForm n x))
  | 0x301 => .ok (.sstore (boxForm n x))
  | 0x302 => .ok (.sloop (BitVec.ofNat 16 (n / 2 ^ 6)) (BitVec.ofNat 6 n))
  | 0x303 => .ok (.snext (BitVec.ofNat 22 n))
  | 0x304 => .ok (.sadv (BitVec.ofNat 3 (n / 2 ^ 19)) (BitVec.ofNat 19 n))
  | 0x305 => .ok (.swaitf (BitVec.ofNat 22 n))
  | 0x306 => .ok (.sacq (BitVec.ofNat 20 (n / 4)) (BitVec.ofNat 2 n))
  | 0x307 => .ok (.srel (BitVec.ofNat 20 (n / 4)) (BitVec.ofNat 2 n))
  | 0x308 => .ok (.sseq (BitVec.ofNat 22 n))
  | 0x309 => .ok (.slink (BitVec.ofNat 22 n) x y)
  | 0x30A => .ok (.shalt (BitVec.ofNat 22 n))
  | 0x30B => .ok (.sset (BitVec.ofNat 3 (n / 2 ^ 19)) (BitVec.ofNat 19 n) x)
  | _ => .error .illegalOpcode

/-- The word of a list of little-endian bytes, 0 beyond its end (R1, R52). -/
def wordLE (bs : List Byte) : Word := word (natLE (bs.take 4))

/-- The instruction at the head of the bytes of a core's stream, with the bytes after it; none when fewer than four
bytes are left. -/
def decodeBytes (bs : List Byte) : Option (Instr × List Byte) :=
  if bs.length < 4 then none else some (decode (wordLE bs), bs.drop 4)

/-- The command at the head of the bytes of a stream list, with the bytes after it and its extension words. -/
def decodeStreamBytes (bs : List Byte) : Except StreamError (Instr × List Byte) :=
  let w := wordLE bs
  match decodeStream w (wordLE (bs.drop 4)) (wordLE (bs.drop 8)) with
  | .ok i => .ok (i, bs.drop (4 + 4 * streamExt (field w.toNat 31 22)))
  | .error e => .error e

/-- The bytes of an instruction whose bits, numbered as the opcode table numbers them, are `w`: at least one word,
and zeros above `nbits` up to the longest instruction, a `SLINK` of three words. -/
def tableBytes (nbits w : Nat) : List Byte := bytesLE 12 (w % 2 ^ nbits)

/-- The instruction that the decoder reads from an opcode-table word: an opcode of 0x300-0x30B is a command of a stream
list, every other word one of a core's or the MCC's stream. -/
def decodeTableWord (nbits w : Nat) : Option Instr :=
  let bs := tableBytes nbits w
  let op := field (wordLE bs).toNat 31 22
  if 0x300 ≤ op ∧ op ≤ 0x30B then
    match decodeStreamBytes bs with
    | .ok (i, _) => some i
    | .error _ => none
  else
    match decodeBytes bs with
    | some (i, _) => some i
    | none => none

/-- A format-R word (R53). -/
def encR (op : Nat) (f : RForm) : List Word :=
  [word (op * 2 ^ 22 + b2n f.nw * 2 ^ 21 + f.d.toNat * 2 ^ 14 + f.a.toNat * 2 ^ 7 + f.b.toNat)]

/-- A format-K word (R53). -/
def encK (op : Nat) (f : KForm) : List Word := [word (op * 2 ^ 22 + f.d.toNat * 2 ^ 15 + f.k.toNat)]

/-- A format-B word (R53). -/
def encB (op : Nat) (off : BitVec 22) : List Word := [word (op * 2 ^ 22 + off.toNat)]

/-- An atomic's word (R66). -/
def encA (use : Nat) (op : AtmOp) (f : RForm) : List Word := encR (0x180 + 8 * op.code + use) f

/-- A stream command without fields (R242). -/
def encS (op : Nat) (rest : Nat) : Word := word (op * 2 ^ 22 + rest)

/-- The first word of `SFETCH` and `SSTORE` (R242). -/
def encBox (op : Nat) (f : BoxForm) : List Word :=
  [encS op (f.tid.toNat * 2 ^ 14 + b2n f.quad * 2 ^ 13 + b2n f.acq * 2 ^ 12 + b2n f.rel * 2 ^ 11
      + b2n f.mirror * 2 ^ 10 + f.scope.toNat * 2 ^ 8 + f.rsv.toNat), f.box]

/-- The words of an instruction or of a stream command; no word encodes an event of the device. -/
def encode : Instr → List Word
  | .illegalZero => [0]
  | .illegalOpcode w => [w]
  | .streamWord w => [w]
  | .nop f => encR 0x001 f
  | .add f => encR 0x010 f
  | .sub f => encR 0x011 f
  | .mul f => encR 0x012 f
  | .mulh f => encR 0x013 f
  | .mac f => encR 0x014 f
  | .min f => encR 0x015 f
  | .max f => encR 0x016 f
  | .abs f => encR 0x017 f
  | .neg f => encR 0x018 f
  | .div f => encR 0x019 f
  | .rem f => encR 0x01A f
  | .rcp f => encR 0x020 f
  | .rsq f => encR 0x021 f
  | .sqrt f => encR 0x022 f
  | .exp2 f => encR 0x023 f
  | .log2 f => encR 0x024 f
  | .tanh f => encR 0x025 f
  | .and_ f => encR 0x030 f
  | .or_ f => encR 0x031 f
  | .xor_ f => encR 0x032 f
  | .andn f => encR 0x033 f
  | .shl f => encR 0x034 f
  | .shr f => encR 0x035 f
  | .sar f => encR 0x036 f
  | .rot f => encR 0x037 f
  | .popc f => encR 0x038 f
  | .clz f => encR 0x039 f
  | .brev f => encR 0x03A f
  | .bfx f => encR 0x03B f
  | .bfi f => encR 0x03C f
  | .prmt f => encR 0x03D f
  | .cvtF32 f => encR 0x040 f
  | .cvtBf16 f => encR 0x041 f
  | .cvtF16 f => encR 0x042 f
  | .cvtE4m3 f => encR 0x043 f
  | .cvtE5m2 f => encR 0x044 f
  | .cvtE2m1 f => encR 0x045 f
  | .cvtDy8 f => encR 0x046 f
  | .cvtI32 f => encR 0x047 f
  | .cvtN32 f => encR 0x048 f
  | .cvtI8 f => encR 0x049 f
  | .cvtN8 f => encR 0x04A f
  | .cmpEq f => encR 0x050 f
  | .cmpNe f => encR 0x051 f
  | .cmpLt f => encR 0x052 f
  | .cmpLe f => encR 0x053 f
  | .cmpGt f => encR 0x054 f
  | .cmpGe f => encR 0x055 f
  | .cmpOrd f => encR 0x056 f
  | .cmpUnord f => encR 0x057 f
  | .pand f => encR 0x060 f
  | .por f => encR 0x061 f
  | .pxor f => encR 0x062 f
  | .pnot f => encR 0x063 f
  | .pmov f => encR 0x064 f
  | .vany f => encR 0x065 f
  | .vall f => encR 0x066 f
  | .vbal f => encR 0x067 f
  | .shfl f => encR 0x070 f
  | .shflx f => encR 0x071 f
  | .shflu f => encR 0x072 f
  | .shfld f => encR 0x073 f
  | .bcast f => encR 0x074 f
  | .lwr f => encR 0x075 f
  | .mov f => encR 0x080 f
  | .sel f => encR 0x081 f
  | .msetr f => encR 0x090 f
  | .join f => encR 0x091 f
  | .ret f => encR 0x092 f
  | .lbrk f => encR 0x093 f
  | .exit f => encR 0x094 f
  | .yld f => encR 0x095 f
  | .bkpt f => encR 0x096 f
  | .callt f => encR 0x097 f
  | .lpb f => encR 0x098 f
  | .ldi f => encK 0x100 f
  | .ldih f => encK 0x101 f
  | .ldc f => encK 0x102 f
  | .srd f => encK 0x103 f
  | .swr f => encK 0x104 f
  | .mset f => encK 0x105 f
  | .jmark f => encK 0x106 f
  | .xacq f => encK 0x107 f
  | .xrel f => encK 0x108 f
  | .phase f => encK 0x109 f
  | .trap f => encK 0x10A f
  | .live f => encK 0x10B f
  | .cntrd f => encK 0x10D f
  | .maprd f => encK 0x10E f
  | .lds32 f => encR 0x140 f
  | .lds64 f => encR 0x141 f
  | .lds128 f => encR 0x142 f
  | .sts32 f => encR 0x144 f
  | .sts64 f => encR 0x145 f
  | .sts128 f => encR 0x146 f
  | .ldg32 f => encR 0x148 f
  | .ldg64 f => encR 0x149 f
  | .ldg128 f => encR 0x14A f
  | .stg32 f => encR 0x14C f
  | .stg64 f => encR 0x14D f
  | .stg128 f => encR 0x14E f
  | .fenceAcq f => encR 0x150 f
  | .fenceRel f => encR 0x151 f
  | .fenceAr f => encR 0x152 f
  | .flushq f => encR 0x153 f
  | .bari f => encR 0x158 f
  | .bara f => encR 0x159 f
  | .barw f => encR 0x15A f
  | .baraw f => encR 0x15B f
  | .tbar f => encR 0x15C f
  | .tri f => encR 0x160 f
  | .trc f => encR 0x161 f
  | .trf f => encR 0x162 f
  | .trw f => encR 0x163 f
  | .trr f => encR 0x164 f
  | .tro f => encR 0x165 f
  | .trv f => encR 0x166 f
  | .trq f => encR 0x167 f
  | .tcopy f => encR 0x168 f
  | .tcopyv f => encR 0x169 f
  | .tset f => encR 0x16A f
  | .tget f => encR 0x16B f
  | .slrun f => encR 0x170 f
  | .stail f => encR 0x171 f
  | .slseq f => encR 0x172 f
  | .atmUnp op f => encA 0 op f
  | .atmCom op f => encA 1 op f
  | .atmNor op f => encA 2 op f
  | .atmQnt op f => encA 3 op f
  | .atmSpc op f => encA 4 op f
  | .atmAcq op f => encA 5 op f
  | .atmRel op f => encA 6 op f
  | .atmAr op f => encA 7 op f
  | .mshape f => encR 0x1C0 f
  | .mwl f => encR 0x1C1 f
  | .mswap f => encR 0x1C2 f
  | .mstr f => encR 0x1C3 f
  | .mdrn f => encR 0x1C4 f
  | .mclr f => encR 0x1C5 f
  | .mscl f => encR 0x1C6 f
  | .mwait f => encR 0x1C7 f
  | .clid f => encR 0x1D0 f
  | .aqst f => encR 0x1D1 f
  | .launch f => encR 0x1E0 f
  | .lwait f => encR 0x1E1 f
  | .mapack f => encR 0x1E2 f
  | .rtt f => encR 0x1F0 f
  | .pfmap f => encR 0x1F1 f
  | .tlbi f => encR 0x1F2 f
  | .errrd f => encR 0x1F3 f
  | .kill f => encR 0x1F4 f
  | .br o => encB 0x200 o
  | .call o => encB 0x201 o
  | .lpe o => encB 0x202 o
  | .sfetch f => encBox 0x300 f
  | .sstore f => encBox 0x301 f
  | .sloop t r => [encS 0x302 (t.toNat * 2 ^ 6 + r.toNat)]
  | .snext r => [encS 0x303 r.toNat]
  | .sadv c t => [encS 0x304 (c.toNat * 2 ^ 19 + t.toNat)]
  | .swaitf r => [encS 0x305 r.toNat]
  | .sacq r c => [encS 0x306 (r.toNat * 4 + c.toNat)]
  | .srel r c => [encS 0x307 (r.toNat * 4 + c.toNat)]
  | .sseq r => [encS 0x308 r.toNat]
  | .slink r x y => [encS 0x309 r.toNat, x, y]
  | .shalt r => [encS 0x30A r.toNat]
  | .sset c r v => [encS 0x30B (c.toNat * 2 ^ 19 + r.toNat), v]
  | .engineCopy _ => []
  | .engineWaitEnd _ _ => []
  | .lineFill _ _ => []
  | .splitReady _ _ => []
  | .limitWait _ => []
  | .asyncTrapDelivery _ => []
  | .gangForm _ _ _ => []
  | .preEmption _ _ => []
  | .gangResume _ _ => []
  | .gridComplete _ => []
  | .packetArrival _ => []
  | .admission _ _ => []
  | .queueStart _ _ _ => []
  | .queueComplete _ _ => []
  | .queueFault _ _ => []
  | .bandGate _ _ => []
  | .narrowedMode _ _ => []
  | .cadenceChange _ _ => []
  | .ballastRow _ _ => []
  | .railVoteLapse _ _ => []
  | .energyRefresh _ _ => []
  | .breach _ _ _ _ => []
  | .quoteLapse _ => []
  | .watchdog _ => []
  | .mapAckLate _ => []
  | .mapPublish _ => []
  | .patrolScrub _ => []
  | .demotion _ _ => []
  | .migrationDone _ _ _ => []
  | .scan _ => []
  | .scanPass _ => []
  | .scanFail _ => []
  | .linkStateChange _ _ => []
  | .peerLost _ => []
  | .peerAccess _ => []
  | .sqtail _ _ => []
  | .cqack _ _ => []
  | .qstat _ _ => []
  | .qcfg _ _ => []
  | .qpasid _ _ => []
  | .fnpart _ _ => []
  | .peerclr _ => []
  | .pwrvote _ _ => []
  | .bandidle _ => []
  | .partitionRegisters _ _ _ => []
  | .registerWrite _ _ => []
  | .interruptDelay _ => []
  | .quote _ => []
  | .quoted _ _ => []
  | .accept _ => []
  | .decline _ => []
  | .launchPacket _ => []
  | .mapackPacket _ => []
  | .halt _ => []
  | .haltAbort _ => []
  | .resume _ => []
  | .record _ => []
  | .context _ => []
  | .pool _ => []
  | .egreg _ => []
  | .egack _ => []
  | .egress _ => []
  | .flr _ => []
  | .pasidStop _ => []
  | .atsInvalidation _ _ _ => []
  | .boot _ => []
  | .getVersion _ => []
  | .getCapabilities _ => []
  | .negotiateAlgorithms _ => []
  | .getDigests _ => []
  | .getCertificate _ => []
  | .challenge _ => []
  | .getMeasurements _ => []
  | .keyExchange _ => []
  | .finish _ => []
  | .tdispProtocol _ _ => []

end Sys2Proof
end

