-- ==== Sys2Proof/Machine/Shape.lean ====
section
/-! DEFINITION. The operand rules of each instruction word: which kinds its fields admit, how many registers each
spans, whether `nw` is legal, whether it reads `d`, and whether a scalar destination needs uniform sources
(R54-R57, R63, and the operand line of each entry). -/
namespace Sys2Proof

/-- What an entry does with one operand field. -/
inductive FieldUse where
  /-- the field holds 0 (R54) -/
  | unused
  /-- a run of `span` registers: vector if `v`, scalar if `s`; the operand `zero` too if `z` (R57) -/
  | reg (v s z : Bool) (span : Nat)
  /-- a predicate register -/
  | pred
  /-- a source: vector kinds if `v`, uniform kinds if `u`, predicates if `p` (R56, R97) -/
  | src (v u p : Bool)
  /-- an accumulator tile 0-7 (R263) -/
  | tile
deriving DecidableEq, Repr

/-- The operand rules of one instruction. -/
structure Shape where
  d : FieldUse
  a : FieldUse
  b : FieldUse
  /-- it writes a register named by `d`, so `nw` is legal (R54) -/
  writesD : Bool
  /-- it reads `d` as a source -/
  readsD : Bool
  /-- a scalar destination needs uniform sources (R56) -/
  strict : Bool
deriving DecidableEq, Repr

/-- The vector kinds of R58. -/
def Operand.isVec : Operand → Bool
  | .vreg _ | .latch _ | .lane | .slice => true
  | _ => false

/-- The uniform kinds of R55. -/
def Operand.isUni : Operand → Bool
  | .sreg _ | .zero | .one | .ones | .grp | .team | .stage => true
  | _ => false

/-- The predicate kind of R55. -/
def Operand.isPred : Operand → Bool
  | .preg _ => true
  | _ => false

/-- A destination that is a vector register. -/
def Operand.isVreg : Operand → Bool
  | .vreg _ => true
  | _ => false

/-- A destination that is a scalar register. -/
def Operand.isSreg : Operand → Bool
  | .sreg _ => true
  | _ => false

/-- Whether a field's operand is one that the entry admits (R54-R57). -/
def FieldUse.admits : FieldUse → Operand → Bool
  | .unused, o => o == .vreg 0
  | .reg v s z span, o =>
    match o with
    | .vreg n => v && n.val % span == 0
    | .sreg n => s && n.val % span == 0
    | .zero => z
    | _ => false
  | .pred, o => o.isPred
  | .src v u p, o => (v && o.isVec) || (u && o.isUni) || (p && o.isPred)
  | .tile, o =>
    match o with
    | .vreg n => decide (n.val < 8)
    | _ => false

/-- The number of registers that a field spans (R57). -/
def FieldUse.span : FieldUse → Nat
  | .reg _ _ _ n => n
  | _ => 1

/-- The operand rules hold (R54-R57); `nw` is legal by the opcode alone, also where `d` is `zero` (log 151, DEDUCED, unsafe). -/
def Shape.ok (h : Shape) (f : RForm) : Bool :=
  h.d.admits f.d && h.a.admits f.a && h.b.admits f.b && (!f.nw || h.writesD)
    && (!(h.strict && f.d.isSreg)
        || ((h.a == .unused || !f.a.isVec) && (h.b == .unused || !f.b.isVec)))

/-- The operands that an instruction names, spans expanded (R44, R57): pairs of a register's operand. -/
def Operand.expand (o : Operand) (span : Nat) : List Operand :=
  match o with
  | .vreg n => (List.range span).map fun j => Operand.ofNat ((n.val + j) % 64)
  | .sreg n => (List.range span).map fun j => Operand.ofNat (64 + (n.val + j) % 32)
  | o => [o]

/-- The registers and specials that one used field names. -/
def FieldUse.named (u : FieldUse) (o : Operand) : List Operand :=
  match u with
  | .unused => []
  | .tile => []
  | _ => o.expand u.span

/-- Every operand the instruction names (R44). -/
def Shape.named (h : Shape) (f : RForm) : List Operand := h.d.named f.d ++ h.a.named f.a ++ h.b.named f.b

/-- Every operand the instruction reads as a source (R46, R290). -/
def Shape.reads (h : Shape) (f : RForm) : List Operand :=
  (if h.readsD then h.d.named f.d else []) ++ h.a.named f.a ++ h.b.named f.b

/-- The operand rules that `add` and others share. -/
def Shape.alu3 : Shape := ⟨.reg true true false 1, .src true true false, .src true true false, true, false, true⟩

/-- The operand rules that `abs` and others share. -/
def Shape.alu2 : Shape := ⟨.reg true true false 1, .src true true false, .unused, true, false, true⟩

/-- The operand rules that `mac` and others share; a scalar `cvt` takes no vector `b` (log 142, DEDUCED, unsafe). -/
def Shape.alu3d : Shape := ⟨.reg true true false 1, .src true true false, .src true true false, true, true, true⟩

/-- The operand rules that `cmpEq` and others share. -/
def Shape.cmp : Shape := ⟨.pred, .src true true false, .src true true false, true, false, false⟩

/-- The operand rules that `nop` and others share. -/
def Shape.none : Shape := ⟨.unused, .unused, .unused, false, false, false⟩

/-- The operand rules that `vany` and others share. -/
def Shape.vote : Shape := ⟨.reg false true false 1, .pred, .unused, true, false, false⟩

/-- The operand rules that `shfl` and others share. -/
def Shape.exch : Shape := ⟨.reg true false false 1, .src true true false, .src true true false, true, false, false⟩

/-- The operand rules that `ldi` and others share. -/
def Shape.kdst : Shape := ⟨.reg true true false 1, .unused, .unused, true, false, false⟩

/-- The operand rules that `msetr` and others share. -/
def Shape.srcU : Shape := ⟨.unused, .src false true false, .unused, false, false, false⟩

/-- The operand rules that `callt` and others share. -/
def Shape.srcUU : Shape := ⟨.unused, .src false true false, .src false true false, false, false, false⟩

/-- The operand rules that `pand` and others share. -/
def Shape.pred3 : Shape := ⟨.pred, .pred, .pred, true, false, false⟩

/-- The fields of a K-format word in the layout of format R, with `a` and `b` unused. -/
def KForm.fields (f : KForm) : RForm := ⟨false, f.d, .vreg 0, .vreg 0⟩

/-- The operand rules of an instruction word and its fields; none for what has no operand fields. Whether it may have `nw` follows from
its opcode (R54, log 151, DEDUCED, unsafe). -/
def Instr.shape : Instr → Option (Shape × RForm)
  | .nop f => some (.none, f)
  | .add f => some (.alu3, f)
  | .sub f => some (.alu3, f)
  | .mul f => some (.alu3, f)
  | .mulh f => some (.alu3, f)
  | .mac f => some (.alu3d, f)
  | .min f => some (.alu3, f)
  | .max f => some (.alu3, f)
  | .abs f => some (.alu2, f)
  | .neg f => some (.alu2, f)
  | .div f => some (.alu3, f)
  | .rem f => some (.alu3, f)
  | .rcp f => some (.alu2, f)
  | .rsq f => some (.alu2, f)
  | .sqrt f => some (.alu2, f)
  | .exp2 f => some (.alu2, f)
  | .log2 f => some (.alu2, f)
  | .tanh f => some (.alu2, f)
  | .and_ f => some (.alu3, f)
  | .or_ f => some (.alu3, f)
  | .xor_ f => some (.alu3, f)
  | .andn f => some (.alu3, f)
  | .shl f => some (.alu3, f)
  | .shr f => some (.alu3, f)
  | .sar f => some (.alu3, f)
  | .rot f => some (.alu3, f)
  | .popc f => some (.alu2, f)
  | .clz f => some (.alu2, f)
  | .brev f => some (.alu2, f)
  | .bfx f => some (.alu3, f)
  | .bfi f => some (.alu3d, f)
  | .prmt f => some (.alu3d, f)
  | .cvtF32 f => some (.alu3d, f)
  | .cvtBf16 f => some (.alu3d, f)
  | .cvtF16 f => some (.alu3d, f)
  | .cvtE4m3 f => some (.alu3d, f)
  | .cvtE5m2 f => some (.alu3d, f)
  | .cvtE2m1 f => some (.alu3d, f)
  | .cvtDy8 f => some (.alu3d, f)
  | .cvtI32 f => some (.alu3d, f)
  | .cvtN32 f => some (.alu3d, f)
  | .cvtI8 f => some (.alu3d, f)
  | .cvtN8 f => some (.alu3d, f)
  | .cmpEq f => some (.cmp, f)
  | .cmpNe f => some (.cmp, f)
  | .cmpLt f => some (.cmp, f)
  | .cmpLe f => some (.cmp, f)
  | .cmpGt f => some (.cmp, f)
  | .cmpGe f => some (.cmp, f)
  | .cmpOrd f => some (.cmp, f)
  | .cmpUnord f => some (.cmp, f)
  | .pand f => some (.pred3, f)
  | .por f => some (.pred3, f)
  | .pxor f => some (.pred3, f)
  | .pnot f => some (⟨.pred, .pred, .unused, true, false, false⟩, f)
  | .pmov f => some (⟨.pred, .src true true true, .unused, true, false, false⟩, f)
  | .vany f => some (.vote, f)
  | .vall f => some (.vote, f)
  | .vbal f => some (.vote, f)
  | .shfl f => some (.exch, f)
  | .shflx f => some (.exch, f)
  | .shflu f => some (.exch, f)
  | .shfld f => some (.exch, f)
  | .bcast f => some (⟨.reg false true false 1, .src true false false, .src false true false, true, false, false⟩, f)
  | .lwr f => some (⟨.reg true false false 1, .src false true false, .src false true false, true, false, false⟩, f)
  | .mov f => some (.alu2, f)
  | .sel f => some (.alu3, f)
  | .msetr f => some (.srcU, f)
  | .join f => some (.none, f)
  | .ret f => some (.none, f)
  | .lbrk f => some (.none, f)
  | .exit f => some (.none, f)
  | .yld f => some (.none, f)
  | .bkpt f => some (.none, f)
  | .callt f => some (.srcUU, f)
  | .lpb f => some (.srcU, f)
  | .ldi f => some (.kdst, f.fields)
  | .ldih f => some (⟨.reg true true false 1, .unused, .unused, true, true, false⟩, f.fields)
  | .ldc f => some (.kdst, f.fields)
  | .srd f => some (.kdst, f.fields)
  | .swr f => some (⟨.src true true false, .unused, .unused, false, true, false⟩, f.fields)
  | .mset f => some (.none, f.fields)
  | .jmark f => some (.none, f.fields)
  | .xacq f => some (.none, f.fields)
  | .xrel f => some (.none, f.fields)
  | .phase f => some (.none, f.fields)
  | .trap f => some (.none, f.fields)
  | .live f => some (.none, f.fields)
  | .cntrd f => some (.kdst, f.fields)
  | .maprd f => some (.kdst, f.fields)
  | .lds32 f => some (⟨.reg true true false 1, .src true true false, .src true true false, true, false, false⟩, f)
  | .lds64 f => some (⟨.reg true true false 2, .src true true false, .src true true false, true, false, false⟩, f)
  | .lds128 f => some (⟨.reg true true false 4, .src true true false, .src true true false, true, false, false⟩, f)
  | .sts32 f => some (⟨.reg true true false 1, .src true true false, .src true true false, false, true, false⟩, f)
  | .sts64 f => some (⟨.reg true true false 2, .src true true false, .src true true false, false, true, false⟩, f)
  | .sts128 f => some (⟨.reg true true false 4, .src true true false, .src true true false, false, true, false⟩, f)
  | .ldg32 f => some (⟨.reg true true false 1, .reg true true false 2, .src true true false, true, false, false⟩, f)
  | .ldg64 f => some (⟨.reg true true false 2, .reg true true false 2, .src true true false, true, false, false⟩, f)
  | .ldg128 f => some (⟨.reg true true false 4, .reg true true false 2, .src true true false, true, false, false⟩, f)
  | .stg32 f => some (⟨.reg true true false 1, .reg true true false 2, .src true true false, false, true, false⟩, f)
  | .stg64 f => some (⟨.reg true true false 2, .reg true true false 2, .src true true false, false, true, false⟩, f)
  | .stg128 f => some (⟨.reg true true false 4, .reg true true false 2, .src true true false, false, true, false⟩, f)
  | .fenceAcq f => some (.none, f)
  | .fenceRel f => some (.none, f)
  | .fenceAr f => some (.none, f)
  | .flushq f => some (.none, f)
  | .bari f => some (⟨.unused, .reg false true false 2, .src false true false, false, false, false⟩, f)
  | .bara f => some (⟨.reg false true true 1, .reg false true false 2, .unused, true, false, false⟩, f)
  | .barw f => some (⟨.unused, .reg false true false 2, .src false true false, false, false, false⟩, f)
  | .baraw f => some (⟨.unused, .reg false true false 2, .unused, false, false, false⟩, f)
  | .tbar f => some (.none, f)
  | .tri f => some (⟨.unused, .reg false true false 2, .reg false true false 4, false, false, false⟩, f)
  | .trc f => some (⟨.reg false true false 1, .reg false true false 2, .unused, true, false, false⟩, f)
  | .trf f => some (⟨.unused, .reg false true false 2, .src false true false, false, false, false⟩, f)
  | .trw f => some (⟨.reg false true true 1, .reg false true false 2, .src false true false, true, false, false⟩, f)
  | .trr f => some (⟨.unused, .reg false true false 2, .src false true false, false, false, false⟩, f)
  | .tro f => some (⟨.unused, .reg false true false 2, .src false true false, false, false, false⟩, f)
  | .trv f => some (⟨.unused, .reg false true false 2, .src false true false, false, false, false⟩, f)
  | .trq f => some (⟨.reg false true false 1, .reg false true false 2, .src false true false, true, false, false⟩, f)
  | .tcopy f => some (⟨.reg false true false 4, .reg false true false 4, .reg false true false 4, false, true, false⟩, f)
  | .tcopyv f => some (⟨.reg false true false 4, .reg false true false 4, .reg false true false 4, false, true, false⟩, f)
  | .tset f => some (⟨.reg false true false 4, .reg false true false 4, .reg false true false 4, false, true, false⟩, f)
  | .tget f => some (⟨.reg false true false 1, .src false true false, .src false true false, true, false, false⟩, f)
  | .slrun f => some (⟨.reg false true true 1, .reg false true false 4, .src false true false, true, false, false⟩, f)
  | .stail f => some (.srcUU, f)
  | .slseq f => some (⟨.reg false true false 1, .reg false true false 2, .unused, true, false, false⟩, f)
  | .atmUnp op f => some (⟨.reg true true false (if op = .cas then 2 else 1), .reg true true false 2, .src true true false, true, true, false⟩, f)
  | .atmCom _ f => some (⟨.src false true false, .reg true true false 2, .src true true false, false, false, false⟩, f)
  | .atmNor op f => some (⟨.reg true true false (if op = .cas then 2 else 1), .reg true true false 2, .src true true false, true, true, false⟩, f)
  | .atmQnt op f => some (⟨.reg true true false (if op = .cas then 2 else 1), .reg true true false 2, .src true true false, true, true, false⟩, f)
  | .atmSpc op f => some (⟨.reg true true false (if op = .cas then 2 else 1), .reg true true false 2, .src true true false, true, true, false⟩, f)
  | .atmAcq op f => some (⟨.reg true true false (if op = .cas then 2 else 1), .reg true true false 2, .src true true false, true, true, false⟩, f)
  | .atmRel op f => some (⟨.reg true true false (if op = .cas then 2 else 1), .reg true true false 2, .src true true false, true, true, false⟩, f)
  | .atmAr op f => some (⟨.reg true true false (if op = .cas then 2 else 1), .reg true true false 2, .src true true false, true, true, false⟩, f)
  | .mshape f => some (.srcU, f)
  | .mwl f => some (⟨.unused, .reg false true false 4, .unused, false, false, false⟩, f)
  | .mswap f => some (.none, f)
  | .mstr f => some (⟨.tile, .reg false true false 4, .src false true false, false, false, false⟩, f)
  | .mdrn f => some (⟨.tile, .reg false true false 4, .src false true false, false, false, false⟩, f)
  | .mclr f => some (⟨.tile, .unused, .unused, false, false, false⟩, f)
  | .mscl f => some (.srcU, f)
  | .mwait f => some (.srcU, f)
  | .clid f => some (⟨.reg true true false 1, .unused, .unused, true, false, true⟩, f)
  | .aqst f => some (⟨.reg false true false 1, .src false true false, .unused, true, false, false⟩, f)
  | .launch f => some (⟨.reg false true true 1, .reg false true false 2, .src false true false, true, false, false⟩, f)
  | .lwait f => some (⟨.reg false true true 1, .src false true false, .unused, true, false, false⟩, f)
  | .mapack f => some (⟨.reg false true true 1, .src false true false, .unused, true, false, false⟩, f)
  | .rtt f => some (.none, f)
  | .pfmap f => some (⟨.reg false true true 1, .reg false true false 2, .src false true false, true, false, false⟩, f)
  | .tlbi f => some (⟨.unused, .reg false true false 2, .src false true false, false, false, false⟩, f)
  | .errrd f => some (⟨.reg false true false 1, .src false true false, .unused, true, false, false⟩, f)
  | .kill f => some (.srcU, f)
  | _ => none

/-- The `k15` rules of the K format that no state decides (R63, R141, R295): windows, phases and the reserved bits of
`LIVE`. -/
def Instr.immOk : Instr → Bool
  | .xacq f => decide (f.k.toNat < 2)
  | .xrel f => decide (f.k.toNat < 2)
  | .phase f => decide (f.k.toNat < 3)
  | .live f => decide (f.k.toNat < 2 ^ 13)
  | _ => true

/-- The special registers that exist (R69, R336). -/
def specialExists (k : Nat) : Bool := decide (k < 0x1C) || (decide (0x20 ≤ k) && decide (k < 0x28))

/-- The special registers that `SWR` may write (R69, R283, R336). -/
def specialWritable (k : Nat) : Bool := [0x00, 0x01, 0x09, 0x0A, 0x10, 0x21, 0x27].contains k

/-- The access rules of R70 that no state decides. -/
def Instr.specialOk : Instr → Bool
  | .srd f => specialExists f.k.toNat && (f.k.toNat != 9 || f.d.isVreg)
  | .swr f => specialExists f.k.toNat && specialWritable f.k.toNat && ((f.k.toNat == 9) == f.d.isVec)
  | _ => true

/-- A `com` atomic's `d` is `zero` (R66). -/
def Instr.comOk : Instr → Bool
  | .atmCom _ f => f.d == .zero
  | _ => true

/-- Every rule of R54-R57, R63, R66 and R70 that the word alone decides. -/
def Instr.staticOk (i : Instr) : Bool :=
  (match i.shape with
   | some (h, f) => h.ok f
   | none => true)
  && i.immOk && i.specialOk && i.comOk

end Sys2Proof
end

