-- ==== Sys2Proof/Machine/Kinds.lean ====
section
/-! DEFINITION. Kinds of instruction that the checks of R68 and the rules of whole groups ask for: the `MODE` codes that
an entry admits, who may run it, whether it is a switch point, what it names and what it counts as. -/
namespace Sys2Proof

/-- Entries that use a type or a round code take only valid ones, and only the types they admit (R61, R100, R104, R107,
R109, R112, R114, R213). -/
def Instr.modeOk (i : Instr) (mode : Nat) : Bool :=
  let ty := field mode 8 4
  let rnd := field mode 11 9
  let compute := decide (ty < 9)
  let float := decide (2 ≤ ty) && decide (ty < 5)
  let rounds := !float || decide (rnd < 6)
  let cvt := decide (ty < 13) && decide (rnd < 6)
  let atm := fun (op : AtmOp) =>
    match op with
    | .add => decide (ty < 3) && (ty != 2 || decide (rnd < 5))
    | .min | .max => decide (ty < 3)
    | _ => true
  match i with
  | .add _ | .sub _ | .mul _ | .mac _ | .div _ => compute && rounds
  | .mulh _ | .rem _ => compute && !float
  | .min _ | .max _ | .abs _ | .neg _ => compute
  | .rcp _ | .rsq _ | .sqrt _ | .exp2 _ | .log2 _ | .tanh _ => float && rounds
  | .bfx _ | .cvtDy8 _ => decide (ty < 13)
  | .cvtF32 _ | .cvtBf16 _ | .cvtF16 _ | .cvtE4m3 _ | .cvtE5m2 _ | .cvtE2m1 _ | .cvtI32 _ | .cvtN32 _ | .cvtI8 _ | .cvtN8 _ => cvt
  | .cmpEq _ | .cmpNe _ | .cmpLt _ | .cmpLe _ | .cmpGt _ | .cmpGe _ | .cmpOrd _ | .cmpUnord _ => compute
  | .atmUnp op _ | .atmCom op _ | .atmNor op _ | .atmQnt op _ | .atmSpc op _ | .atmAcq op _ | .atmRel op _ | .atmAr op _ => atm op
  | _ => true

/-- Whether an instruction draws from the generators under a `MODE` value (R61, R89): it rounds, and the round field holds `sto`. -/
def Instr.draws (i : Instr) (mode : Nat) : Bool :=
  let ty := field mode 8 4
  let float := decide (2 ≤ ty) && decide (ty < 5)
  let fromInt := decide (ty < 2) || decide (5 ≤ ty) && decide (ty < 9)
  decide (field mode 11 9 = 5) &&
    (match i with
     | .add _ | .sub _ | .mul _ | .mac _ | .div _ | .rcp _ | .rsq _ | .sqrt _ | .exp2 _ | .log2 _ | .tanh _ => float
     | .cvtF32 _ | .cvtBf16 _ | .cvtF16 _ | .cvtE4m3 _ | .cvtE5m2 _ | .cvtE2m1 _ => true
     | .cvtI32 _ | .cvtN32 _ | .cvtI8 _ | .cvtN8 _ => !fromInt
     | _ => false)

/-- The opcodes that only the MCC runs (R67). -/
def Instr.isMatrix : Instr → Bool
  | .mshape _ | .mwl _ | .mswap _ | .mstr _ | .mdrn _ | .mclr _ | .mscl _ | .mwait _ => true
  | _ => false

/-- The opcodes that only a handler runs (R67), and the special registers of R336. -/
def Instr.isSup : Instr → Bool
  | .rtt _ | .pfmap _ | .tlbi _ | .errrd _ | .kill _ => true
  | .srd f | .swr f => decide (0x20 ≤ f.k.toNat) && decide (f.k.toNat < 0x30)
  | _ => false

/-- The opcodes that the MCC excludes (R58). -/
def Instr.noMcc : Instr → Bool
  | .join _ | .jmark _ | .xacq _ | .xrel _ | .live _ | .clid _ | .aqst _ => true
  | _ => false

/-- The instructions that their guard does not govern (R62). -/
def Instr.unguarded : Instr → Bool
  | .nop _ | .mset _ | .msetr _ | .jmark _ | .join _ | .phase _ | .live _ => true
  | .illegalZero | .illegalOpcode _ | .streamWord _ => true
  | _ => false

/-- The switch points of R46, but for the transfers that diverge or travel, which their entries treat. -/
def Instr.isSwitch : Instr → Bool
  | .lds32 _ | .lds64 _ | .lds128 _ | .ldg32 _ | .ldg64 _ | .ldg128 _
  | .atmUnp _ _ | .atmCom _ _ | .atmNor _ _ | .atmQnt _ _ | .atmSpc _ _ | .atmAcq _ _ | .atmRel _ _ | .atmAr _ _
  | .fenceAcq _ | .fenceRel _ | .fenceAr _ | .flushq _ | .bari _ | .bara _ | .barw _ | .baraw _ | .tbar _
  | .tri _ | .trc _ | .trf _ | .trw _ | .trr _ | .tro _ | .trv _ | .trq _
  | .xacq _ | .mwait _ | .lwait _ | .yld _ | .join _ | .trap _ => true
  | _ => false

/-- The releases, fences and waits before which a held store must have been performed (R377). A release that a command or a launch
makes counts too. -/
def Instr.orders : Instr → Bool
  | .atmRel _ _ | .atmAr _ _ | .fenceAcq _ | .fenceRel _ | .fenceAr _ | .bara _ | .barw _ | .baraw _ | .tbar _
  | .trf _ | .trr _ | .trc _ | .trw _ | .xacq _ | .mwait _ | .lwait _ | .yld _ | .join _
  | .slrun _ | .tcopy _ | .tcopyv _ | .launch _ | .exit _ => true
  | _ => false

/-- The word offset of a B-format transfer or of `JMARK`, in bytes (R64). -/
def Instr.offset? : Instr → Option Int
  | .br o | .call o | .lpe o => some (4 * o.toInt)
  | .jmark f => some (4 * f.k.toInt)
  | _ => none

/-- The operands that an instruction names (R44). -/
def Instr.named (i : Instr) : List Operand :=
  match i.shape with
  | some (h, f) => h.named f
  | none => []

/-- The operands that an instruction reads as sources (R46, R290). -/
def Instr.reads (i : Instr) : List Operand :=
  match i.shape with
  | some (h, f) => h.reads f
  | none => []

/-- What an instruction counts beside itself: loads, stores, atomics (R361). -/
def Instr.countAs : Instr → Option Nat
  | .lds32 _ | .lds64 _ | .lds128 _ | .ldg32 _ | .ldg64 _ | .ldg128 _ => some 3
  | .sts32 _ | .sts64 _ | .sts128 _ | .stg32 _ | .stg64 _ | .stg128 _ => some 4
  | .atmUnp _ _ | .atmCom _ _ | .atmNor _ _ | .atmQnt _ _ | .atmSpc _ _ | .atmAcq _ _ | .atmRel _ _ | .atmAr _ _ => some 5
  | _ => none

end Sys2Proof
end

