-- ==== Sys2Proof/Machine/State.lean ====
section
/-! DEFINITION. The state of an LZ-960 module as plain data: every piece of state the spec gives the machine, under the
names INVENTORY.md lists, and `State.reset`. Tables with a number as their key (`Tab`) hold only the entries that
differ from their default, so a table that lists nothing is a unit at its default. -/
namespace Sys2Proof.Machine

/-- A table keyed by a number; an absent key has the reader's default. -/
abbrev Tab (α : Type) := List (Nat × α)

/-- One 32-bit value for each of the 32 lanes of a group, lane 0 first (R43); lanes beyond the list read 0. -/
abbrev Lanes := List Word

/-- The trap causes of R330. -/
inductive Cause where
  | none | illegalZero | illegalOpcode | streamWord | matrixContext | priv | illegalOperand | xregUnheld
  | modeInvalid | latchStale | noJoin | frameOverflow | frameSpan | stackUnderflow | loopOverflow | jtabRange
  | limitTrip | limitWait | limitDepth | limitTravel | limitLaunch | noLimit | quoteVoid | mapChanged | mapAckLate
  | launchState | misaligned | spadBounds | pageNotPresent | pageProtection | tileLeafRange | targetType
  | remoteUnreachable | syncObjectStore | tensorId | trayState | barState | engineFault | engineFull | scope
  | comMixed | raceWW | raceRW | raceWR | matrixShape | accTile | matrixFormat | bandDown | clauseUnmapped
  | travelOverflow | liveMissing | ueLane | ueGroup | scanFail | poison | bkpt | step | swTrap | watchdog
  | hostAbort | machineCheck
deriving DecidableEq, Repr

/-- Which party's instruction is issued next, or which engine moves (R178, R238). -/
inductive Turn where
  | split (gid entry : Nat)
  /-- a split that issues in the same cycle as another split of its group, which has just trapped (R332) -/
  | mate (gid entry : Nat)
  | engine (k : Nat)
deriving DecidableEq, Repr

/-- The code of a cause (R330), which a record and the error log carry. -/
def Cause.code : Cause → Nat
  | .none => 0x00
  | .illegalZero => 0x01
  | .illegalOpcode => 0x02
  | .streamWord => 0x03
  | .matrixContext => 0x04
  | .priv => 0x05
  | .illegalOperand => 0x06
  | .xregUnheld => 0x07
  | .modeInvalid => 0x08
  | .latchStale => 0x09
  | .noJoin => 0x0A
  | .frameOverflow => 0x0B
  | .frameSpan => 0x0C
  | .stackUnderflow => 0x0D
  | .loopOverflow => 0x0E
  | .jtabRange => 0x0F
  | .limitTrip => 0x10
  | .limitWait => 0x11
  | .limitDepth => 0x12
  | .limitTravel => 0x13
  | .limitLaunch => 0x14
  | .noLimit => 0x15
  | .quoteVoid => 0x16
  | .mapChanged => 0x17
  | .mapAckLate => 0x18
  | .launchState => 0x19
  | .misaligned => 0x20
  | .spadBounds => 0x21
  | .pageNotPresent => 0x22
  | .pageProtection => 0x23
  | .tileLeafRange => 0x24
  | .targetType => 0x25
  | .remoteUnreachable => 0x26
  | .syncObjectStore => 0x27
  | .tensorId => 0x28
  | .trayState => 0x29
  | .barState => 0x2A
  | .engineFault => 0x2B
  | .engineFull => 0x2C
  | .scope => 0x30
  | .comMixed => 0x31
  | .raceWW => 0x32
  | .raceRW => 0x33
  | .raceWR => 0x34
  | .matrixShape => 0x40
  | .accTile => 0x41
  | .matrixFormat => 0x42
  | .bandDown => 0x43
  | .clauseUnmapped => 0x50
  | .travelOverflow => 0x51
  | .liveMissing => 0x52
  | .ueLane => 0x60
  | .ueGroup => 0x61
  | .scanFail => 0x62
  | .poison => 0x63
  | .bkpt => 0x70
  | .step => 0x71
  | .swTrap => 0x72
  | .watchdog => 0x73
  | .hostAbort => 0x74
  | .machineCheck => 0x7F

/-- A latch: 32 lanes, its stale flag (R45), and the lanes in which it holds an uncorrectable error (R349). -/
structure Latch where
  vals : Lanes
  stale : Bool
  bad : Word
deriving DecidableEq, Repr

/-- A loop-stack entry (R127). -/
structure LoopEntry where
  lpb : Word
  endA : Word
  /-- the trip count; none for an open-ended loop -/
  count : Option Nat
  trips : Nat
  /-- the declared limit; none in supervisor code (R128) -/
  limit : Option Nat
deriving DecidableEq, Repr

/-- A return-stack entry (R127), with the `CALL` that pushed it (R282). -/
structure RetEntry where
  addr : Word
  call : Word
deriving DecidableEq, Repr

/-- A recorded serial side (R36). -/
structure Side where
  pc : Word
  lanes : Word
  loops : List LoopEntry
  rets : List RetEntry
  /-- the buffer entry of the split that recorded it -/
  owner : Nat
  /-- its control area (R128) -/
  area : Nat
deriving DecidableEq, Repr

/-- A split frame (R37, R131). -/
structure Frame where
  join : Word
  loopDepth : Nat
  retDepth : Nat
  /-- the buffer entries of the splits born under it, and of those that wait at its `JOIN` -/
  members : List Nat
  arrived : List Nat
  /-- lanes that wait at its `JOIN` while their split, by buffer entry, runs a side it had recorded (R36) -/
  parked : Tab Word
  /-- its side list, the most recently recorded first -/
  sides : List Side
deriving DecidableEq, Repr

/-- What a split waits for (R41). -/
inductive Wait where
  /-- an instruction-store line (R48) -/
  | line
  | xacq (w : Nat)
  | join
  /-- a named barrier's word, by location and ticket (R219) -/
  | bar (loc : Nat) (ticket : Word)
  | tbar (gen : Nat)
  /-- a claim on the tray whose header is at `loc` (R167) -/
  | claim (loc : Nat)
  /-- `TRW` of index `i`; `view` is the holder view (R226) -/
  | fill (loc : Nat) (i : Word) (view : Bool)
  /-- `LWAIT` for a child grid (R327) -/
  | child (grid : Nat)
  /-- `YLD`, with the cycles left (R140) -/
  | yield (left : Nat)
  /-- `MWAIT` for all but the `n` most recent operations (R271) -/
  | mwait (n : Nat)
  /-- a free place of the matrix queue (R257) -/
  | place
  /-- a page-table entry whose M bit is set (R152), by its location -/
  | migrate (pte : Nat)
  /-- a peer node that is RECOVERING (R377); the access of the wait, if it is a declared one -/
  | peer (node : Nat)
deriving DecidableEq, Repr

/-- What an instruction that waits was issued with: `MODE` and its guard, by lane (R62, R126). -/
structure Issued where
  mode : Word
  guard : Word
deriving DecidableEq, Repr

/-- A split (R30, R35, R50). -/
structure Split where
  /-- instruction-buffer entry, 0-63 (R40) -/
  entry : Nat
  pc : Word
  /-- its lane set -/
  lanes : Word
  latches : List Latch
  loops : List LoopEntry
  rets : List RetEntry
  wait : Option Wait
  /-- the cluster's cycle count when the wait began (R157) -/
  since : Nat
  /-- chargeable cycles counted toward the current declared limit (R314) -/
  count : Nat
  /-- the ticket of an arrival made by a `BARAW` or `TBAR` that waits (R49, R219) -/
  ticket : Option Word
  /-- its control area (R128) -/
  area : Nat
  /-- cycles ready without issuing, by physical slice (R40) -/
  slices : Tab Nat
  /-- windows that a sibling has released while this split's access waits: the access completes against their registers (R144) -/
  ghost : Tab (Tab Lanes)
  /-- its instruction has been issued and waits, or its wait has ended and it goes on (R41) -/
  issued : Option Issued
deriving DecidableEq, Repr

/-- Vectors of a party or of a release (R198): epochs of the home cluster's slots, core counts, engine counts. -/
structure Vecs where
  home : Nat
  l : Tab Nat
  x : Tab Nat
  e : Tab Nat
deriving DecidableEq, Repr

/-- A party (R178). -/
inductive Party where
  /-- a group, or an MCC as slot 64, by cluster * 65 + slot -/
  | core (gid : Nat)
  | engine (k : Nat)
  | host
  | peer (node : Nat)
  /-- another agent on CXL -/
  | cxl
deriving DecidableEq, Repr

/-- Where a matrix unit's element lies: a plane's weight (by 512 k + n) or an accumulator element (by 65536 t + 512 row + column). -/
inductive MatrixCell where
  | weight (plane at_ : Nat)
  | acc (at_ : Nat)
deriving DecidableEq, Repr

/-- What reaches the machine from outside, or from its own cells, without an event of its own in the opcode table. -/
inductive Outside where
  /-- an uncorrectable error in a lane's vector register, or its generator (128), of a group (R349) -/
  | ueLane (gid op lane : Nat)
  /-- an uncorrectable error in the state that a group's lanes share (R349) -/
  | ueGroup (gid : Nat)
  /-- an uncorrectable error in a matrix element of a cluster (R350) -/
  | ueMatrix (c : Nat) (cell : MatrixCell)
  /-- the word of a byte of memory found uncorrectable (R350) -/
  | poison (loc : Nat)
  /-- an uncorrectable error in the device's own state (R330; log 128, DESIGN CHOICE, safe) -/
  | ueDevice
  /-- a write by the host, or by another agent on CXL, of memory that is its own or shared with it (R178, R197) -/
  | write (who : Party) (loc : Nat) (bytes : List Byte)
  /-- the host programs a decoder of a CXL port: base, size, port (R379) -/
  | decoder (base size port : Nat)
  /-- the host's IOMMU refuses a context a page, or admits it again (R370) -/
  | iommu (ctx page : Nat) (deny : Bool)
  /-- a peer refuses accesses to a page of its memory, or admits them again (R376) -/
  | peerPage (node page : Nat) (deny : Bool)
deriving DecidableEq, Repr

/-- What happens next outside the party of `turn`: another party moves, an event of the device or the host comes, or
cycles pass (R4, R40). -/
inductive Act where
  /-- the named split or engine moves once -/
  | run (t : Turn)
  /-- one issue cycle of a core's slices (R40) -/
  | issue (core : Nat)
  /-- an event of the opcode table -/
  | event (i : Instr)
  /-- `n` local cycles pass on cluster `c` -/
  | tick (c n : Nat)
  /-- `n` hub-die cycles pass -/
  | hubTick (n : Nat)
  /-- what comes from outside the module, or from an error of its own cells, and is no event of the opcode table -/
  | outside (o : Outside)
deriving DecidableEq, Repr

/-- A release that an acquire may pair with (R183, R198): who made it, at which scope, on behalf of which team, and the
vectors it carries. -/
structure Release where
  party : Party
  scope : Nat
  team : Nat
  vecs : Vecs
deriving DecidableEq, Repr

/-- A trap waiting in `TRAPQ`, or one being taken (R332, R336). -/
structure Pending where
  /-- the split it belongs to, by buffer entry -/
  entry : Nat
  cause : Cause
  /-- the underlying cause of an engine report (R331) -/
  under : Cause
  info : Nat
  mask : Word
  addr : Nat
  /-- the resume address for `RTT` -/
  pc : Word
  async : Bool
deriving DecidableEq, Repr

/-- What entry to a handler saves of the trapped split and its group (R334). -/
structure Saved where
  entry : Nat
  mode : Word
  fpx : Word
  latches : List Latch
  loops : List LoopEntry
  rets : List RetEntry
  /-- the count and the ticket of the split's wait (R49, R314) -/
  count : Nat
  ticket : Option Word
  /-- the resume address at the entry: a count, a ticket or a place of the `XACQ` order is kept only for the instruction there -/
  pc : Word
  /-- cycles since the entry (R347) -/
  cycles : Nat
deriving DecidableEq, Repr

/-- Whether a group runs (R42, R156). -/
inductive Run where
  | running
  /-- suspended alone in its slot: escalation, `KILL` mode 3 or the watchdog (R42) -/
  | suspended
  /-- the MCC whose context or gang has ended (R249) -/
  | ended
deriving DecidableEq, Repr

/-- A group, or the MCC's one-lane context (R23, R58, R247). -/
structure Group where
  /-- the gang it belongs to, its team's index in the gang and its index in the team (R43) -/
  gang : Nat
  team : Nat
  grp : Nat
  mcc : Bool
  v : Tab Lanes
  s : Tab Word
  p : Tab Word
  /-- the supervisor bank (R334) -/
  sv : Tab Lanes
  ss : Tab Word
  mode : Word
  exec : Word
  dead : Word
  fpx : Word
  rngs : Lanes
  live : Word
  /-- absent registers, by operand value (R290) -/
  absent : List Nat
  lclkh : Option Word
  /-- windows held, with the pool block that backs each (R44) -/
  held : Tab Nat
  splits : List Split
  frames : List Frame
  run : Run
  saved : Option Saved
  trapc : Word
  trappc : Word
  trapmask : Word
  trapaddrl : Word
  trapaddrh : Word
  step : Bool
  /-- the split that a single step runs alone (R345) -/
  stepping : Option Nat
  trapq : List Pending
  apend : List Pending
  vecs : Vecs
  /-- releases that later `spc` writes make, from `FENCE.rel` (R185) -/
  fences : List Release
  /-- releases that earlier `spc` reads read from, for `FENCE.acq` (R185) -/
  seen : List Release
  /-- `ENERGY` and `QNRG` as of the last refresh (R313, R336) -/
  energy : Word
  qnrg : Word
  /-- local cycles since the last refresh, or since the party's creation (R336) -/
  age : Nat
  /-- lanes whose vector register or generator (128) holds an uncorrectable error (R349): operand value and lane -/
  ueLane : List (Nat × Nat)
  /-- shared state holds an uncorrectable error (R349) -/
  ueGroup : Bool
deriving DecidableEq, Repr

/-- A limit-table entry (R301). -/
structure Limit where
  mcc : Bool
  key : Nat
  /-- 0 trips, 1 wait, 2 depth, 3 travels, 4 launches -/
  kind : Nat
  n : Nat
  endA : Nat
deriving DecidableEq, Repr

/-- A bucket (R302). -/
structure Bucket where
  n : Nat
  entry : Nat
  pad : Bool
  ranges : List (Nat × Nat)
deriving DecidableEq, Repr

/-- A clause-table entry (R275). -/
structure Clause where
  n : Nat
  start : Nat
  len : Nat
  reps : Nat
deriving DecidableEq, Repr

/-- A kernel of a Praip image, as its sections give it (R299, R300). -/
structure Kernel where
  idx : Nat
  /-- the kernel's start in the code section, added to a PC for a limit key (R301) -/
  base : Nat
  code : List Byte
  mccBase : Nat
  mcc : Option (List Byte)
  limits : List Limit
  buckets : List Bucket
  clauses : List Clause
  jtabs : Tab (List Nat)
  consts : List Word
  tensors : List (List Word)
  stages : Nat
  rows : Nat
  xblocks : Nat
  args : Nat
deriving DecidableEq, Repr

/-- A child-table entry (R326). -/
structure Child where
  serial : Nat
  grid : Nat
deriving DecidableEq, Repr

/-- A place in a team's `XACQ` service order (R44): the split, the window, and whether a handler asked for it. -/
structure XWait where
  gid : Nat
  entry : Nat
  window : Nat
  sup : Bool
deriving DecidableEq, Repr

/-- A team (R23, R44, R145, R220). -/
structure Team where
  gang : Nat
  idx : Nat
  core : Nat
  slots : List Nat
  row0 : Nat
  rows : Nat
  pool : List Nat
  free : List Nat
  /-- the `XACQ` service order -/
  xq : List XWait
  /-- completed generations of the team barrier, and the groups arrived in the current one -/
  barGen : Nat
  arrived : List Nat
  /-- groups of the team that have retired (R220) -/
  retired : List Nat
  children : Tab Child
  serial : Nat
  /-- executions of each `LAUNCH` site (R326) -/
  launches : Tab Nat
  /-- cycles counted while resident (R313) -/
  used : Nat
  /-- where the leaves of type 4 lie that mapped the allotment when the team was suspended (R50) -/
  leaves : List Nat
  done : Bool
deriving DecidableEq, Repr

/-- A travel packet (R284). -/
structure Packet where
  id : Nat
  gang : Nat
  dest : Word
  station : Nat
  isReturn : Bool
  /-- it has reached its station (R288) -/
  arrived : Bool
  /-- the local cycle at which it arrived, since its gang was last placed (R288) -/
  cycle : Option Nat
  core : Nat
  slot : Nat
  /-- the station that it left (R284) -/
  source : Nat
  /-- uncorrectable errors of the lanes' registers and generators that travel (R349) -/
  ueLane : List (Nat × Nat)
  lanes : Word
  exec : Word
  dead : Word
  mode : Word
  fpx : Word
  live : Word
  v : Tab Lanes
  s : Tab Word
  p : Tab Word
  rngs : Lanes
  loops : List LoopEntry
  rets : List RetEntry
  release : Release
  present : List Nat
deriving DecidableEq, Repr

/-- A station's places (R286): the packets waiting in arrival order, and the spill places the quote set aside. -/
structure Station where
  clause : Nat
  replica : Nat
  waiting : List Nat
  reserved : List Nat
  spill : Nat
deriving DecidableEq, Repr

/-- A group that a suspended gang's place keeps (R50). -/
structure SavedGroup where
  team : Nat
  grp : Nat
  group : Group
deriving DecidableEq, Repr

/-- An operation of the matrix queue with all it captured at issue (R257, R273). -/
structure QOp where
  /-- 1 `MWL`, 2 `MSTR`, 3 `MDRN`, 4 `MCLR`, 5 `MSWAP` (R262) -/
  kind : Nat
  tile : Nat
  mask : Nat
  scale : Word
  scope : Nat
  tensor : List Word
  tid : Nat
  run : List Word
  count : Nat
  first : Nat
  tray : Option Nat
  rps : Nat
  site : Word
  vecs : Vecs
  epoch : Nat
  kcount : Nat
  started : Bool
  /-- rows landed in the pass, or K-rows written, and whether it is the second pass (R256) -/
  cursor : Nat
  second : Bool
  /-- the tray index in use -/
  index : Option Word
  /-- rows that a narrowed first pass has left to the second (R256) -/
  owed : Nat
  /-- cycles left of a wake latency, or before it completes once its rows have landed (R254, R255) -/
  tail : Nat
  /-- its number among the operations that the MCC has issued (R271) -/
  seq : Nat
  waited : Nat
  waiting : Bool
deriving DecidableEq, Repr

/-- A weight plane (R250): its format (none for *none*), weights by 512 k + n and block scales by 512 g + n. -/
structure Plane where
  fmt : Option Nat
  w : Tab Nat
  sc : Tab Nat
deriving DecidableEq, Repr

/-- The matrix state of a cluster's MCC (R247, R273). -/
structure Mcc where
  mshp : Nat
  dscale : Word
  plane0 : Plane
  plane1 : Plane
  active : Nat
  /-- accumulator elements by 65536 t + 512 row + column -/
  acc : Tab Word
  queue : List QOp
  /-- operations issued so far (R271), and what those that have completed since the last `MWAIT` acquired (R261) -/
  issued : Nat
  landed : Vecs
  /-- a pending queue fault: cause, address and the position of the faulted operation, and whether the MCC has taken the
  trap (R259) -/
  qf : Option (Cause × Option Nat × Nat)
  qfTaken : Bool
  /-- elements that hold an uncorrectable error (R350) -/
  bad : List MatrixCell
deriving DecidableEq, Repr

/-- A gang, or a sentence (R23, R276). -/
structure Gang where
  grid : Nat
  stage : Nat
  ordinal : Nat
  base : Nat
  size : Nat
  tile : Nat
  cluster : Nat
  usesMcc : Bool
  suspended : Bool
  /-- the grid whose priority caused the suspension, which the save and the restore are charged to (R382) -/
  savedFor : Option Nat
  /-- suspended by device action, as R314 counts it, or by the host (R348) -/
  byHost : Bool
  groups : List SavedGroup
  mcc : Option (Group × Mcc)
  stations : Tab Station
  /-- the host has been told that it cannot be placed (R273) -/
  told : Bool
  done : Bool
deriving DecidableEq, Repr

/-- A dependency on an upstream grid (R323). -/
structure Dep where
  grid : Nat
  a : Nat
  b : Int
  w : Nat
deriving DecidableEq, Repr

/-- A grid (R23, R26, R321, R323). -/
structure Grid where
  ctx : Nat
  kernel : Kernel
  counts : List Nat
  groups : Nat
  p : Nat
  f : Nat
  seed : Word
  args : List Word
  shapes : List Word
  bucket : Nat
  entry : Word
  pad : Bool
  /-- the quote in force, or none (R315) -/
  quote : Option Nat
  /-- the quote it was launched under, for its records -/
  launchedOn : Nat
  priority : Nat
  /-- teams formed and gangs formed, by stage (R27) -/
  formed : Tab Nat
  gangs : Tab Nat
  /-- the stage whose turn it is in the current round (R27) -/
  turnStage : Nat
  /-- linear indices of the retired teams (R323) -/
  retired : List Nat
  dep : Option Dep
  steward : Option (Nat × Nat)
  /-- its parent team and child-table entry, for a child grid (R326) -/
  parent : Option (Nat × Nat)
  energy : Nat
  maxCycles : Nat
  travels : Tab Nat
  breaches : List BreachKind
  /-- a budget was exhausted for a cause of the device's, so that its use is charged at most at the quote, and the energy that a void
  has left uncharged (R318) -/
  deviceBreach : Bool
  waived : Nat
  boundLeft : Nat
  /-- the completion status of R321 and the trap code that caused it -/
  status : Nat
  trap : Cause
  halted : Bool
  complete : Bool
  seq : Nat
  replay : Option (Nat × Nat)
  replayLog : List Byte
  /-- clusters that worked for it (R353) -/
  clusters : List Nat
  /-- releases its groups acquire at creation (R183) -/
  inherits : List Release
  /-- releases its retired groups and teams made (R183), by linear team -/
  releases : List (Nat × Release)
  ended : Bool
deriving DecidableEq, Repr

/-- An acknowledgement window (R18): the version and the cycles counted; `hostWin` for host delivery. -/
structure AckWindow where
  version : Nat
  cycles : Nat
  hostWin : Bool
  gid : Nat
deriving DecidableEq, Repr

/-- An error-log entry (R342). -/
structure LogEntry where
  words : List Word
  read : Bool
deriving DecidableEq, Repr

/-- A context: what a CONTEXT packet sets on a queue interface, with its pool, tensor table and log (R159, R342, R366,
R370). -/
structure Ctx where
  root : Nat
  code : List Byte
  hdlr : Word
  part : Nat
  fn : Nat
  qi : Nat
  pool : List Nat
  /-- tensor-table entries of 12 words, the valid ones (R159, R230) -/
  tensors : Tab (List Word)
  log : Tab LogEntry
  logSeq : Nat
  logov : Bool
  ack : Nat
  windows : List AckWindow
  late : Bool
  serial : Nat
  grants : List Nat
  live : Bool
deriving DecidableEq, Repr

/-- A writer or an access-set entry of a stamp (R199). -/
inductive Stamper where
  | none
  | core (part cluster slot epoch count : Nat)
  | engine (part k count : Nat)
deriving DecidableEq, Repr

/-- The mark of an access-set entry (R199). -/
inductive Mark where
  | read | atomic | combining
deriving DecidableEq, Repr

/-- A granule's stamp (R199). -/
structure Stamp where
  writer : Stamper
  /-- whether the writer was an atomic -/
  watomic : Bool
  set : List (Stamper × Mark)
  /-- a third entry was needed: the set is kept as the entry-wise maximum over its entries -/
  overflow : Bool
deriving DecidableEq, Repr

/-- An update of use `com` not yet performed (R192). -/
structure ComUpdate where
  party : Party
  loc : Nat
  op : AtmOp
  ty : Nat
  round : Nat
  v : Word
deriving DecidableEq, Repr

/-- A store that is held because its peer is RECOVERING (R377): who made it, in which context, the node, the place, the bytes and its
address. -/
structure Posted where
  gid : Nat
  ctx : Nat
  node : Nat
  loc : Nat
  bytes : List Byte
  addr : Nat
  /-- why it will never be performed: its peer is LOST, or has refused it (R376, R377) -/
  fate : Option Cause
deriving DecidableEq, Repr

/-- A cluster's `qnt` buffer for one location (R193). -/
structure QntBuf where
  loc : Nat
  updates : List ComUpdate
deriving DecidableEq, Repr

/-- A page-table entry held in a TLB (R154): which TLB, whose context, the virtual page it served, the entry's location
and its value. -/
structure TlbEntry where
  /-- 0-143 a cluster's, 200+t a tile's second level, 300+k an engine's -/
  tlb : Nat
  ctx : Nat
  va : Nat
  /-- the entry's level, 0 for the lowest -/
  lvl : Nat
  loc : Nat
  value : Nat
  /-- the descriptor of a tile leaf, which is cached with it (R153); 0 for any other entry -/
  desc : Nat
deriving DecidableEq, Repr

/-- Loop state of a stream list (R238). -/
structure SLoop where
  start : Nat
  loc : Bool
  addr : Nat
  trips : Nat
  begun : Nat
deriving DecidableEq, Repr

/-- A command parked at a fault (R157, R244). -/
structure Park where
  cause : Cause
  addr : Nat
  reported : Bool
deriving DecidableEq, Repr

/-- What an engine's list waits for (R243). -/
inductive EWait where
  | tail
  | claim
  | consume
deriving DecidableEq, Repr

/-- A stream list of an engine (R238). -/
structure SList where
  serial : Nat
  gang : Nat
  team : Nat
  ctx : Nat
  /-- whether the list's words lie in the allotment, and the address of the word at position `p` -/
  loc : Bool
  addr : Nat
  p : Nat
  tail : Nat
  c : Tab Word
  loops : List SLoop
  slot : Option Word
  consume : Word
  /-- the tray, as the sync address word that the issuer gave -/
  tray : Nat
  /-- the issuing group's L, and the release that an acquire of the list's pairs with (R183, R198) -/
  vecs : Vecs
  rel : Release
  /-- the latest release of `SREL` at each scope, which whoever observes the list's later fills and releases pairs with (R183) -/
  srel : List Release
  wait : Option EWait
  park : Option Park
  /-- the teams of its grid have all retired: it ends with the command that has begun (R246) -/
  closing : Bool
  /-- the command whose words have been read and which has not ended, the tensor entry that it found as it began, if it has begun (R208),
  the entry of a transfer in progress, and its rows already transferred -/
  cur : Option Instr
  named : Option (Option (List Word))
  tensor : Option (List Word)
  row : Nat
  issuer : Nat
deriving DecidableEq, Repr

/-- A copy given to an engine (R232, R234). -/
structure Copy where
  serial : Nat
  gang : Nat
  team : Nat
  ctx : Nat
  versioned : Bool
  src : List Word
  dst : List Word
  flags : Nat
  box : Word
  coords : List Word
  dcoords : List Word
  tray : Nat
  scope : Nat
  vecs : Vecs
  rel : Release
  slot : Option Word
  wait : Option EWait
  park : Option Park
  row : Nat
  /-- elements that a `TCOPYV` holds until its commit test, with their scale bytes (R234) -/
  held : List (Nat × Nat)
  begun : Bool
  /-- the version word as last compared (R237) -/
  compared : Nat
  /-- status, elements written and version, once every element has been written (R237) -/
  ended : Option (Nat × Nat × Nat)
  /-- the teams of its grid have all retired (R246) -/
  closing : Bool
  issuer : Nat
deriving DecidableEq, Repr

/-- A stream engine (R238): its lists, its copies, the list to be served next, its count N(k) and its vectors. -/
structure Engine where
  lists : List SList
  copies : List Copy
  next : Nat
  count : Nat
  vecs : Vecs
deriving DecidableEq, Repr

/-- A cluster's own state. -/
structure Cluster where
  lclk : Nat
  /-- its core count K(c) (R198) -/
  kcount : Nat
  /-- scan mark of its last pass (R352) -/
  proof : Nat
  qnt : List QntBuf
  /-- completions it worked for since its last pass (R355): function, completion number -/
  work : List (Nat × Nat)
  /-- running grids it worked for since its last pass -/
  grids : List Nat
  cadence : Nat
  narrow : Bool
  awake : Nat
  /-- idle cycles of each band -/
  idle : Tab Nat
  /-- the gating timeout in force for each band (R22) -/
  idleLimit : Tab Nat
  scanning : Bool
  /-- fills and cycle counts are ordered against scans by this count of scans begun (R172) -/
  scans : Nat
  /-- the hub die's time when its latest scan began, and the reservations that each of its drains met (R306, R352) -/
  scanBegan : Nat
  drains : List Nat
deriving DecidableEq, Repr

/-- The state of a quote (R303, R310). -/
inductive QState where
  | issued | accepted | launched | declined | lapsed | void
deriving DecidableEq, Repr

/-- A `LAUNCH` site that a QUOTE request names: its offset in the code section, the child kernel and the child's shape (R308). -/
structure SiteReq where
  off : Nat
  kernel : Kernel
  counts : List Nat
  groups : Nat
  p : Nat
  f : Nat
deriving DecidableEq, Repr

/-- A QUOTE request as consumed (R308). -/
structure QuoteReq where
  ctx : Nat
  kernel : Kernel
  /-- the SHA3-512 digest in the image's header -/
  digest : List Byte
  counts : List Nat
  groups : Nat
  p : Nat
  f : Nat
  priority : Nat
  ceiling : Nat
  sites : List SiteReq
  result : Nat
deriving DecidableEq, Repr

/-- A walk in progress (R308): who asked, the packet, the version it began at, with the cost table, the costliest class of the
mapped target types and the narrowed clusters as they stood then, and a reason that refuses the request whatever the reservation,
or 0. -/
structure Walk where
  qi : Nat
  hseq : Word
  req : QuoteReq
  mapv : Nat
  costs : Tab (Nat × Nat)
  mem : Nat
  narrow : List Nat
  /-- the map's words as they stood when the walk began (R319) -/
  map : Tab Word
  refusal : Nat
  requote : Bool
  /-- for a re-quote: the running grid, and the kind, status and payload of each record that reports the refusal or the
  void (R388) -/
  grid : Nat
  reports : List (Nat × Nat × List Word)
deriving DecidableEq, Repr

/-- A quote (R309, R310). -/
structure Quote where
  req : QuoteReq
  mapv : Nat
  budget : Nat
  bound : Nat
  energy : Nat
  bucket : Nat
  rows : Nat
  waves : Nat
  parent : Nat
  /-- the LAUNCH site of a standing quote -/
  site : Nat
  /-- the reservation's number: every record of one request carries the same (R308) -/
  res : Nat
  issued : Nat
  state : QState
  /-- the first quote of its request -/
  first : Nat
  /-- the running grid that a re-quote is offered to, or 0 (R320) -/
  grid : Nat
deriving DecidableEq, Repr

/-- An entry of the map's change log (R19): the version, whether it is a degradation, and the units that changed. -/
structure MapLog where
  version : Nat
  deg : Bool
  /-- the index of each changed word, with the bits that changed -/
  units : List (Nat × Nat)
deriving DecidableEq, Repr

/-- A queue interface (R364). -/
structure Qi where
  sqbase : Nat
  cqbase : Nat
  sqlog : Nat
  cqlog : Nat
  en : Bool
  pasid : Nat
  valid : Bool
  revoked : Bool
  sqtail : Word
  sqhead : Word
  cqseq : Word
  cqack : Word
  qirq : Word
  seqerr : Bool
  drop : Bool
  qdrop0 : Word
  qdropn : Word
  /-- records held (R368): their 32 bytes -/
  held : List (List Byte)
  /-- the last record sequence number given -/
  dseq : Nat
  /-- records written since the last interrupt, and hub cycles since the first of them -/
  unreported : Nat
  sinceFirst : Nat
deriving DecidableEq, Repr

/-- An egress (R373). -/
structure Egress where
  ctx : Nat
  tray : Nat
  trayVa : Nat
  buffer : Nat
  e : Word
  /-- indices for which a record has been written -/
  recorded : List Word
  live : Bool
deriving DecidableEq, Repr

/-- SPDM and IDE state of function 0's mailbox (R385): requests answered, and whether a session's keys are set up. -/
structure Spdm where
  answered : List Nat
  version : Bool
  caps : Bool
  algs : Bool
  exchanged : Bool
  session : Bool
  /-- responses in the mailbox, the latest first -/
  responses : List (List Byte)
deriving DecidableEq, Repr

/-- The machine's state. -/
structure State where
  /-- which party moves when the agenda is empty, what comes first, and the counter of the free values -/
  turn : Turn
  agenda : List Act
  freeCtr : Nat
  /-- the hub die: cycles, the map, its log, the cost table and its version (R8, R12, R19, R21) -/
  hub : Nat
  mapv : Nat
  map : Tab Word
  mapLog : List MapLog
  costs : Tab (Nat × Nat)
  costv : Nat
  /-- the chip's stepping, shown by `CAPID` (R20; 0 until firmware has booted, log 139, DESIGN CHOICE, unsafe) -/
  rev : Nat
  /-- BOOTSTAT (R363, R383) -/
  bootstat : Word
  /-- the digests of the boot stages verified, in their order (R385) -/
  stages : List (List Byte)
  /-- the compound device identifiers of the layers that have run: the ROM's, and those of the stages verified (R384) -/
  identities : List (List Byte)
  /-- hub registers that read as last written, by offset (R20, R158, R359, R360, R363) -/
  regs : Tab Word
  devnrg : Word
  /-- memory of every space, and the poisoned bytes of it (R350) -/
  mem : List Host.Cell
  poison : List Nat
  /-- sync-typed granules, initialised tray headers and valid barrier words, by location (R176, R217, R221) -/
  sync : List Nat
  trays : List Nat
  /-- which gangs have used which synchronisation object in global memory, by its granule (R358) -/
  users : List (Nat × Nat)
  bars : Tab Nat
  /-- FINAL_HOLD: for a tray header, its slots' indices with the filling cluster and its count of scans (R172) -/
  fills : List (Nat × Nat × Nat × Nat)
  proofed : List (Nat × Nat)
  /-- slots that a failed scan vetoes once they resolve (R172) -/
  vetoed : List (Nat × Nat)
  tlb : List TlbEntry
  /-- the CHECKED trays in global memory: header, and the context that initialised it, in whose address space its slots lie (R177) -/
  checkedAreas : List (Nat × Nat)
  /-- what the host has programmed: CXL ranges that a port's decoder covers (base, size, port; R379), and the pages that
  its IOMMU refuses a context (R370) -/
  decoders : List (Nat × Nat × Nat)
  atsDenied : List (Nat × Nat)
  /-- the pages that a peer refuses: node and page of its memory (R376) -/
  peerDenied : List (Nat × Nat)
  /-- ordering and race detection (R183, R198, R199) -/
  epochs : Tab Nat
  slotRel : Tab (List Release)
  stamps : Tab Stamp
  rels : Tab (List Release)
  coms : List ComUpdate
  /-- stores held for peers that are RECOVERING, or that have become LOST since, in their order (R377) -/
  posted : List Posted
  /-- parties and work -/
  clusters : Tab Cluster
  groups : Tab Group
  mccs : Tab Mcc
  stores : Tab (List Nat)
  teams : Tab Team
  gangs : Tab Gang
  grids : Tab Grid
  packets : Tab Packet
  engines : Tab Engine
  ctxs : Tab Ctx
  /-- quotes and reservations -/
  quotes : Tab Quote
  reservations : Tab Reservation
  walks : List Walk
  nextQid : Nat
  nextGrid : Nat
  nextGang : Nat
  nextPacket : Nat
  nextEgress : Nat
  nextReservation : Nat
  /-- completion sequence number of each function, and the number up to which all is proofed (R354) -/
  completions : Tab Nat
  finals : Tab Nat
  /-- completions that a SUSPECT record has named: function and number (R354) -/
  suspects : List (Nat × Nat)
  scanSeq : Nat
  /-- performance counters, by partition, level, unit and event (R361) -/
  counters : Tab Word
  /-- the host side -/
  qis : Tab Qi
  egresses : Tab Egress
  interrupts : List (Nat × Nat)
  /-- rail votes by 8 tile + partition, and the hub cycles passed since each had work or a reservation to vote for (R381) -/
  votes : Tab Nat
  settle : Tab Nat
  /-- hub cycles that a peer has been RECOVERING (R377) -/
  recovering : Tab Nat
  locked : List Nat
  spdm : Spdm
  /-- pages migrating: context, address, target tier, old page location (R158) -/
  migrations : List (Nat × Nat × Nat × Nat)
  /-- a counter overflow stopped quoting and raised MACHINE_CHECK (R13, R203) -/
  checked : Bool
deriving DecidableEq, Repr

/-- Why the machine stops. -/
inductive Fault where
  /-- Raised by nothing that the spec describes: a step whose `turn` names no party of the machine has nothing to do
  and does not stop. It stands for a read of memory outside every space, which no access of the model makes. Safe. -/
  | noSuchAddress
deriving DecidableEq, Repr

/-- Why a step has no meaning. -/
inductive Refusal where
  /-- raised by `exec` for an instruction that has no meaning yet; safe -/
  | notModelled (mnemonic : String)
deriving DecidableEq, Repr

/-- A party's vectors with nothing acquired (R198). -/
def Vecs.zero : Vecs := { home := 0, l := [], x := [], e := [] }

/-- The device right after power-on reset, before boot firmware has run (R383): no context, no grid, no quote; every
register at its stated reset value (R20, R158, R254, R359, R363, R364), and those without one as the assumption log
says. -/
def State.reset : State :=
  { turn := .split 0 0, agenda := [], freeCtr := 0, hub := 0, mapv := 0, map := [], mapLog := [], costs := [], costv := 1,
    rev := 0, bootstat := 0, stages := [], identities := [], regs := [], devnrg := 0, mem := [], poison := [], sync := [], trays := [], users := [], bars := [],
    fills := [], proofed := [], vetoed := [], tlb := [], checkedAreas := [],
    decoders := [], atsDenied := [], peerDenied := [], epochs := [], slotRel := [], stamps := [], rels := [], coms := [], posted := [],
    clusters := [], groups := [], mccs := [], stores := [], teams := [], gangs := [], grids := [], packets := [],
    engines := [], ctxs := [], quotes := [], reservations := [], walks := [], nextQid := 1, nextGrid := 1, nextGang := 1,
    nextPacket := 1, nextEgress := 0, nextReservation := 1, completions := [], finals := [], suspects := [], scanSeq := 0, counters := [],
    qis := [], egresses := [], interrupts := [], votes := [], settle := [], recovering := [], locked := [],
    spdm := { answered := [], version := false, caps := false, algs := false, exchanged := false, session := false,
              responses := [] },
    migrations := [], checked := false }

end Sys2Proof.Machine
end

