-- ==== Sys2Proof/Machine/Data.lean ====
section
/-! DEFINITION. The plain data that State is made of: tables by number, the 32 lanes of a group, lane masks, and memory
as a list of cells in one canonical form. -/
namespace Sys2Proof.Machine

/-- The entry of a table at a key. -/
def Tab.find {α : Type} : Tab α → Nat → Option α
  | [], _ => none
  | (j, v) :: t, k => if j = k then some v else Tab.find t k

/-- The entry of a table at a key, or the default. -/
def Tab.read {α : Type} (t : Tab α) (k : Nat) (d : α) : α := (Tab.find t k).getD d

/-- The table with `v` at `k`. -/
def Tab.put {α : Type} : Tab α → Nat → α → Tab α
  | [], k, v => [(k, v)]
  | (j, w) :: t, k, v => if j = k then (k, v) :: t else (j, w) :: Tab.put t k v

/-- The table without the key `k`. -/
def Tab.del {α : Type} (t : Tab α) (k : Nat) : Tab α := t.filter (fun e => e.1 != k)

/-- The table with the entry at `k` changed by `f`, if there is one. -/
def Tab.upd {α : Type} (t : Tab α) (k : Nat) (f : α → α) : Tab α := t.map (fun e => if e.1 = k then (e.1, f e.2) else e)

/-- The keys of a table. -/
def Tab.keys {α : Type} (t : Tab α) : List Nat := t.map (·.1)

/-- The lanes of a group. -/
def lanes : List Nat := List.range 32

/-- The 32 lane values of a function. -/
def lanesOf (f : Nat → Word) : Lanes := lanes.map f

/-- One lane's value. -/
def Lanes.at (v : Lanes) (l : Nat) : Word := v.getD l 0

/-- The mask whose bit `l` is `p l`, over the lanes listed. -/
def maskOver : List Nat → (Nat → Bool) → Nat
  | [], _ => 0
  | l :: ls, p => b2n (p l) * 2 ^ l + maskOver ls p

/-- The lane mask of a predicate on lanes. -/
def maskOf (p : Nat → Bool) : Word := word (maskOver lanes p)

/-- Whether a mask holds lane `l`. -/
def Word.has (m : Word) (l : Nat) : Bool := m.getLsbD l

/-- The lowest lane of a mask. -/
def lowest (m : Word) : Option Nat := lanes.find? (fun l => m.getLsbD l)

/-- A mask that holds exactly the lanes below `n`. -/
def lanesBelow (n : Nat) : Word := maskOf (fun l => decide (l < n))

/-- The value of the byte of a memory at a location; unlisted bytes read 0 (log 6, DESIGN CHOICE, unsafe). -/
def Memory.read (m : List Host.Cell) (a : Nat) : Byte := ((m.find? (fun c => c.1 == a)).map (·.2)).getD 0

/-- The memory with a cell put in its place by address. -/
def Memory.insert : List Host.Cell → Nat → Byte → List Host.Cell
  | [], a, v => [(a, v)]
  | (b, w) :: t, a, v => if a < b then (a, v) :: (b, w) :: t else (b, w) :: Memory.insert t a v

/-- The memory without location `a`. -/
def Memory.clear (m : List Host.Cell) (a : Nat) : List Host.Cell := m.filter (fun c => c.1 != a)

/-- The memory with byte `v` at location `a`, in canonical form. -/
def Memory.write (m : List Host.Cell) (a : Nat) (v : Byte) : List Host.Cell :=
  if v = 0 then Memory.clear m a else Memory.insert (Memory.clear m a) a v

/-- `n` bytes from location `a`. -/
def Memory.load (m : List Host.Cell) (a n : Nat) : List Byte := (List.range n).map (fun k => Memory.read m (a + k))

/-- The memory with bytes stored from location `a`. -/
def Memory.store : List Host.Cell → Nat → List Byte → List Host.Cell
  | m, _, [] => m
  | m, a, b :: bs => Memory.store (Memory.write m a b) (a + 1) bs

/-- The memory with every listed cell of [a, a + n) gone. -/
def Memory.zero (m : List Host.Cell) (a n : Nat) : List Host.Cell := m.filter (fun c => c.1 < a || a + n ≤ c.1)

/-- The memory without the bytes of the locations that `p` names. -/
def Memory.drop (m : List Host.Cell) (p : Nat → Bool) : List Host.Cell := m.filter (fun c => !p c.1)

/-- The canonical form of memory: addresses strictly rising, and no cell of value 0. -/
def Memory.wf : List Host.Cell → Bool
  | [] => true
  | [c] => c.2 != 0
  | c :: d :: t => c.2 != 0 && decide (c.1 < d.1) && Memory.wf (d :: t)

end Sys2Proof.Machine
end

