-- ==== Sys2Proof/Machine/Flags.lean ====
section
/-! DEFINITION. The sticky flags of `FPX` (R71). -/
namespace Sys2Proof.Machine.Fpx

/-- IEEE invalid operation -/
def nv : Nat := 1
/-- IEEE division by zero -/
def dz : Nat := 2
/-- IEEE overflow -/
def of : Nat := 4
/-- IEEE underflow -/
def uf : Nat := 8
/-- IEEE inexact -/
def nx : Nat := 16
/-- integer division by zero -/
def idz : Nat := 32
/-- a lane operation read a dead lane -/
def deadrd : Nat := 64
/-- `CNTRD` named an event that is not allowed -/
def cntx : Nat := 128
/-- a saturating result was clamped -/
def satd : Nat := 256

/-- `FPX` after flags were raised: any lane can set a flag and none clears one (R71). -/
def raise (fpx : Word) (fl : Nat) : Word := fpx ||| word (fl % 512)

/-- `FPX` after a write of `x` to it (R71, W1C). -/
def clear (fpx x : Word) : Word := fpx &&& ~~~ x

/-- The flag `f` if `c`. -/
def iff (c : Bool) (f : Nat) : Nat := if c then f else 0

end Sys2Proof.Machine.Fpx
end

