-- ==== Sys2Proof/Machine/Party.lean ====
section
/-! DEFINITION. The issuing party of an instruction as one record, the units it belongs to, its lanes, leader and guard
(R30-R32, R62), and the units' defaults. -/
namespace Sys2Proof.Machine

/-- The reset value of `MODE` (R59). -/
def modeReset : Word := 7

/-- An image's kernel with nothing in it. -/
def Kernel.empty : Kernel :=
  { idx := 0, base := 0, code := [], mccBase := 0, mcc := none, limits := [], buckets := [], clauses := [], jtabs := [],
    consts := [], tensors := [], stages := 1, rows := 0, xblocks := 0, args := 0 }

/-- A grid with nothing in it. -/
def Grid.empty : Grid :=
  { ctx := 0, kernel := .empty, counts := [], groups := 1, p := 1, f := 1, seed := 0, args := [], shapes := [], bucket := 0,
    entry := 0, pad := false, quote := none, launchedOn := 0, priority := 0, formed := [], gangs := [], turnStage := 0,
    retired := [], dep := none, steward := none, parent := none, energy := 0, maxCycles := 0, travels := [], breaches := [], deviceBreach := false, waived := 0,
    boundLeft := 0, status := 0, trap := .none, halted := false, complete := false, seq := 0, replay := none,
    replayLog := [], clusters := [], inherits := [], releases := [], ended := false }

/-- A gang with nothing in it. -/
def Gang.empty : Gang :=
  { grid := 0, stage := 0, ordinal := 0, base := 0, size := 0, tile := 0, cluster := 0, usesMcc := false,
    suspended := false, savedFor := none, byHost := false, groups := [], mcc := none, stations := [], told := false, done := false }

/-- A team with nothing in it. -/
def Team.empty : Team :=
  { gang := 0, idx := 0, core := 0, slots := [], row0 := 0, rows := 0, pool := [], free := [], xq := [], barGen := 0,
    arrived := [], retired := [], children := [], serial := 1, launches := [], used := 0, leaves := [], done := false }

/-- A context that no CONTEXT packet has set. -/
def Ctx.empty : Ctx :=
  { root := 0, code := [], hdlr := 0, part := 0, fn := 0, qi := 0, pool := [], tensors := [], log := [], logSeq := 0,
    logov := false, ack := 0, windows := [], late := false, serial := 1, grants := [], live := false }

/-- A cluster at reset (log 4, DESIGN CHOICE, unsafe, log 7, DESIGN CHOICE, unsafe, log 8, DESIGN CHOICE, unsafe). -/
def Cluster.empty : Cluster :=
  { lclk := 0, kcount := 1, proof := 0, scanBegan := 0, drains := [], qnt := [], work := [], grids := [], cadence := 1, narrow := false, awake := 0,
    idle := [], idleLimit := [], scanning := false, scans := 0 }

/-- An engine that runs nothing; its count starts at 1 (log 7, DESIGN CHOICE, unsafe). -/
def Engine.empty : Engine := { lists := [], copies := [], next := 0, count := 1, vecs := .zero }

/-- A plane of format none with zero weights (R247). -/
def Plane.empty : Plane := { fmt := none, w := [], sc := [] }

/-- The matrix state at the start of a `.mcc` routine, with the live band mask given (R247). -/
def Mcc.start (live : Nat) : Mcc :=
  { mshp := live, dscale := 0x7F, plane0 := .empty, plane1 := .empty, active := 0, acc := [], queue := [],
    issued := 0, landed := .zero, qf := none, qfTaken := false, bad := [] }

/-- A station with nothing in it. -/
def Station.empty : Station := { clause := 0, replica := 0, waiting := [], reserved := [], spill := 0 }

/-- The latches at creation: 0, all stale (R29). -/
def freshLatches : List Latch := List.replicate 4 ⟨lanesOf (fun _ => 0), true, 0⟩

/-- A split at creation (R29), in a buffer entry and with a lane set. -/
def Split.start (entry : Nat) (pc lanes : Word) : Split :=
  { entry := entry, pc := pc, lanes := lanes, latches := freshLatches, loops := [], rets := [], wait := none, since := 0,
    count := 0, ticket := none, area := 0, slices := [], ghost := [], issued := none }

/-- A group at creation, with nothing in its registers, `EXEC` all ones and no split yet (R29, R283, R334, R336). -/
def Group.start (gang team grp : Nat) (mcc : Bool) : Group :=
  { gang := gang, team := team, grp := grp, mcc := mcc, v := [], s := [], p := [], sv := [], ss := [], mode := modeReset,
    exec := 0xFFFFFFFF, dead := 0, fpx := 0, rngs := lanesOf (fun _ => 1), live := 0x1FFF, absent := [], lclkh := none, held := [],
    splits := [], frames := [], run := .running, saved := none, trapc := 0, trappc := 0, trapmask := 0, trapaddrl := 0,
    trapaddrh := 0, step := false, stepping := none, trapq := [], apend := [], vecs := .zero, fences := [], seen := [],
    energy := 0, qnrg := 0, age := 0, ueLane := [], ueGroup := false }

/-- The key of a team: its gang and index. -/
def teamKey (gang team : Nat) : Nat := gang * 256 + team

/-- The party number of a group: its cluster and slot number (R178). -/
def gidOf (cluster slotno : Nat) : Nat := cluster * 65 + slotno

/-- The home cluster of a group. -/
def gidCluster (gid : Nat) : Nat := gid / 65

/-- The slot number of a group in its cluster: 16 core + slot, or 64 for the MCC (R178). -/
def gidSlot (gid : Nat) : Nat := gid % 65

/-- The device core index of a group's core (R7). -/
def gidCore (gid : Nat) : Nat := gidCluster gid * 4 + gidSlot gid / 16

def State.group (s : State) (gid : Nat) : Option Group := Tab.find s.groups gid
def State.gang (s : State) (k : Nat) : Gang := Tab.read s.gangs k .empty
def State.grid (s : State) (k : Nat) : Grid := Tab.read s.grids k .empty
def State.team (s : State) (k : Nat) : Team := Tab.read s.teams k .empty
def State.ctx (s : State) (k : Nat) : Ctx := Tab.read s.ctxs k .empty
def State.cluster (s : State) (c : Nat) : Cluster := Tab.read s.clusters c .empty
def State.engine (s : State) (k : Nat) : Engine := Tab.read s.engines k .empty
/-- What a word of the map holds that nothing has written: 0, but a core's retired rows are none once boot firmware has built the
map (R12). -/
def State.mapBlank (s : State) (k : Nat) : Word := if 0x5000 ≤ k ∧ k < 0x5000 + 2 * 576 ∧ 0 < s.mapv then 0x07FF07FF else 0
def State.mapWord (s : State) (k : Nat) : Nat := (Tab.read s.map k (s.mapBlank k)).toNat

/-- A gang uses the object at a location: a named barrier, a tray or a sync object (R358). -/
def State.useObject (s : State) (gang loc : Nat) : State :=
  if s.users.contains (loc / 32, gang) then s else { s with users := s.users ++ [(loc / 32, gang)] }

def State.setGroup (s : State) (gid : Nat) (g : Group) : State := { s with groups := Tab.put s.groups gid g }
def State.setGang (s : State) (k : Nat) (g : Gang) : State := { s with gangs := Tab.put s.gangs k g }
def State.setGrid (s : State) (k : Nat) (g : Grid) : State := { s with grids := Tab.put s.grids k g }
def State.setTeam (s : State) (k : Nat) (t : Team) : State := { s with teams := Tab.put s.teams k t }
def State.setCtx (s : State) (k : Nat) (c : Ctx) : State := { s with ctxs := Tab.put s.ctxs k c }
def State.setCluster (s : State) (c : Nat) (v : Cluster) : State := { s with clusters := Tab.put s.clusters c v }
def State.setEngine (s : State) (k : Nat) (e : Engine) : State := { s with engines := Tab.put s.engines k e }

/-- What a handler of a group holds while another split of the group acts under the user's `MODE` and `FPX` (R332): the record that
its entry saved, and its own `MODE` and `FPX`. -/
structure Mate where
  saved : Saved
  mode : Word
  fpx : Word
deriving DecidableEq, Repr

/-- The group as a split outside its handler sees it, and what the handler holds meanwhile. -/
def Group.aside (g : Group) (sv : Saved) : Group × Mate :=
  ({ g with saved := none, mode := sv.mode, fpx := sv.fpx }, ⟨sv, g.mode, g.fpx⟩)

/-- The issuing split with its group and the rest of the machine. `mate` keeps what a handler of the group holds while a split
that issued in the cycle of its trap executes under the user's `MODE` and `FPX` (R332). -/
structure Ex where
  s : State
  gid : Nat
  g : Group
  sp : Split
  mate : Option Mate
deriving DecidableEq, Repr

/-- The split of a group in a buffer entry. -/
def Group.split? (g : Group) (entry : Nat) : Option Split := g.splits.find? (fun p => p.entry == entry)

/-- The party whose instruction is issued, if the turn names one. -/
def Ex.load (s : State) : Option Ex :=
  match s.turn with
  | .split gid e =>
    match s.group gid with
    | some g => (g.split? e).map (fun p => ⟨s, gid, g, p, none⟩)
    | none => none
  | .mate gid e =>
    match s.group gid with
    | some g =>
      (g.split? e).map (fun p =>
        match g.saved with
        | some sv => if sv.entry = e then ⟨s, gid, g, p, none⟩
            else ⟨s, gid, (g.aside sv).1, p, some (g.aside sv).2⟩
        | none => ⟨s, gid, g, p, none⟩)
    | none => none
  | .engine _ => none

/-- A group with one split replaced by its new state. -/
def Group.withSplit (g : Group) (sp : Split) : Group :=
  { g with splits := g.splits.map (fun p => if p.entry = sp.entry then sp else p) }

/-- A group of the party as the state holds it: with its handler's record, `MODE` and `FPX` where one runs beside the party. -/
def Ex.housed (x : Ex) (g : Group) : Group :=
  match x.mate with
  | none => g
  | some m => { g with saved := some { m.saved with mode := g.mode, fpx := g.fpx }, mode := m.mode, fpx := m.fpx }

/-- The group as the state holds it: the split put back, and the handler's record with it. -/
def Ex.home (x : Ex) : Group := x.housed (x.g.withSplit x.sp)

/-- The machine with a group of the party in it. -/
def Ex.putGroup (x : Ex) (g : Group) : State := x.s.setGroup x.gid (x.housed g)

/-- The machine after the party's instruction. -/
def Ex.save (x : Ex) : State := x.s.setGroup x.gid x.home

/-- The group is in a handler (`SUPSTAT.sup`, R334). -/
def Ex.sup (x : Ex) : Bool := x.g.saved.isSome

def Ex.gang (x : Ex) : Gang := x.s.gang x.g.gang
def Ex.gridId (x : Ex) : Nat := x.gang.grid
def Ex.grid (x : Ex) : Grid := x.s.grid x.gridId
def Ex.ctxId (x : Ex) : Nat := x.grid.ctx
def Ex.ctx (x : Ex) : Ctx := x.s.ctx x.ctxId
def Ex.teamId (x : Ex) : Nat := teamKey x.g.gang x.g.team
def Ex.team (x : Ex) : Team := x.s.team x.teamId
def Ex.part (x : Ex) : Nat := x.ctx.part
/-- `MODE` for the instruction at hand: for one that has waited, as it was when it was issued (R126; log 57, DESIGN CHOICE, unsafe). -/
def Ex.mode (x : Ex) : Nat := match x.sp.issued with | some i => i.mode.toNat | none => x.g.mode.toNat
def Ex.scope (x : Ex) : Nat := field x.mode 14 13
def Ex.cluster (x : Ex) : Nat := gidCluster x.gid

/-- A sentence-mode grid's kernel has a clause table (R274). -/
def Kernel.sentence (k : Kernel) : Bool := !k.clauses.isEmpty

/-- The split's live lanes: those of its lane set that are not dead. -/
def Ex.liveLanes (x : Ex) : Word := x.sp.lanes &&& ~~~ x.g.dead

/-- The active lanes (R30); in a handler, the trapped split's live lanes (R334). -/
def Ex.active (x : Ex) : Word := if x.sup then x.liveLanes else x.liveLanes &&& x.g.exec

/-- The leader lane (R32). -/
def Ex.lead (x : Ex) : Nat :=
  match lowest x.active with
  | some l => l
  | none =>
    match lowest x.liveLanes with
    | some l => l
    | none => (lowest x.sp.lanes).getD 0

/-- A predicate register's bit in a lane; `p7` reads 1 (R43). -/
def Group.pred (g : Group) (n l : Nat) : Bool := if n = 7 then true else Word.has (Tab.read g.p n 0) l

/-- The guard of a lane (R62); for an instruction that has waited, as it was when it was issued (log 57, DESIGN CHOICE, unsafe). -/
def Ex.guard (x : Ex) (l : Nat) : Bool :=
  match x.sp.issued with
  | some i => Word.has i.guard l
  | none => x.g.pred (field x.mode 2 0) l != bit x.mode 3

/-- The guard of the leader lane. -/
def Ex.go (x : Ex) : Bool := x.guard x.lead

/-- The active lanes whose guard is true. -/
def Ex.acting (x : Ex) : Word := maskOf (fun l => Word.has x.active l && x.guard l)

/-- The bank register that a number names in a handler: 24-31 lie in the supervisor bank (R334). -/
def Ex.banked (x : Ex) (n : Nat) : Bool := x.sup && decide (24 ≤ n) && decide (n < 32)

/-- The registers that back a vector register: the supervisor bank, the contents of a released window against which an access that
began before completes (R144), or the group's. -/
def Ex.vbank (x : Ex) (n : Nat) : Tab Lanes :=
  if x.banked n then x.g.sv
  else match (if 32 ≤ n then Tab.find x.sp.ghost (n / 16 - 2) else none) with
    | some t => t
    | none => x.g.v

/-- A vector register's lanes. -/
def Ex.vreg (x : Ex) (n : Nat) : Lanes := Tab.read (x.vbank n) n []

/-- A scalar register. -/
def Ex.sreg (x : Ex) (n : Nat) : Word := Tab.read (if x.banked n then x.g.ss else x.g.s) n 0

/-- An operand's value in a lane (R43, R55). -/
def Ex.rd (x : Ex) (o : Operand) (l : Nat) : Word :=
  match o with
  | .vreg n => (x.vreg n.val).at l
  | .sreg n => x.sreg n.val
  | .latch n => match x.sp.latches[n.val]? with | some t => t.vals.at l | none => 0
  | .preg n => if x.g.pred n.val l then 1 else 0
  | .zero => 0
  | .one => 1
  | .ones => 0xFFFFFFFF
  | .lane => word l
  | .grp => word x.g.grp
  | .team => if x.grid.kernel.sentence || x.g.mcc then 0 else word x.g.team
  | .stage => word x.gang.stage
  | .slice => word (l / 4)
  | .reserved _ => 0

/-- A uniform operand's value. -/
def Ex.rdU (x : Ex) (o : Operand) : Word := x.rd o x.lead

/-- The register `j` places above an operand (R57). -/
def opPlus (o : Operand) (j : Nat) : Operand :=
  match o with
  | .vreg n => .ofNat ((n.val + j) % 64)
  | .sreg n => .ofNat (64 + (n.val + j) % 32)
  | o => o

/-- A 64-bit pair in a lane (R57). -/
def Ex.pair (x : Ex) (o : Operand) (l : Nat) : Nat := (x.rd o l).toNat + 2 ^ 32 * (x.rd (opPlus o 1) l).toNat

/-- A run of four scalar registers (R57). -/
def Ex.run4 (x : Ex) (o : Operand) : List Word := (List.range 4).map (fun j => x.rdU (opPlus o j))

/-- Whether an operand names the supervisor bank in a handler (R334). -/
def Ex.inBank (x : Ex) (o : Operand) : Bool :=
  match o with
  | .vreg n => x.banked n.val
  | .sreg n => x.banked n.val
  | _ => false

/-- Whether a register is absent after a travel (R290). -/
def Ex.isAbsent (x : Ex) (o : Operand) : Bool := !x.inBank o && x.g.absent.contains o.toNat

/-- Marks a register present (R290). -/
def Ex.present (x : Ex) (o : Operand) : Ex :=
  if x.inBank o then x else { x with g := { x.g with absent := x.g.absent.filter (· != o.toNat) } }

/-- Writes the lanes of `m` of a vector register; a register that was absent becomes present, its other lanes 0 (R290). -/
def Ex.wrV (x : Ex) (n : Nat) (m : Word) (f : Nat → Word) : Ex :=
  if m = 0 then x
  else
    let old : Lanes := if x.isAbsent (.ofNat n) then [] else x.vreg n
    let new := lanesOf (fun l => if Word.has m l then f l else old.at l)
    let x' := x.present (.ofNat n)
    if x.banked n then { x' with g := { x'.g with sv := Tab.put x'.g.sv n new } }
    else if 32 ≤ n ∧ (Tab.find x.sp.ghost (n / 16 - 2)).isSome then x
    else { x' with g := { x'.g with v := Tab.put x'.g.v n new,
                                    ueLane := x'.g.ueLane.filter (fun e => e.1 != n || !Word.has m e.2) } }

/-- Writes a scalar register. -/
def Ex.wrS (x : Ex) (n : Nat) (w : Word) : Ex :=
  let x' := x.present (.ofNat (64 + n))
  if x.banked n then { x' with g := { x'.g with ss := Tab.put x'.g.ss n w } }
  else { x' with g := { x'.g with s := Tab.put x'.g.s n w } }

/-- Writes the lanes of `m` of a predicate register; writes to `p7` are ignored (R43). -/
def Ex.wrP (x : Ex) (n : Nat) (m : Word) (f : Nat → Bool) : Ex :=
  if n = 7 ∨ m = 0 then x
  else
    let old := if x.isAbsent (.ofNat (100 + n)) then 0 else Tab.read x.g.p n 0
    let new := maskOf (fun l => if Word.has m l then f l else Word.has old l)
    let x' := x.present (.ofNat (100 + n))
    { x' with g := { x'.g with p := Tab.put x'.g.p n new } }

/-- Writes a scalar to a destination that is `zero` or a scalar register, unless `nw` is set (R54). -/
def Ex.wr (x : Ex) (nw : Bool) (d : Operand) (w : Word) : Ex :=
  if nw then x
  else
    match d with
    | .sreg n => x.wrS n.val w
    | _ => x

/-- Shifts the latches with a result as the new `L0` (R45). -/
def Ex.latch (x : Ex) (res : Nat → Word) : Ex :=
  { x with sp := { x.sp with latches := ⟨lanesOf res, false, 0⟩ :: x.sp.latches.take 3 } }

/-- A split whose instruction is over: nothing of its issue is left. -/
def Split.settled (p : Split) : Split := { p with ghost := [], issued := none }

/-- All four latches of a split stale (R46). -/
def Split.stale (p : Split) : Split := { p with latches := p.latches.map (fun t => { t with stale := true }) }

/-- Raises flags (R71). -/
def Ex.flag (x : Ex) (fl : Nat) : Ex := { x with g := { x.g with fpx := Fpx.raise x.g.fpx fl } }

/-- Moves the split to an address. -/
def Ex.goto (x : Ex) (pc : Word) : Ex := { x with sp := { x.sp with pc := pc } }

/-- Moves the split past the instruction. -/
def Ex.next (x : Ex) : Ex := x.goto (x.sp.pc + 4)

/-- Starts a wait; the instruction goes on once its condition holds, under the `MODE` and guard of its issue (R41). A fetch that waits
has issued nothing (R48). -/
def Ex.waitFor (x : Ex) (w : Wait) : Ex :=
  { x with sp := { x.sp with wait := some w, since := (x.s.cluster x.cluster).lclk,
                             issued := if w = .line then none else some ⟨word x.mode, maskOf x.guard⟩ } }

/-- The wait of a declared limit has ended: its count starts at 0 on the next execution (R314). -/
def Ex.doneWaiting (x : Ex) : Ex := { x with sp := { x.sp with wait := none, count := 0, ticket := none } }

/-- The party of a split that a group holds, whoever's turn it is; outside a handler of its group it has the user's `MODE`. -/
def Ex.of (s : State) (gid entry : Nat) : Option Ex :=
  (Ex.load { s with turn := .mate gid entry }).map (fun x => { x with s := s })

/-- The code the party runs: supervisor code in a handler, the `.mcc` routine, or the kernel's group code (R64). -/
def Ex.code (x : Ex) : List Byte :=
  if x.sup then x.ctx.code
  else if x.g.mcc then x.grid.kernel.mcc.getD []
  else x.grid.kernel.code

/-- Whether an address lies in the code the party runs (R64); one that is no multiple of 4 lies in none (R52, log 150, DESIGN CHOICE, unsafe). -/
def Ex.inCode (x : Ex) (pc : Word) : Bool := decide (pc.toNat + 4 ≤ x.code.length) && pc.toNat % 4 == 0

/-- A limit-table entry of the item at an address of the party's code (R301); none in supervisor code (R334). -/
def Ex.limit (x : Ex) (kind : Nat) (pc : Word) : Option Limit :=
  if x.sup then none
  else x.grid.kernel.limits.find? (fun e =>
    e.kind == kind && e.mcc == x.g.mcc && e.key == (if x.g.mcc then x.grid.kernel.mccBase else x.grid.kernel.base) + pc.toNat)

/-- The clause that holds an address, in a sentence-mode kernel (R275). -/
def Kernel.clauseAt (k : Kernel) (pc : Word) : Option Clause :=
  k.clauses.find? (fun c => decide (c.start ≤ k.base + pc.toNat) && decide (k.base + pc.toNat < c.start + c.len))

/-- The current clause of a group of a sentence, in user mode; none outside sentence mode. -/
def Ex.clause (x : Ex) : Option Clause := if x.sup || x.g.mcc then none else x.grid.kernel.clauseAt x.sp.pc

/-- The counter of free values moved on (log 2, DESIGN CHOICE, safe). -/
def State.draw (s : State) : State := { s with freeCtr := s.freeCtr + 1 }

/-- The slices that a split covers (R35). -/
def Split.covered (p : Split) : List Nat := (List.range 8).filter (fun j => (List.range 4).any (fun k => Word.has p.lanes (4 * j + k)))

/-- The key of a performance counter (R361). -/
def counterKey (part level unit ev : Nat) : Nat := ((part * 4 + level) * 1024 + unit) * 16 + ev

/-- Counts an event of a partition in units, by level and number (R361). -/
def State.countIn (s : State) (part : Nat) (units : List (Nat × Nat)) (ev n : Nat) : State :=
  { s with counters := units.foldl (fun t u =>
      let k := counterKey part u.1 u.2 ev
      Tab.put t k (Tab.read t k 0 + word n)) s.counters }

/-- The core of a party, as a counter has it: an MCC is a control core of its own, after the SIMT cores (R7, R361). -/
def coreUnit (gid : Nat) : Nat := if gidSlot gid = 64 then 576 + gidCluster gid else gidCore gid

/-- Counts an event of a partition at every level: core, if one is named, cluster, tile, device (R361). -/
def State.countAt (s : State) (part : Nat) (core : Option Nat) (cluster ev n : Nat) : State :=
  s.countIn part ((match core with | some q => [(0, q)] | none => []) ++ [(1, cluster), (2, cluster / 18), (3, 0)]) ev n

/-- Counts an event of a group or MCC. -/
def State.count (s : State) (part gid ev n : Nat) : State := s.countAt part (some (coreUnit gid)) (gidCluster gid) ev n

end Sys2Proof.Machine
end

