-- ==== Sys2Proof/Machine/Order.lean ====
section
/-! DEFINITION. Ordering: the vectors of a party, releases and acquires (R178-R186, R198), and the stamps and tests of
race detection (R197-R203). -/
namespace Sys2Proof.Machine

/-- The entry-wise maximum of two tables of counts. -/
def mergeTab (t u : Tab Nat) : Tab Nat := u.foldl (fun acc e => Tab.put acc e.1 (max (Tab.read acc e.1 0) e.2)) t

/-- The key of a slot's epoch or of its earlier releases: the party number of what occupies it. -/
def State.epochOf (s : State) (gid : Nat) : Nat := Tab.read s.epochs gid 0

/-- Raises an epoch by 1 (R198), and notes when it would pass 48 bits (R203). -/
def State.riseEpoch (s : State) (gid : Nat) : State :=
  let e := s.epochOf gid + 1
  { s with epochs := Tab.put s.epochs gid e, checked := s.checked || decide (2 ^ 48 ≤ e) }

/-- Raises a core count K(c) by 1 (R198, R203). -/
def State.riseK (s : State) (c : Nat) : State :=
  let v := s.cluster c
  { s.setCluster c { v with kcount := v.kcount + 1 } with checked := s.checked || decide (2 ^ 48 ≤ v.kcount + 1) }

/-- Raises an engine count N(k) by 1 (R198, R203). -/
def State.riseN (s : State) (k : Nat) : State :=
  let v := s.engine k
  { s.setEngine k { v with count := v.count + 1 } with checked := s.checked || decide (2 ^ 48 ≤ v.count + 1) }

/-- A party outside the module, which only `sys` scope contains (R178, R179). -/
def Party.outside : Party → Bool
  | .host | .peer _ | .cxl => true
  | .core _ | .engine _ => false

/-- Whether a scope used by party `p` (of team `tp`, home cluster `hp`) contains party `q` (R179). -/
def scopeHas (scope : Nat) (p : Party) (tp hp : Nat) (q : Party) (tq hq : Nat) : Bool :=
  match scope with
  | 0 =>
    match p, q with
    | .core a, .core b => (a == b) || (tp == tq && a % 65 != 64 && b % 65 != 64)
    | .engine a, .engine b => (a == b) || (tp == tq)
    | .core a, .engine _ => tp == tq && a % 65 != 64
    | .engine _, .core b => tp == tq && b % 65 != 64
    | _, _ => false
  | 1 => !p.outside && !q.outside && hp == hq
  | 2 => !p.outside && !q.outside
  | _ => true

/-- What an acquire by a party with vectors `v` at a scope takes of a release, when the two pair (R179, R184, R198). -/
def acquireOne (v : Vecs) (p : Party) (team scope : Nat) (r : Release) : Vecs :=
  if scopeHas scope p team v.home r.party r.team r.vecs.home && scopeHas r.scope r.party r.team r.vecs.home p team v.home then
    { v with l := if v.home = r.vecs.home then mergeTab v.l r.vecs.l else v.l, x := mergeTab v.x r.vecs.x,
             e := mergeTab v.e r.vecs.e }
  else v

/-- An acquire of several releases. -/
def acquireAll (v : Vecs) (p : Party) (team scope : Nat) (rs : List Release) : Vecs :=
  rs.foldl (fun acc r => acquireOne acc p team scope r) v

/-- The merge a slot's earlier releases give whoever comes into it, whatever their scope (R183, R198). -/
def mergeRelease (v : Vecs) (r : Release) : Vecs :=
  { v with l := if v.home = r.vecs.home then mergeTab v.l r.vecs.l else v.l, x := mergeTab v.x r.vecs.x,
           e := mergeTab v.e r.vecs.e }

/-- Merges all releases of a list. -/
def mergeReleases (v : Vecs) (rs : List Release) : Vecs := rs.foldl mergeRelease v

/-- What a group or MCC with vectors `v` publishes at a release: its own slot's epoch, and at `dev` or `sys` its
cluster's core count, before they rise (R198). -/
def publish (s : State) (gid : Nat) (scope : Nat) (v : Vecs) : Vecs :=
  let c := gidCluster gid
  { v with home := c, l := Tab.put v.l (gidSlot gid) (s.epochOf gid),
           x := if 2 ≤ scope then Tab.put v.x c (s.cluster c).kcount else v.x }

/-- Keeps a release among those a later group in the slot acquires (R183, R200): one merged record. -/
def State.noteSlot (s : State) (gid : Nat) (r : Release) : State :=
  let old := Tab.read s.slotRel gid []
  let m := mergeReleases r.vecs old
  { s with slotRel := Tab.put s.slotRel gid [{ r with vecs := m }] }

/-- A release by a group or MCC with vectors `v` (R183, R198). -/
def releaseBy (s : State) (gid team scope : Nat) (v : Vecs) : State × Release :=
  let r : Release := { party := .core gid, scope := scope, team := team, vecs := publish s gid scope v }
  let s1 := (s.noteSlot gid r).riseEpoch gid
  (if 2 ≤ scope then s1.riseK (gidCluster gid) else s1, r)

/-- The releases that pair with an acquire that reads a location, barrier or tray (R184). -/
def State.relsAt (s : State) (loc : Nat) : List Release := Tab.read s.rels loc []

/-- Adds a release to a location's release sequence, or to a tray's or barrier's releases (R184). -/
def State.addRel (s : State) (loc : Nat) (r : Release) : State :=
  { s with rels := Tab.put s.rels loc (r :: s.relsAt loc) }

/-- A write other than a read-modify-write ends the release sequences of the words it touches (R184). -/
def State.endRels (s : State) (loc n : Nat) : State :=
  if s.rels.isEmpty then s
  else { s with rels := s.rels.filter (fun e => e.1 + 4 ≤ loc || loc + n ≤ e.1) }

/-- The party of a stamp test: partition, home cluster, slot (none for an engine) and vectors (R201). -/
structure Tester where
  part : Nat
  home : Nat
  slot : Option Nat
  stamp : Stamper
  vecs : Vecs
deriving DecidableEq, Repr

/-- A group or MCC as the party of an access. -/
def testerCore (s : State) (part gid : Nat) (v : Vecs) : Tester :=
  let c := gidCluster gid
  { part := part, home := c, slot := some (gidSlot gid), vecs := v,
    stamp := .core part c (gidSlot gid) (s.epochOf gid) (s.cluster c).kcount }

/-- An engine as the party of an access. -/
def testerEngine (s : State) (part home k : Nat) (v : Vecs) : Tester :=
  { part := part, home := home, slot := none, vecs := v, stamp := .engine part k (s.engine k).count }

/-- Whether a vector holds an entry of at least `n`; an entry that nothing has been merged into is 0, below every count (R198; log 14, DESIGN CHOICE, unsafe). -/
def covers (t : Tab Nat) (k n : Nat) : Bool := decide (n ≤ Tab.read t k 0)

/-- The core count of a `com` update that has not been performed: no vector covers it, since no release was made after the update was
performed (R186 item 3, R192). -/
def pendingCount : Nat := 2 ^ 48

/-- A stamp entry of an update that has not been performed yet (R192). -/
def Stamper.pending : Stamper → Stamper
  | .core p c s e _ => .core p c s e pendingCount
  | st => st

/-- Whether the party is engine `k`. An engine's own earlier accesses are ordered before its later ones (R195). -/
def Tester.isEngine (t : Tester) (k : Nat) : Bool :=
  match t.stamp with
  | .engine _ j _ => j == k
  | _ => false

/-- Whether what a stamp entry records is ordered before the party's access (R195, R201). -/
def Tester.ordered (t : Tester) : Stamper → Bool
  | .none => true
  | .engine p k n => p != t.part || covers t.vecs.e k n || t.isEngine k
  | .core p c sl ep k =>
    p != t.part || covers t.vecs.x c k || (c == t.home && (t.slot == some sl || covers t.vecs.l sl ep))

/-- How an access takes part in race detection (R191, R197); `atomicRead` is an atomic that performs and writes nothing (R194, R236). -/
inductive AccKind where
  | read | write | atomic | atomicRead | combining
deriving DecidableEq, Repr

/-- A granule with no stamp. -/
def Stamp.fresh : Stamp := { writer := .none, watomic := false, set := [], overflow := false }

/-- The stamp of the granule that holds a location. -/
def State.stampAt (s : State) (loc : Nat) : Stamp := Tab.read s.stamps (loc / 32) .fresh

/-- The test of one granule; `checked` says whether it is checked for this access (R177, R192, R201). -/
def Stamp.test (e : Stamp) (t : Tester) (k : AccKind) (checked : Bool) : Option Cause :=
  let un := fun (m : Mark) => e.set.any (fun p => p.2 == m && !t.ordered p.1)
  let wun := !t.ordered e.writer
  match k with
  | .combining => none
  | .read =>
    if un .combining then some .comMixed
    else if checked && (wun || un .atomic) then some .raceWR
    else none
  | .write =>
    if un .combining then some .comMixed
    else if checked && wun then some .raceWW
    else if checked && (un .read || un .atomic) then some .raceRW
    else none
  | .atomic =>
    if checked && wun && !e.watomic then some .raceWW
    else if checked && un .read then some .raceRW
    else none
  | .atomicRead => if checked && wun && !e.watomic then some .raceWR else none

/-- Two entries of one slot of a cluster, or of one engine. -/
def Stamper.sameUnit : Stamper → Stamper → Bool
  | .core p c s _ _, .core q d t _ _ => p == q && c == d && s == t
  | .engine p k _, .engine q l _ => p == q && k == l
  | _, _ => false

/-- The maximum of two entries of one unit, and of the core counts of two entries of one cluster (R199). -/
def Stamper.maxWith (a b : Stamper) : Stamper :=
  match a, b with
  | .core p c s ep k, .core q d t ep' k' =>
    if p == q && c == d then .core p c s (if s == t then max ep ep' else ep) (max k k') else a
  | .engine p k n, .engine q l n' => if p == q && k == l then .engine p k (max n n') else a
  | _, _ => a

/-- An entry taken into a set that is kept as the entry-wise maximum over its entries of one mark, per cluster and slot, per cluster
and per engine (R199, log 122, DEDUCED, unsafe). -/
def joinEntry (set : List (Stamper × Mark)) (e : Stamper × Mark) : List (Stamper × Mark) :=
  let new := set.foldl (fun (a : Stamper) p => if p.2 == e.2 then a.maxWith p.1 else a) e.1
  (set.filter (fun p => p.2 != e.2 || !p.1.sameUnit new)).map (fun p => if p.2 == e.2 then (p.1.maxWith new, p.2) else p) ++ [(new, e.2)]

/-- The stamp with an entry added: those ordered before it with the same mark drop out; a third entry makes the set overflow (R199). -/
def Stamp.add (e : Stamp) (t : Tester) (m : Mark) : Stamp :=
  let kept := e.set.filter (fun p => p.2 != m || !t.ordered p.1)
  if e.overflow then { e with set := joinEntry kept (t.stamp, m) }
  else if kept.length < 2 then { e with set := kept ++ [(t.stamp, m)] }
  else { e with set := (kept ++ [(t.stamp, m)]).foldl joinEntry [], overflow := true }

/-- The stamp after a write that performs: it sets the writer and clears the set, except for combining entries (R199). -/
def Stamp.written (e : Stamp) (t : Tester) (atomic : Bool) : Stamp :=
  let kept := e.set.filter (fun p => p.2 == .combining)
  { writer := t.stamp, watomic := atomic, set := kept, overflow := e.overflow && decide (2 ≤ kept.length) }

/-- The stamp after an access that performs (R177, R192, R199). -/
def Stamp.record (e : Stamp) (t : Tester) (k : AccKind) (checked : Bool) : Stamp :=
  match k with
  | .combining => e.add t .combining
  | .read =>
    let e1 := { e with set := e.set.filter (fun p => p.2 != .combining) }
    if checked then e1.add t .read else e1
  | .write =>
    let e1 := { e with set := e.set.filter (fun p => p.2 != .combining) }
    if checked then e1.written t false else e1
  | .atomic => if checked then (e.written t true).add t .atomic else e
  | .atomicRead => if checked then e.add t .atomic else e

/-- The granules of `n` bytes from a location. -/
def granules (loc n : Nat) : List Nat := (List.range ((loc + n - 1) / 32 + 1 - loc / 32)).map (fun j => (loc / 32 + j) * 32)

/-- Records an access in the stamps of its granules. -/
def State.stampAccess (s : State) (t : Tester) (k : AccKind) (checked : Bool) (loc n : Nat) : State :=
  (granules loc n).foldl (fun s g =>
    let e := s.stampAt g
    let e' := e.record t k checked
    if e' = e then s else { s with stamps := Tab.put s.stamps (g / 32) e' }) s

/-- The first race that an access of `n` bytes finds. -/
def State.raceTest (s : State) (t : Tester) (k : AccKind) (checked : Bool) (loc n : Nat) : Option Cause :=
  (granules loc n).findSome? (fun g => (s.stampAt g).test t k checked)

/-- Stamps cleared to kind none (R200). -/
def State.clearStamps (s : State) (loc n : Nat) : State :=
  { s with stamps := s.stamps.filter (fun e => e.1 * 32 + 32 ≤ loc || loc + n ≤ e.1 * 32) }

end Sys2Proof.Machine
end

