-- ==== Sys2Proof/Machine/Space.lean ====
section
/-! DEFINITION. The memories behind one list of cells: every location is a number that names its space and its address
(R145-R151, R386), and the construction map as the device and its programs read it (R12). -/
namespace Sys2Proof.Machine

/-- A byte of local HBM by physical address. -/
def hbmLoc (a : Nat) : Nat := a % 2 ^ 64
/-- A byte of CXL memory by host-physical address. -/
def cxlLoc (a : Nat) : Nat := 2 ^ 72 + a % 2 ^ 64
/-- A byte of host memory by I/O virtual address; the IOMMU is the host's (log 13, DESIGN CHOICE, unsafe). -/
def hostLoc (a : Nat) : Nat := 2 * 2 ^ 72 + a % 2 ^ 64
/-- A byte of a peer's memory by node and physical address. -/
def peerLoc (node a : Nat) : Nat := 3 * 2 ^ 72 + node % 256 * 2 ^ 64 + a % 2 ^ 64
/-- The row of a core's scratchpad that holds its byte `p`, and the bank (R147): each row spans all 64 banks once. Which accesses meet in a
bank costs time only. -/
def spadRow (p : Nat) : Nat := p / 2048
def spadBank (p : Nat) : Nat := p / 32 % 64
/-- A byte of a core's scratchpad; a row's bytes stay where they are when the row is replaced under R15 (R147). -/
def spadLoc (core b : Nat) : Nat := 4 * 2 ^ 72 + core * 2 ^ 22 + b % 2 ^ 22

/-- Where the bytes of a suspended team's allotment are kept (R50). -/
def parkLoc (gang team : Nat) : Nat := 6 * 2 ^ 72 + (gang * 256 + team) % 2 ^ 44 * 2 ^ 22

/-- The stack that a local HBM address lies on, if it names memory of a built stack (R386). -/
def stackOf (a : Nat) : Option Nat := if a < 8 * 2 ^ 37 ∧ a % 2 ^ 37 < 80 * 2 ^ 30 then some (a / 2 ^ 37) else none

/-- Whether a stack's live bit is set (R12). -/
def State.stackLive (s : State) (t : Nat) : Bool := bit (s.mapWord (0x1000 + 8 * t + 2)) 0

/-- Whether a local HBM address names memory of a live stack (R386). -/
def State.hbmOk (s : State) (a : Nat) : Bool :=
  match stackOf a with
  | some t => s.stackLive t
  | none => false

def State.tileLive (s : State) (t : Nat) : Bool := bit (s.mapWord 0x0001) t
def State.clusterWord (s : State) (c : Nat) : Nat := s.mapWord (0x2000 + 8 * c)
def State.clusterLive (s : State) (c : Nat) : Bool :=
  s.tileLive (c / 18) && bit (s.mapWord (0x1000 + 8 * (c / 18))) (c % 18)
def State.coreLive (s : State) (q : Nat) : Bool := s.clusterLive (q / 4) && bit (s.clusterWord (q / 4)) (q % 4)
def State.mccLive (s : State) (c : Nat) : Bool := s.clusterLive c && bit (s.clusterWord c) 8
def State.liveBands (s : State) (c : Nat) : Nat := field (s.clusterWord c) 7 4
def State.engineLive (s : State) (k : Nat) : Bool := bit (s.mapWord (0x1000 + 8 * (k / 16) + 3)) (k % 16)
def State.peerState (s : State) (n : Nat) : Nat := field (s.mapWord (0x6000 + n)) 1 0

/-- Whether an index of the map is listed in R12. -/
def mapListed (k : Nat) : Bool :=
  decide (k < 4)
  || (decide (0x1000 ≤ k) && decide (k < 0x1000 + 64) && decide (k % 8 < 5))
  || (decide (0x2000 ≤ k) && decide (k < 0x2000 + 8 * 144) && decide (k % 8 < 2))
  || (decide (0x3000 ≤ k) && decide (k < 0x3000 + 96))
  || (decide (0x3100 ≤ k) && decide (k < 0x3100 + 40))
  || (decide (0x4000 ≤ k) && decide (k < 0x4000 + 15))
  || (decide (0x5000 ≤ k) && decide (k < 0x5000 + 2 * 576))
  || (decide (0x6000 ≤ k) && decide (k < 0x6000 + 256))

/-- Word `k` of the map as it stands; word 3 is what the reading context last acknowledged (R12, R14, R328). -/
def State.readMap (s : State) (ack k : Nat) : Word :=
  if k = 0 then word s.mapv
  else if k = 3 then word ack
  else if mapListed k then Tab.read s.map k (s.mapBlank k) else 0

/-- A register of a partition's ranges; there are eight partitions (R359). -/
def State.partReg (s : State) (p off : Nat) : Nat :=
  if 8 ≤ p then 0 else (Tab.read s.regs (0x400 + 16 * p + off) (if off = 8 then 1 else 0)).toNat

def State.slot0 (s : State) (p : Nat) : Nat := field (s.partReg p 0) 3 0
def State.slotCount (s : State) (p : Nat) : Nat := field (s.partReg p 0) 8 4
def State.xb0 (s : State) (p : Nat) : Nat := field (s.partReg p 0) 13 9
def State.xbCount (s : State) (p : Nat) : Nat := field (s.partReg p 0) 19 14
def State.partRow0 (s : State) (p : Nat) : Nat := field (s.partReg p 4) 10 0
def State.partRows (s : State) (p : Nat) : Nat := field (s.partReg p 4) 22 12
def State.weight (s : State) (p : Nat) : Nat := field (s.partReg p 8) 3 0
def State.lend (s : State) (p : Nat) : Bool := bit (s.partReg p 8) 4
def State.holds (s : State) (p q : Nat) : Bool := bit (s.partReg p 12) q

/-- The reset value of a hub register that is RW (R20, R158, R359, R363). -/
def hubReset (off : Nat) : Word :=
  if off = 0x10C then 4096
  else if off = 0x4A4 then 0x10000000
  else if off = 0x500 then 0x10
  else if 0x400 ≤ off ∧ off < 0x480 ∧ off % 16 = 8 then 1
  else 0

/-- A hub register that reads as it was last written. -/
def State.hubReg (s : State) (off : Nat) : Word := Tab.read s.regs off (hubReset off)

/-- A word read from memory at a location. -/
def State.word32 (s : State) (loc : Nat) : Nat := natLE (Memory.load s.mem loc 4)

/-- Bytes written to memory; the poison of each goes (R350). -/
def State.storeBytes (s : State) (loc : Nat) (bs : List Byte) : State :=
  { s with mem := Memory.store s.mem loc bs, poison := s.poison.filter (fun a => a < loc || loc + bs.length ≤ a) }

/-- Zeroes `n` bytes of memory. -/
def State.zeroBytes (s : State) (loc n : Nat) : State :=
  { s with mem := Memory.zero s.mem loc n, poison := s.poison.filter (fun a => a < loc || loc + n ≤ a) }

/-- Whether some of `n` bytes is poisoned (R350). -/
def State.poisoned (s : State) (loc n : Nat) : Bool := s.poison.any (fun a => decide (loc ≤ a) && decide (a < loc + n))

/-- Forgets what the device keeps of granules outside memory: sync typing, tray marks, barrier marks, fills, stamps and
releases of `n` bytes from a location (R47, R200, R217, R221). -/
def State.forget (s : State) (loc n : Nat) : State :=
  let out := fun (a : Nat) => a < loc || loc + n ≤ a
  { s.clearStamps loc n with
    sync := s.sync.filter (fun a => out (a * 32)), trays := s.trays.filter (fun a => out a),
    bars := s.bars.filter (fun e => out e.1), fills := s.fills.filter (fun e => out e.1),
    proofed := s.proofed.filter (fun e => out e.1), vetoed := s.vetoed.filter (fun e => out e.1),
    checkedAreas := s.checkedAreas.filter (fun e => out e.1), rels := s.rels.filter (fun e => out (e.1 % 2 ^ 90)) }

/-- Whether an entry of a level (0 the lowest) maps something: a pointer at level 1, a leaf above level 3, a tile leaf at another level than 2
or with a bad descriptor `d`, and a leaf of a type that admits none of its size, map nothing (R150, R151, R153). -/
def entryMaps (lvl e d : Nat) : Bool :=
  let ty := field e 4 2
  match field e 1 0 with
  | 0 => false
  | 1 => decide (lvl ≠ 0)
  | 2 => decide (lvl ≤ 2) && (decide (ty < 4) || lvl == 0) && ty != 7
  | _ => lvl == 1 && decide (ty < 4) && decide (0 < field d 17 0) && decide (field d 17 0 ≤ field d 57 18)

/-- The entries in the tables below a table that map something, as level (0 the lowest), location and value (R149, R150): only what
memory lists can be present. -/
def State.entriesBelow (s : State) : Nat → Nat → List (Nat × Nat × Nat)
  | 0, _ => []
  | lvl + 1, b =>
    let cells := s.mem.filter (fun c => decide (hbmLoc b ≤ c.1) && decide (c.1 < hbmLoc b + 4096))
    let locs := (cells.map (fun c => c.1 / 8 * 8)).eraseDups
    locs.flatMap (fun loc =>
      let e := natLE (Memory.load s.mem loc 8)
      let odd := loc / 8 % 2 == 1
      let descriptor := lvl == 1 && odd && natLE (Memory.load s.mem (loc - 8) 8) % 4 == 3
      if descriptor || (odd && field e 1 0 == 3) || !entryMaps lvl e (natLE (Memory.load s.mem (loc + 8) 8)) then []
      else (lvl, loc, e) :: (if field e 1 0 = 1 then s.entriesBelow lvl (field e 51 12 * 2 ^ 12) else []))

/-- The ranges of physical addresses that a leaf maps, by first address and length: one, or one for each row of a tile leaf with
descriptor `d` (R150, R153). -/
def leafRanges (lvl e d : Nat) : List (Nat × Nat) :=
  let base := field e 51 12 * 2 ^ 12
  let size := 2 ^ (12 + 9 * lvl)
  if field e 1 0 = 3 then
    let row := 16 * field d 17 0
    (List.range (ceilDiv (2 ^ 21) row)).map (fun r => (base + r * (16 * field d 57 18), min row (2 ^ 21 - r * row)))
  else [(base / size * size, size)]

/-- The leaves that a context's tables hold (R150). -/
def State.leaves (s : State) (ctx : Nat) : List (Nat × Nat × Nat) :=
  (s.entriesBelow 5 (s.ctx ctx).root).filter (fun e => field e.2.2 1 0 == 2 || field e.2.2 1 0 == 3)

end Sys2Proof.Machine
end

