-- ==== Sys2Proof/Machine/Boxes.lean ====
section
/-! DEFINITION. Tensor-table entries, where their elements lie (R95, R96, R159-R164), and the boxes of copies and stream commands
(R232, R235). -/
namespace Sys2Proof.Machine

/-- A tensor-table entry, its fields drawn from the words that `TSET` wrote (R159, R161, R230). -/
structure Tensor where
  fmt : Nat
  cls : Nat
  ext0 : Nat
  ext1 : Nat
  ext2 : Nat
  ext3 : Nat
  base : Nat
  scale : Nat
  sbase : Nat
  perm : Nat
  rep : Bool
  stride1 : Nat
  stride2 : Nat
  stride3 : Nat
deriving DecidableEq, Repr

/-- The fields of an entry's words. -/
def tensorOf (ws : List Word) : Tensor :=
  let w := fun (j : Nat) => (ws.getD j 0).toNat
  let hi := fun (a b c : Nat) => field a 31 24 + field b 31 24 * 2 ^ 8 + field c 31 24 * 2 ^ 16
  { fmt := field (w 3) 11 8, cls := field (w 3) 13 12, ext0 := field (w 0) 23 0, ext1 := field (w 1) 23 0, ext2 := field (w 2) 23 0,
    ext3 := hi (w 0) (w 1) (w 2), base := w 4 + 2 ^ 32 * w 5, scale := w 6 + 2 ^ 32 * w 7, sbase := field (w 8) 17 0,
    perm := field (w 8) 21 18, rep := bit (w 8) 22, stride1 := field (w 9) 23 0, stride2 := field (w 10) 23 0,
    stride3 := hi (w 8) (w 9) (w 10) }

/-- The bits of an element of a format code (R95). -/
def fmtBits (f : Nat) : Nat := [32, 16, 16, 8, 8, 4, 8, 8, 8, 16, 16, 32, 32, 8, 8].getD f 8

/-- The formats with block scales (R95). -/
def fmtScaled (f : Nat) : Bool := [5, 6, 13, 14].contains f

/-- A zero element of a format (R86, R164). -/
def fmtZero (f : Nat) : Nat := if f = 6 then 0x77 else 0

/-- The bytes of an access to an element. -/
def fmtBytes (f : Nat) : Nat := max 1 (fmtBits f / 8)

/-- An entry that may be used: no reserved format or class, and perm 0 in class 1 (R159, R163). -/
def Tensor.usable (t : Tensor) : Bool := t.fmt != 15 && decide (t.cls < 2) && (t.cls == 0 || t.perm == 0)

/-- Coordinates of an element. -/
structure Coord where
  x : Int
  y : Int
  z : Int
  w : Int
deriving DecidableEq, Repr

/-- A coordinate inside an extent. -/
def inExt (c : Int) (n : Nat) : Bool := decide (0 ≤ c) && decide (c < n)

/-- Whether an element lies inside the extents. -/
def Tensor.has (t : Tensor) (c : Coord) : Bool := inExt c.x t.ext0 && inExt c.y t.ext1 && inExt c.z t.ext2 && inExt c.w t.ext3

/-- The mirror of R164. -/
def mirror (rep : Bool) (c : Int) (n : Nat) : Nat :=
  if inExt c n then c.toNat
  else if rep then
    let t := (c % (2 * n : Int)).toNat
    if t < n then t else 2 * n - 1 - t
  else if n = 1 then 0
  else
    let t := (c % (2 * n - 2 : Int)).toNat
    if t < n then t else 2 * n - 2 - t

/-- The bank permutation (R163). -/
def permute (perm a : Nat) : Nat :=
  let r := spadRow a
  let x := if perm = 0 then 0
    else if perm ≤ 6 then r % 2 ^ perm
    else if perm ≤ 12 then r % 2 ^ (perm - 6) * 2 ^ (12 - perm)
    else 2 ^ (perm - 12) * (r % 2 ^ (18 - perm))
  r * 2048 + (spadBank a ^^^ x) * 32 + a % 32

/-- The address of an element whose coordinates are inside the extents, before permutation (R162). -/
def Tensor.addr (t : Tensor) (x y z w : Nat) : Nat :=
  let off := x * fmtBits t.fmt / 8 + 16 * (y * t.stride1 + z * t.stride2 + w * t.stride3)
  if t.cls = 0 then t.sbase * 16 + off else (t.base + off) % 2 ^ 64

/-- The address of an element's scale byte, before permutation (R96). -/
def Tensor.scaleAddr (t : Tensor) (x y z w : Nat) : Nat :=
  let a := t.scale + x / 32 + ceilDiv t.ext0 32 * (y + t.ext1 * (z + t.ext2 * w))
  if t.cls = 0 then a else a % 2 ^ 64

/-- Where an address of the entry lies: its place after the permutation (R96, R163). -/
def Tensor.place (t : Tensor) (a : Nat) : Nat := if t.cls = 0 then permute t.perm a else a

/-- A box: its extents (R232). -/
structure Box where
  b0 : Nat
  b1 : Nat
  b2 : Nat
  b3 : Nat
deriving DecidableEq, Repr

/-- The extents of a box word. -/
def boxOf (w : Word) : Box :=
  ⟨field w.toNat 7 0 + 1, field w.toNat 15 8 + 1, field w.toNat 23 16 + 1, field w.toNat 31 24 + 1⟩

/-- The rows of a box. -/
def Box.rows (b : Box) : Nat := b.b1 * b.b2 * b.b3

/-- Element j of row r of a box from an origin (R234). -/
def Box.coord (b : Box) (o : Coord) (r j : Nat) : Coord :=
  ⟨o.x + j, o.y + (r % b.b1 : Nat), o.z + (r / b.b1 % b.b2 : Nat), o.w + (r / (b.b1 * b.b2) : Nat)⟩

/-- The layout of a box in a slot (R235): bytes of the elements, where the scale bytes start, scale bytes of a row, and all
bytes. -/
def Box.elemBytes (b : Box) (f : Nat) : Nat := ceilDiv (b.b0 * b.rows * fmtBits f) 8
def Box.scaleAt (b : Box) (f : Nat) : Nat := ceilDiv (b.elemBytes f) 64 * 64
def Box.blocks (b : Box) : Nat := ceilDiv b.b0 32
def Box.bytes (b : Box) (f : Nat) : Nat :=
  if fmtScaled f then b.scaleAt f + b.rows * b.blocks else b.elemBytes f

/-- Signed coordinates from four words. -/
def coordOf (ws : List Word) : Coord :=
  ⟨(ws.getD 0 0).toInt, (ws.getD 1 0).toInt, (ws.getD 2 0).toInt, (ws.getD 3 0).toInt⟩

end Sys2Proof.Machine
end

