-- ==== Sys2Proof/Machine/Float.lean ====
section
/-! DEFINITION. Number formats and rounding (R79-R92): exact decoding of every format into a value, one rounding of an
exact magnitude n / d to a format, and the conversions. -/
namespace Sys2Proof.Machine

/-- A floating-point format of R81. -/
structure Fmt where
  w : Nat
  ebits : Nat
  fbits : Nat
  bias : Nat
  /-- the bits of the largest finite value -/
  maxFin : Nat
  /-- the bits of +infinity, for a format that has one -/
  inf : Option Nat
  /-- what a NaN becomes in the format (R81, R90) -/
  nan : Nat
deriving DecidableEq, Repr

def Fmt.f32 : Fmt := ⟨32, 8, 23, 127, 0x7F7FFFFF, some 0x7F800000, 0x7FC00000⟩
def Fmt.bf16 : Fmt := ⟨16, 8, 7, 127, 0x7F7F, some 0x7F80, 0x7FC0⟩
def Fmt.f16 : Fmt := ⟨16, 5, 10, 15, 0x7BFF, some 0x7C00, 0x7E00⟩
def Fmt.e5m2 : Fmt := ⟨8, 5, 2, 15, 0x7B, some 0x7C, 0x7F⟩
def Fmt.e4m3 : Fmt := ⟨8, 4, 3, 7, 0x7E, none, 0x7F⟩
def Fmt.e2m1 : Fmt := ⟨4, 2, 1, 1, 0x7, none, 0⟩

/-- An element's value. -/
inductive Num where
  | nan (signalling : Bool)
  | inf (neg : Bool)
  /-- (-1)^neg * m * 2^e -/
  | fin (neg : Bool) (m : Nat) (e : Int)
deriving DecidableEq, Repr

/-- The value of the bits `x` in a format (R81, R84). -/
def Fmt.decode (f : Fmt) (x : Nat) : Num :=
  let neg := bit x (f.w - 1)
  let e := x / 2 ^ f.fbits % 2 ^ f.ebits
  let m := x % 2 ^ f.fbits
  if f.inf.isSome && e == 2 ^ f.ebits - 1 then
    (if m = 0 then .inf neg else .nan (!bit m (f.fbits - 1)))
  else if f == .e4m3 && e == 15 && m == 7 then .nan false
  else if e = 0 then .fin neg m (1 - (f.bias : Int) - f.fbits)
  else .fin neg (2 ^ f.fbits + m) ((e : Int) - f.bias - f.fbits)

/-- A magnitude m * 2^e as a ratio. -/
def ratio (m : Nat) (e : Int) : Nat × Nat :=
  match e with
  | .ofNat k => (m * 2 ^ k, 1)
  | .negSucc k => (m, 2 ^ (k + 1))

/-- How a result is rounded: `MODE.round`, `MODE.sat`, and under `sto` the 16-bit draw (R88, R89). -/
structure Rnd where
  mode : Nat
  sat : Bool
  draw : Nat
deriving DecidableEq, Repr

/-- Round to nearest, ties to even, no saturation. -/
def Rnd.rne : Rnd := ⟨0, false, 0⟩

/-- Whether the multiple `k` below an inexact magnitude gives way to the one above it, when `r / d` of the spacing lies
between them (R88, R89). -/
def Rnd.up (r : Rnd) (neg : Bool) (k rem d : Nat) : Bool :=
  match r.mode with
  | 0 => decide (d < 2 * rem) || (decide (d = 2 * rem) && k % 2 == 1)
  | 1 => false
  | 2 => !neg
  | 3 => neg
  | 4 => decide (d ≤ 2 * rem)
  | _ => decide (65536 * d ≤ 65536 * rem + r.draw * d)

/-- The magnitude n / d brought to a multiple of 2^q, and whether that was inexact (R88). -/
def roundTo (r : Rnd) (neg : Bool) (n d : Nat) (q : Int) : Nat × Bool :=
  let s := ratio 1 q
  let n' := n * s.2
  let d' := d * s.1
  let k := n' / d'
  let rem := n' % d'
  if rem = 0 then (k, false) else (k + b2n (r.up neg k rem d'), true)

/-- The largest e with 2^e ≤ n / d, for positive n and d. -/
def binade (n d : Nat) : Int :=
  let e : Int := (bitLength n : Int) - bitLength d
  let s := ratio 1 e
  if d * s.1 ≤ n * s.2 then e else e - 1

/-- The sign bit of a format. -/
def Fmt.sign (f : Fmt) (neg : Bool) : Nat := b2n neg * 2 ^ (f.w - 1)

/-- What an overflow gives (R90), also that of an integer, in the row of the destination (R92, log 153, DEDUCED, unsafe). -/
def Fmt.overflow (f : Fmt) (r : Rnd) (neg : Bool) : Nat × Nat :=
  match f.inf with
  | none => (f.sign neg + f.maxFin, Fpx.of ||| Fpx.nx ||| Fpx.satd)
  | some i =>
    if r.sat then (f.sign neg + f.maxFin, Fpx.of ||| Fpx.nx ||| Fpx.satd)
    else if r.mode = 1 || (r.mode == 2 && neg) || (r.mode == 3 && !neg) then (f.sign neg + f.maxFin, Fpx.of ||| Fpx.nx)
    else (f.sign neg + i, Fpx.of ||| Fpx.nx)

/-- The format's largest finite magnitude, as a ratio. -/
def Fmt.maxRatio (f : Fmt) : Nat × Nat :=
  match f.decode f.maxFin with
  | .fin _ m e => ratio m e
  | _ => (0, 1)

/-- The bits of the magnitude k * 2^q, which the format represents or which is one step above a binade (R81). -/
def Fmt.pack (f : Fmt) (k : Nat) (q : Int) : Nat :=
  if k < 2 ^ f.fbits then k
  else if k < 2 ^ (f.fbits + 1) then (q + f.fbits + f.bias).toNat * 2 ^ f.fbits + (k - 2 ^ f.fbits)
  else (q + 1 + f.fbits + f.bias).toNat * 2 ^ f.fbits + (k / 2 - 2 ^ f.fbits)

/-- The exact value (-1)^neg * n / d rounded once to the format, with its flags; tininess is found after rounding, as if
the exponent had no bound (R83, R88-R91). -/
def Fmt.round (f : Fmt) (r : Rnd) (neg : Bool) (n d : Nat) : Nat × Nat :=
  if n = 0 then (f.sign neg, 0)
  else
    let e := binade n d
    let emin : Int := 1 - (f.bias : Int)
    let q : Int := max e emin - f.fbits
    let kx := roundTo r neg n d q
    let mr := f.maxRatio
    let kr := ratio kx.1 q
    if mr.1 * kr.2 < kr.1 * mr.2 then f.overflow r neg
    else
      let tiny := kx.2 && decide (e < emin) && decide ((roundTo r neg n d (e - f.fbits)).1 < 2 ^ (emin - e + f.fbits).toNat)
      (f.sign neg + f.pack kx.1 q, Fpx.iff kx.2 Fpx.nx ||| Fpx.iff tiny Fpx.uf)

/-- A value brought into a format (R84, R90, R92). -/
def Fmt.encode (f : Fmt) (r : Rnd) : Num → Nat × Nat
  | .nan s => if f == .e2m1 then (0, Fpx.nv) else (f.nan, Fpx.iff s Fpx.nv)
  | .inf neg =>
    match f.inf with
    | some i => (f.sign neg + i, 0)
    | none => f.overflow r neg
  | .fin neg m e =>
    let x := ratio m e
    f.round r neg x.1 x.2

/-- The range of an integer element (R87). -/
def intRange (w : Nat) (sgn : Bool) : Int × Int :=
  if sgn then (-(2 ^ (w - 1) : Nat), ((2 ^ (w - 1) : Nat) : Int) - 1) else (0, ((2 ^ w : Nat) : Int) - 1)

/-- An exact integer result brought into its element: it wraps, or clamps with SATD under sat (R87). -/
def intResult (w : Nat) (sgn sat : Bool) (x : Int) : Nat × Nat :=
  let lh := intRange w sgn
  if x < lh.1 then (if sat then (wrapNat w lh.1, Fpx.satd) else (wrapNat w x, 0))
  else if lh.2 < x then (if sat then (wrapNat w lh.2, Fpx.satd) else (wrapNat w x, 0))
  else (wrapNat w x, 0)

/-- A float brought into an integer element (R88, R90, R91). -/
def floatToInt (r : Rnd) (w : Nat) (sgn : Bool) : Num → Nat × Nat
  | .nan _ => (0, Fpx.nv)
  | .inf neg => (wrapNat w (if neg then (intRange w sgn).1 else (intRange w sgn).2), Fpx.nv)
  | .fin neg m e =>
    let x := ratio m e
    let kx := roundTo r neg x.1 x.2 0
    let v : Int := if neg then -(kx.1 : Int) else kx.1
    let lh := intRange w sgn
    if v < lh.1 then (wrapNat w lh.1, Fpx.nv)
    else if lh.2 < v then (wrapNat w lh.2, Fpx.nv)
    else (wrapNat w v, Fpx.iff kx.2 Fpx.nx)

/-- A term of a DYAD8 element in units of 2^-6 (R85). -/
def dyadTerm (s : Bool) (k : Nat) : Int := if k = 7 then 0 else (if s then -1 else 1) * (2 ^ (6 - k) : Nat)

/-- A DYAD8 element's unscaled value in units of 2^-6 (R85). -/
def dyadUnits (x : Nat) : Int := dyadTerm (bit x 7) (field x 6 4) + dyadTerm (bit x 3) (field x 2 0)

/-- A DYAD8 element's value; every zero code reads +0 (R85). -/
def dyadDecode (x : Nat) : Num :=
  let v := dyadUnits x
  .fin (decide (v < 0)) v.natAbs (-6)

/-- The DYAD8 codes in ascending order of (ka, kb, sa, sb) (R86). -/
def dyadOrder : List Nat :=
  (List.range 8).flatMap (fun ka => (List.range 8).flatMap (fun kb =>
    [ka * 16 + kb, ka * 16 + kb + 8, 128 + ka * 16 + kb, 128 + ka * 16 + kb + 8]))

/-- The first DYAD8 code of a value in units of 2^-6 (R86). -/
def dyadCode (v : Int) : Nat := if v = 0 then 0x77 else (dyadOrder.find? (fun c => dyadUnits c == v)).getD 0x77

/-- The representable magnitudes in units of 2^-6, ascending: the sums and differences of two terms (R85). -/
def dyadMags : List Nat :=
  [0, 1, 2, 3, 4, 5, 6, 7, 8, 9, 10, 12, 14, 15, 16, 17, 18, 20, 24, 28, 30, 31, 32, 33, 34, 36, 40, 48, 56,
    60, 62, 63, 64, 65, 66, 68, 72, 80, 96, 128]

/-- The representable magnitude nearest n / d (in units of 2^-6); of two equally near the smaller (R86). -/
def dyadNearest (n d : Nat) : Nat :=
  dyadMags.foldl (fun best m =>
    if ((m * d : Nat) - (n : Nat) : Int).natAbs < ((best * d : Nat) - (n : Nat) : Int).natAbs then m else best) 0

/-- Conversion into DYAD8 (R86). -/
def dyadEncode : Num → Nat × Nat
  | .nan _ => (0x77, Fpx.nv)
  | .inf neg => (dyadCode (if neg then -128 else 128), Fpx.of ||| Fpx.nx ||| Fpx.satd)
  | .fin neg m e =>
    if m = 0 then (0x77, 0)
    else
      let x := ratio (m * 64) e
      if 128 * x.2 < x.1 then (dyadCode (if neg then -128 else 128), Fpx.of ||| Fpx.nx ||| Fpx.satd)
      else
        let v := dyadNearest x.1 x.2
        let inexact := v * x.2 != x.1
        (dyadCode (if neg then -(v : Int) else v), Fpx.iff inexact Fpx.nx ||| Fpx.iff (inexact && decide (x.1 < x.2)) Fpx.uf)

/-- An E8M0 scale's exponent; none for NaN (R82). -/
def e8m0 (b : Nat) : Option Int := if b % 256 = 255 then none else some ((b % 256 : Nat) - 127)

/-- One step of a lane's generator (R89). -/
def rngStep (g : Nat) : Nat :=
  let g1 := g ^^^ (g * 2 ^ 13 % 2 ^ 32)
  let g2 := g1 ^^^ (g1 / 2 ^ 17)
  g2 ^^^ (g2 * 2 ^ 5 % 2 ^ 32)

/-- What a write of `x` to a generator stores: never 0 (R89). -/
def rngStore (x : Word) : Word := if x = 0 then 1 else x

end Sys2Proof.Machine
end

