-- ==== Sys2Proof/Machine/Transcendental.lean ====
section
/-! DEFINITION. The exact values of R107 as ratios that round as the exact value rounds: a root is the integer root with
a half for what lies beyond it, and the functions whose value is irrational are taken to 256 bits, with a half for what
lies beyond them (log 12, DEDUCED, safe). -/
namespace Sys2Proof.Machine

/-- One bit of the integer square root, from bit `k - 1` downward. -/
def isqrtFrom (n : Nat) : Nat → Nat → Nat
  | 0, r => r
  | k + 1, r => isqrtFrom n k (if (r + 2 ^ k) * (r + 2 ^ k) ≤ n then r + 2 ^ k else r)

/-- The integer square root. -/
def isqrt (n : Nat) : Nat := isqrtFrom n (bitLength n / 2 + 1) 0

/-- An integer `s`, or `s` and a half when something lies beyond it, as a ratio over `d`. -/
def withSticky (s d : Nat) (exact : Bool) : Nat × Nat := if exact then (s, d) else (2 * s + 1, 2 * d)

/-- A ratio times 2^e. -/
def scaleRatio (x : Nat × Nat) (e : Int) : Nat × Nat :=
  let s := ratio 1 e
  (x.1 * s.1, x.2 * s.2)

/-- The square root of m * 2^e. -/
def sqrtRatio (m : Nat) (e : Int) : Nat × Nat :=
  let m1 := if e % 2 = 1 then 2 * m else m
  let e1 := if e % 2 = 1 then e - 1 else e
  let n := m1 * 2 ^ 128
  let s := isqrt n
  scaleRatio (withSticky s (2 ^ 64) (s * s == n)) (e1 / 2)

/-- 1 over the square root of m * 2^e. -/
def rsqrtRatio (m : Nat) (e : Int) : Nat × Nat :=
  let m1 := if e % 2 = 1 then 2 * m else m
  let e1 := if e % 2 = 1 then e - 1 else e
  let k := 64 + bitLength m1
  let s := isqrt (2 ^ (2 * k) / m1)
  scaleRatio (withSticky s (2 ^ k) (s * s * m1 == 2 ^ (2 * k))) (-(e1 / 2))

/-- The fixed-point unit of the series: 256 bits of fraction. -/
def fix : Nat := 2 ^ 256

/-- ln 2 in fixed point. -/
def ln2 : Nat := 0xB17217F7D1CF79ABC9E3B39803F2F6AF40F343267298B62D8A0D175B8BAAFA2B

/-- The terms y^k / k! of the exponential series, from term `k` with value `t`. -/
def expSeries (y : Nat) : Nat → Nat → Nat → Nat → Nat
  | 0, _, _, acc => acc
  | n + 1, k, t, acc => expSeries y n (k + 1) (t * y / fix / (k + 1)) (acc + t)

/-- e^y for 0 ≤ y < 1 in fixed point. -/
def expFix (y : Nat) : Nat := expSeries y 64 0 fix 0

/-- 2^(n/d) as a ratio; a magnitude beyond 4096 overflows or underflows every format
alike, and a whole exponent gives a power of 2 exactly (R108). -/
def exp2Ratio (neg : Bool) (n d : Nat) : Nat × Nat :=
  if 4096 * d < n then (if neg then (1, 2 ^ 4096) else (2 ^ 4096, 1))
  else
    let k : Int := if neg then -((ceilDiv n d : Nat) : Int) else (n / d : Nat)
    let f := if neg then ceilDiv n d * d - n else n % d
    scaleRatio (withSticky (expFix (f * fix / d * ln2 / fix)) fix (f == 0)) k

/-- The terms z^(2k+1) / (2k+1) of the inverse hyperbolic tangent's series. -/
def atanhSeries (z2 : Nat) : Nat → Nat → Nat → Nat → Nat
  | 0, _, _, acc => acc
  | n + 1, k, t, acc => atanhSeries z2 n (k + 2) (t * z2 / fix) (acc + t / k)

/-- log2 of m * 2^e for a positive m that is no power of 2: its sign and magnitude. -/
def log2Ratio (m : Nat) (e : Int) : Bool × Nat × Nat :=
  let b := bitLength m - 1
  let k : Int := e + b
  let z := (m - 2 ^ b) * fix / (m + 2 ^ b)
  let l := 2 * atanhSeries (z * z / fix) 90 1 z 0 * fix / ln2
  let v : Int := k * (fix : Nat) + l
  (decide (v < 0), withSticky (if v < 0 then v.natAbs - 1 else v.natAbs) fix false)

/-- tanh (n/d), for positive n. -/
def tanhRatio (n d : Nat) : Nat × Nat :=
  if n * 2 ^ 40 < d then (n * (2 ^ 80 - 1), d * 2 ^ 80)
  else if 50 * d < n then (2 ^ 200 - 1, 2 ^ 200)
  else
    let x2 := 2 * n * fix / d
    let k := x2 / ln2
    let ex := 2 ^ k * expFix (x2 - k * ln2)
    withSticky ((ex - fix) * fix / (ex + fix)) fix false

end Sys2Proof.Machine
end

