-- ==== Sys2Proof/Machine/Numbers.lean ====
section
/-! DEFINITION. What each arithmetic, logic, conversion and compare operation computes of element values (R79, R80,
R104-R116). -/
namespace Sys2Proof.Machine

/-- An element type (R60, R79). -/
inductive Ety where
  | int (w : Nat) (sgn : Bool)
  | flt (f : Fmt)
  | dyad
deriving DecidableEq, Repr

/-- The element type of a `MODE.type` code (R60); none for a reserved code. -/
def etyOf : Nat → Option Ety
  | 0 => some (.int 32 true)
  | 1 => some (.int 32 false)
  | 2 => some (.flt .f32)
  | 3 => some (.flt .bf16)
  | 4 => some (.flt .f16)
  | 5 => some (.int 16 true)
  | 6 => some (.int 16 false)
  | 7 => some (.int 8 true)
  | 8 => some (.int 8 false)
  | 9 => some (.flt .e4m3)
  | 10 => some (.flt .e5m2)
  | 11 => some (.flt .e2m1)
  | 12 => some .dyad
  | _ => none

/-- An element's width in bits. -/
def Ety.width : Ety → Nat
  | .int w _ => w
  | .flt f => f.w
  | .dyad => 8

/-- Whether the type is a float type of R100. -/
def Ety.isFloat : Ety → Bool
  | .flt f => f == .f32 || f == .bf16 || f == .f16
  | _ => false

/-- Element `i` of a word with elements `w` bits wide (R79). -/
def elem (w i x : Nat) : Nat := x / 2 ^ (w * i) % 2 ^ w

/-- What an instruction computes in one lane: the value, the flags raised, and the generator afterwards. -/
structure Res where
  x : Nat
  fl : Nat
  rng : Nat
deriving DecidableEq, Repr

/-- A result that raises nothing and draws nothing. -/
def Res.plain (rng x : Nat) : Res := ⟨x, 0, rng⟩

/-- Elements `i` upward of a packed operation, `n` of them: each is computed on its own, in ascending order, with one
draw each when the instruction draws (R80, R89). -/
def perElemFrom (w : Nat) (draws : Bool) (f : Nat → Nat → Nat → Nat → Nat × Nat) (a b d : Nat) : Nat → Nat → Res → Res
  | 0, _, acc => acc
  | n + 1, i, acc =>
    let g := if draws then rngStep acc.rng else acc.rng
    let y := f (g / 2 ^ 16) (elem w i a) (elem w i b) (elem w i d)
    perElemFrom w draws f a b d n (i + 1) ⟨acc.x + y.1 % 2 ^ w * 2 ^ (w * i), acc.fl ||| y.2, g⟩

/-- A packed operation on words. -/
def perElem (w : Nat) (draws : Bool) (f : Nat → Nat → Nat → Nat → Nat × Nat) (a b d rng : Nat) : Res :=
  perElemFrom w draws f a b d (32 / w) 0 ⟨0, 0, rng⟩

/-- The arithmetic operations of R104 and R107. -/
inductive AluOp where
  | add | sub | mul | mulh | mac | min | max | abs | neg | div | rem | rcp | rsq | sqrt | exp2 | log2 | tanh
deriving DecidableEq, Repr

/-- Whether the operation rounds under a float type, so uses the round field there (R104, R107). -/
def AluOp.rounds : AluOp → Bool
  | .add | .sub | .mul | .mac | .div | .rcp | .rsq | .sqrt | .exp2 | .log2 | .tanh => true
  | _ => false

/-- Integer elements (R87, R106). -/
def intOp (op : AluOp) (w : Nat) (sgn sat : Bool) (ea eb ed : Nat) : Nat × Nat :=
  let v := fun (x : Nat) => if sgn then signed w x else ((x % 2 ^ w : Nat) : Int)
  let a := v ea
  let b := v eb
  match op with
  | .add => intResult w sgn sat (a + b)
  | .sub => intResult w sgn sat (a - b)
  | .mul => intResult w sgn sat (a * b)
  | .mulh => (wrapNat w (a * b / ((2 ^ w : Nat) : Int)), 0)
  | .mac => intResult w sgn sat (v ed + a * b)
  | .min => (if a ≤ b then ea else eb, 0)
  | .max => (if b ≤ a then ea else eb, 0)
  | .abs => intResult w sgn sat (a.natAbs : Int)
  | .neg => intResult w sgn sat (-a)
  | .div => if b = 0 then (2 ^ w - 1, Fpx.idz) else intResult w sgn sat (a.tdiv b)
  | .rem => if b = 0 then (ea, Fpx.idz) else (wrapNat w (a.tmod b), 0)
  | _ => (0, 0)

/-- Whether a value is zero. -/
def Num.isZero : Num → Bool
  | .fin _ m _ => m == 0
  | _ => false

/-- Whether a value is a NaN. -/
def Num.isNan : Num → Bool
  | .nan _ => true
  | _ => false

/-- Whether a value is a signalling NaN. -/
def Num.isSnan : Num → Bool
  | .nan s => s
  | _ => false

/-- A value's sign. -/
def Num.neg : Num → Bool
  | .nan _ => false
  | .inf n => n
  | .fin n _ _ => n

/-- The negated value. -/
def Num.negate : Num → Num
  | .nan s => .nan s
  | .inf n => .inf (!n)
  | .fin n m e => .fin (!n) m e

/-- The signed magnitude over 2^e, for an `e` not above the value's own exponent. -/
def scaled (neg : Bool) (m : Nat) (e0 e : Int) : Int :=
  let x : Int := ((m * 2 ^ (e0 - e).toNat : Nat) : Int)
  if neg then -x else x

/-- The exact sum, its NaN and zero sign under a rounding mode (R83, R84), and whether the operation was invalid. -/
def Num.add (mode : Nat) : Num → Num → Num × Bool
  | .nan s, y => (.nan false, s || y.isSnan)
  | _, .nan s => (.nan false, s)
  | .inf p, .inf q => if p = q then (.inf p, false) else (.nan false, true)
  | .inf p, .fin _ _ _ => (.inf p, false)
  | .fin _ _ _, .inf q => (.inf q, false)
  | .fin p m e, .fin q n g =>
    let h := Min.min e g
    let v := scaled p m e h + scaled q n g h
    if v = 0 then
      (if m = 0 ∧ n = 0 ∧ p = q then (.fin p 0 h, false) else (.fin (mode == 3) 0 h, false))
    else (.fin (decide (v < 0)) v.natAbs h, false)

/-- The exact product and whether the operation was invalid (R84). -/
def Num.mul : Num → Num → Num × Bool
  | .nan s, y => (.nan false, s || y.isSnan)
  | x, .nan s => (.nan false, s || x.isSnan)
  | .inf p, y => if y.isZero then (.nan false, true) else (.inf (p != y.neg), false)
  | x, .inf q => if x.isZero then (.nan false, true) else (.inf (x.neg != q), false)
  | .fin p m e, .fin q n g => (.fin (p != q) (m * n) (e + g), false)

/-- Whether a < b for values that are no NaN; `zero` orders -0 below +0 (R84, R115). -/
def Num.lt (zero : Bool) : Num → Num → Bool
  | .inf p, .inf q => p && !q
  | .inf p, _ => p
  | _, .inf q => !q
  | .fin p m e, .fin q n g =>
    let h := Min.min e g
    let a := scaled p m e h
    let b := scaled q n g h
    decide (a < b) || (zero && decide (a = b) && decide (m = 0) && p && !q)
  | _, _ => false

/-- `MIN` and `MAX` of floats: minimumNumber and maximumNumber (R84). -/
def minMax (f : Fmt) (big : Bool) (ea eb : Nat) : Nat × Nat :=
  let a := f.decode ea
  let b := f.decode eb
  let fl := Fpx.iff (a.isSnan || b.isSnan) Fpx.nv
  if a.isNan then (if b.isNan then f.nan else eb, fl)
  else if b.isNan then (ea, fl)
  else if Num.lt true a b then (if big then eb else ea, fl)
  else (if big then ea else eb, fl)

/-- The quotient of floats, rounded once (R84, R105). -/
def divFloat (f : Fmt) (r : Rnd) : Num → Num → Nat × Nat
  | .nan s, y => (f.nan, Fpx.iff (s || y.isSnan) Fpx.nv)
  | _, .nan s => (f.nan, Fpx.iff s Fpx.nv)
  | .inf _, .inf _ => (f.nan, Fpx.nv)
  | .inf p, .fin q _ _ => f.encode r (.inf (p != q))
  | .fin p _ _, .inf q => (f.sign (p != q), 0)
  | .fin p m e, .fin q n g =>
    if n = 0 then (if m = 0 then (f.nan, Fpx.nv) else ((f.encode r (.inf (p != q))).1, Fpx.dz))
    else
      let x := scaleRatio (m, n) (e - g)
      f.round r (p != q) x.1 x.2

/-- The transcendental functions (R107, R108). -/
def transFloat (op : AluOp) (f : Fmt) (r : Rnd) : Num → Nat × Nat
  | .nan s => (f.nan, Fpx.iff s Fpx.nv)
  | .inf neg =>
    match op with
    | .rcp => (f.sign neg, 0)
    | .rsq => if neg then (f.nan, Fpx.nv) else (0, 0)
    | .sqrt => if neg then (f.nan, Fpx.nv) else f.encode r (.inf false)
    | .exp2 => if neg then (0, 0) else f.encode r (.inf false)
    | .log2 => if neg then (f.nan, Fpx.nv) else f.encode r (.inf false)
    | _ => f.round r neg 1 1
  | .fin neg m e =>
    if m = 0 then
      match op with
      | .rcp => ((f.encode r (.inf neg)).1, Fpx.dz)
      | .rsq => ((f.encode r (.inf neg)).1, Fpx.dz)
      | .exp2 => f.round r false 1 1
      | .log2 => ((f.encode r (.inf true)).1, Fpx.dz)
      | _ => (f.sign neg, 0)
    else
      let x := ratio m e
      match op with
      | .rcp => f.round r neg x.2 x.1
      | .rsq => if neg then (f.nan, Fpx.nv) else (let y := rsqrtRatio m e; f.round r false y.1 y.2)
      | .sqrt => if neg then (f.nan, Fpx.nv) else (let y := sqrtRatio m e; f.round r false y.1 y.2)
      | .exp2 => let y := exp2Ratio neg x.1 x.2; f.round r false y.1 y.2
      | .log2 =>
        if neg then (f.nan, Fpx.nv)
        else if m = 2 ^ (bitLength m - 1) then f.encode r (.fin (decide (e + (bitLength m - 1 : Nat) < 0)) (e + (bitLength m - 1 : Nat)).natAbs 0)
        else (let y := log2Ratio m e; f.round r y.1 y.2.1 y.2.2)
      | _ => let y := tanhRatio x.1 x.2; f.round r neg y.1 y.2

/-- Float elements (R105, R107). -/
def floatOp (op : AluOp) (f : Fmt) (r : Rnd) (ea eb ed : Nat) : Nat × Nat :=
  let a := f.decode ea
  let b := f.decode eb
  let out := fun (x : Num × Bool) (bad : Bool) =>
    let y := f.encode r x.1
    (y.1, y.2 ||| Fpx.iff (x.2 || bad) Fpx.nv)
  match op with
  | .add => out (Num.add r.mode a b) false
  | .sub => out (Num.add r.mode a b.negate) false
  | .mul => out (Num.mul a b) false
  | .mac => let p := Num.mul a b; out (Num.add r.mode (f.decode ed) p.1) p.2
  | .min => minMax f false ea eb
  | .max => minMax f true ea eb
  | .abs => (ea % 2 ^ (f.w - 1), 0)
  | .neg => (ea ^^^ 2 ^ (f.w - 1), 0)
  | .div => divFloat f r a b
  | .mulh | .rem => (0, 0)
  | .rcp | .rsq | .sqrt | .exp2 | .log2 | .tanh => transFloat op f r a

/-- One element of an arithmetic instruction (R104). -/
def aluElem (op : AluOp) (ty : Ety) (r : Rnd) (ea eb ed : Nat) : Nat × Nat :=
  match ty with
  | .int w sgn => intOp op w sgn r.sat ea eb ed
  | .flt f => floatOp op f r ea eb ed
  | .dyad => (0, 0)

/-- An arithmetic instruction on words, under a `MODE` value (R99, R104). -/
def aluWord (op : AluOp) (mode : Nat) (a b d rng : Nat) : Res :=
  match etyOf (field mode 8 4) with
  | none => .plain rng 0
  | some ty =>
    let rm := field mode 11 9
    perElem ty.width (op.rounds && ty.isFloat && rm == 5)
      (fun draw => aluElem op ty ⟨rm, bit mode 12, draw⟩) a b d rng

/-- The logic and bit operations of R109. -/
inductive BitOp where
  | and_ | or_ | xor_ | andn | shl | shr | sar | rot | popc | clz | brev
deriving DecidableEq, Repr

/-- The result of a logic or bit operation (R109). -/
def bitWord (op : BitOp) (a b : Word) : Word :=
  let n := b.toNat
  match op with
  | .and_ => a &&& b
  | .or_ => a ||| b
  | .xor_ => a ^^^ b
  | .andn => a &&& ~~~ b
  | .shl => if 32 ≤ n then 0 else a <<< n
  | .shr => if 32 ≤ n then 0 else a >>> n
  | .sar => if 32 ≤ n then a.sshiftRight 31 else a.sshiftRight n
  | .rot => a.rotateLeft (n % 32)
  | .popc => word (popCount 32 a.toNat)
  | .clz => word (32 - bitLength a.toNat)
  | .brev => a.reverse

/-- The position, and the effective length, that `BFX` and `BFI` take of `b` (R110). -/
def fieldSpec (b : Nat) : Nat × Nat :=
  let pos := field b 4 0
  let len := if field b 12 8 = 0 then 32 else field b 12 8
  (pos, min len (32 - pos))

/-- `BFX` (R110). -/
def bfxWord (mode : Nat) (a b : Nat) : Nat :=
  let pm := fieldSpec b
  let x := a / 2 ^ pm.1 % 2 ^ pm.2
  let t := field mode 8 4
  if (t == 0 || t == 5 || t == 7) && bit x (pm.2 - 1) then x + (2 ^ 32 - 2 ^ pm.2) else x

/-- `BFI` (R110). -/
def bfiWord (a b d : Nat) : Nat :=
  let pm := fieldSpec b
  setField d (pm.1 + pm.2 - 1) pm.1 a

/-- One byte of `PRMT`, from the nibble `n` and the eight source bytes of `x` (R111). -/
def prmtByte (x n : Nat) : Nat :=
  let b := elem 8 (n % 8) x
  if bit n 3 then (if bit b 7 then 0xFF else 0) else b

/-- `PRMT` (R111). -/
def prmtWord (a b d : Nat) : Nat :=
  let x := a + d * 2 ^ 32
  prmtByte x (elem 4 0 b) + prmtByte x (elem 4 1 b) * 2 ^ 8 + prmtByte x (elem 4 2 b) * 2 ^ 16
    + prmtByte x (elem 4 3 b) * 2 ^ 24

/-- The value of an element of any type (R79, R85). -/
def Ety.decode (ty : Ety) (x : Nat) : Num :=
  match ty with
  | .int w sgn =>
    let v : Int := if sgn then signed w x else ((x % 2 ^ w : Nat) : Int)
    .fin (decide (v < 0)) v.natAbs 0
  | .flt f => f.decode x
  | .dyad => dyadDecode x

/-- One converted element (R92, R112, R113); one of the source's own format is copied, a dyadic code too (log 140, DEDUCED, unsafe). -/
def convElem (src dst : Ety) (r : Rnd) (x : Nat) : Nat × Nat :=
  match dst with
  | .dyad => if src = .dyad then (x, 0) else dyadEncode (src.decode x)
  | .int w sgn =>
    match src with
    | .int w0 s0 => intResult w sgn r.sat (if s0 then signed w0 x else ((x % 2 ^ w0 : Nat) : Int))
    | _ => floatToInt r w sgn (src.decode x)
  | .flt f =>
    if src = dst then
      match f.decode x with
      | .nan s => (f.nan, Fpx.iff s Fpx.nv)
      | _ => (x, 0)
    else f.encode r (src.decode x)

/-- Whether a conversion is one whose row of R92 names `MODE.round` (R112). -/
def convRounds (src dst : Ety) : Bool :=
  match dst with
  | .dyad => false
  | .int _ _ => match src with | .int _ _ => false | _ => true
  | .flt _ => true

/-- The converted elements of `CVT`, `n` of them from source element `i`, written from destination element `j` (R112). -/
def cvtFrom (src dst : Ety) (rm : Nat) (sat : Bool) (a : Nat) : Nat → Nat → Nat → Res → Res
  | 0, _, _, acc => acc
  | n + 1, i, j, acc =>
    let g := if convRounds src dst && rm == 5 then rngStep acc.rng else acc.rng
    let y := convElem src dst ⟨rm, sat, g / 2 ^ 16⟩ (elem src.width i a)
    let w := dst.width
    cvtFrom src dst rm sat a n (i + 1) (j + 1) ⟨setField acc.x (w * j + w - 1) (w * j) y.1, acc.fl ||| y.2, g⟩

/-- `CVT` on a word: into `dst` from `MODE.type`, at the position `k`, over the old value `d` (R112). -/
def cvtWord (dst : Ety) (mode : Nat) (a k d rng : Nat) : Res :=
  match etyOf (field mode 8 4) with
  | none => .plain rng d
  | some src =>
    let ns := 32 / src.width
    let nd := 32 / dst.width
    let rm := field mode 11 9
    if ns ≤ nd then cvtFrom src dst rm (bit mode 12) a ns 0 (k % (nd / ns) * ns) ⟨d, 0, rng⟩
    else cvtFrom src dst rm (bit mode 12) a nd (k % (ns / nd) * nd) 0 ⟨d, 0, rng⟩

/-- The compare conditions of R115. -/
inductive CmpOp where
  | eq | ne | lt | le | gt | ge | ord | unord
deriving DecidableEq, Repr

/-- A compare of integers (R115). -/
def cmpInt (op : CmpOp) (a b : Int) : Bool :=
  match op with
  | .eq => decide (a = b)
  | .ne => decide (a ≠ b)
  | .lt => decide (a < b)
  | .le => decide (a ≤ b)
  | .gt => decide (b < a)
  | .ge => decide (b ≤ a)
  | .ord => true
  | .unord => false

/-- A compare of floats, with its flags (R115). -/
def cmpNum (op : CmpOp) (a b : Num) : Bool × Nat :=
  let un := a.isNan || b.isNan
  let lt := !un && Num.lt false a b
  let gt := !un && Num.lt false b a
  let quiet := Fpx.iff (a.isSnan || b.isSnan) Fpx.nv
  let loud := Fpx.iff un Fpx.nv
  match op with
  | .eq => (!un && !lt && !gt, quiet)
  | .ne => (un || lt || gt, quiet)
  | .lt => (lt, loud)
  | .le => (!un && !gt, loud)
  | .gt => (gt, loud)
  | .ge => (!un && !lt, loud)
  | .ord => (!un, quiet)
  | .unord => (un, quiet)

/-- A compare of elements. -/
def cmpElem (op : CmpOp) (ty : Ety) (a b : Nat) : Bool × Nat :=
  match ty with
  | .int w sgn =>
    (if sgn then cmpInt op (signed w a) (signed w b) else cmpInt op ((a % 2 ^ w : Nat) : Int) ((b % 2 ^ w : Nat) : Int), 0)
  | .flt f => cmpNum op (f.decode a) (f.decode b)
  | .dyad => (false, 0)

/-- `CMP` on words: true only when the condition holds in every element (R114). -/
def cmpWord (op : CmpOp) (mode a b : Nat) : Bool × Nat :=
  match etyOf (field mode 8 4) with
  | none => (false, 0)
  | some ty =>
    (List.range (32 / ty.width)).foldl (fun acc i =>
      let y := cmpElem op ty (elem ty.width i a) (elem ty.width i b)
      (acc.1 && y.1, acc.2 ||| y.2)) (true, 0)

end Sys2Proof.Machine
end

