-- ==== Sys2Proof/Config.lean ====
section
/-! DEFINITION. The values that the spec leaves open and the model therefore keeps free: constants without a body, of
which no proof can learn anything. Each is applied to the state's counter of free values (log 2, DESIGN CHOICE, safe), so that two uses need
not agree. -/
namespace Sys2Proof.Config

/-- A free word: a result that the spec does not state, or that the micro-architecture decides (log 2, DESIGN CHOICE, safe). -/
opaque freeWord : Nat → Word

/-- A free choice between two behaviours that the spec allows (log 2, DESIGN CHOICE, safe). -/
opaque freeBool : Nat → Bool

/-- A free count (log 2, DESIGN CHOICE, safe). -/
opaque freeNat : Nat → Nat

/-- A free byte, by the counter of free values and a position (log 2, DESIGN CHOICE, safe). -/
opaque freeByte : Nat → Nat → Byte

/-- Whether a reservation, by its number, uses a link, by its own (R16, R19); the spec does not say which it uses (log 2, DESIGN CHOICE, safe). -/
opaque usesLink : Nat → Nat → Bool

/-- The rail level that a cadence ceiling needs, which each device fixes (R381). -/
opaque railLevel : Nat → Nat

/-- The fused secret of the device, and the digest of its boot ROM, byte by byte (R384). -/
opaque fusedByte : Nat → Byte
opaque romByte : Nat → Byte

/-- The ML-DSA-87 public key that derives from an identifier, and the signature of a message under it (R384); the spec gives neither
algorithm. -/
opaque publicKey : List Byte → List Byte
opaque sign : List Byte → List Byte → List Byte

/-- The hub register offset of the cost table, which each device fixes (R20). -/
opaque costBase : Word

end Sys2Proof.Config
end

