-- ==== Sys2Proof/Machine/Records.lean ====
section
/-! DEFINITION. Completion records (R321, R354, R367, R368), the error log (R342), and what voids, releases and
re-offers a quote (R308, R315, R318, R388). -/
namespace Sys2Proof.Machine

/-- A queue interface at reset (R364). -/
def Qi.reset : Qi :=
  { sqbase := 0, cqbase := 0, sqlog := 4, cqlog := 4, en := false, pasid := 0, valid := false, revoked := false, sqtail := 0,
    sqhead := 0, cqseq := 0, cqack := 0, qirq := 0x100, seqerr := false, drop := false, qdrop0 := 0, qdropn := 0,
    held := [], dseq := 0, unreported := 0, sinceFirst := 0 }

/-- A write of the device into host memory; it ends release sequences there (R184, R366). -/
def State.hostWrite (s : State) (a : Nat) (bs : List Byte) : State := (s.endRels (hostLoc a) bs.length).storeBytes (hostLoc a) bs

/-- The key of a queue interface: 8 function + interface. A context has the key of its interface (R370). -/
def qiKey (q : QRef) : Nat := q.fn * 8 + q.q

def State.qi (s : State) (k : Nat) : Qi := Tab.read s.qis k .reset
def State.setQi (s : State) (k : Nat) (q : Qi) : State := { s with qis := Tab.put s.qis k q }

/-- Whether record number `d` has room in the ring: d - CQACK ≤ 2^cqlog (R368). -/
def Qi.room (q : Qi) (d : Nat) : Bool := decide ((d + 2 ^ 32 - q.cqack.toNat) % 2 ^ 32 ≤ 2 ^ q.cqlog)

/-- Sends the interface's interrupt and starts the next batch, if interrupts are enabled; else nothing is sent, and the records stay
unreported (R368). -/
def State.interrupt (s : State) (k : Nat) : State :=
  let q := s.qi k
  if bit q.qirq.toNat 31 then
    { s.setQi k { q with unreported := 0, sinceFirst := 0 } with interrupts := s.interrupts ++ [(k / 8, field q.qirq.toNat 5 0)] }
  else s

/-- The bytes of a record (R367). -/
def recordBytes (kind status sqhead dseq : Nat) (payload : List Word) : List Byte :=
  bytesLE 4 (kind % 256 + status % 256 * 2 ^ 8 + sqhead % 2 ^ 16 * 2 ^ 16) ++ bytesLE 4 dseq
    ++ ((payload ++ List.replicate 6 0).take 6).flatMap (fun (w : Word) => bytesLE 4 w.toNat)

/-- The sequence number that a record's bytes hold (R367). -/
def recordSeq (bs : List Byte) : Nat := natLE ((bs.drop 4).take 4)

/-- A MAP record in the ring opens the host's window for its version (R18). -/
def State.hostWindow (s : State) (k : Nat) (bs : List Byte) : State :=
  let v := natLE ((bs.drop 8).take 4)
  let c := s.ctx k
  if natLE (bs.take 1) = 8 ∧ c.ack < v then
    s.setCtx k { c with windows := c.windows ++ [{ version := v, cycles := 0, hostWin := true, gid := 0 }] }
  else s

/-- Writes a record whole into its ring entry, with `SQHEAD` as it stands now, and then advances CQSEQ past it; the count trigger may
send an interrupt (R367, R368). -/
def State.ringWrite (s : State) (k : Nat) (rec : List Byte) : State :=
  let q := s.qi k
  let bs := rec.take 2 ++ bytesLE 2 q.sqhead.toNat ++ rec.drop 4
  let d := recordSeq bs
  let s1 := s.hostWrite (q.cqbase + 32 * (d % 2 ^ q.cqlog)) bs
  let s2 := (s1.setQi k { q with cqseq := word d, unreported := q.unreported + 1 }).hostWindow k bs
  let n := field q.qirq.toNat 15 8
  if n ≠ 0 ∧ n ≤ q.unreported + 1 then s2.interrupt k else s2

/-- Writes a completion record on a queue interface: into the ring while it has room, else held, and dropped when 64 are
held already (R367, R368). An interface that is not enabled has no ring, and nothing is written (log 15, DESIGN CHOICE, unsafe). -/
def State.record (s : State) (k kind status : Nat) (payload : List Word) : State :=
  let q := s.qi k
  if q.en then
    let d := (q.dseq + 1) % 2 ^ 32
    let bs := recordBytes kind status q.sqhead.toNat d payload
    if q.held.isEmpty && q.room d then (s.setQi k { q with dseq := d }).ringWrite k bs
    else if q.held.length < 64 then s.setQi k { q with dseq := d, held := q.held ++ [bs] }
    else s.setQi k { q with dseq := d, drop := true, qdrop0 := if q.drop then q.qdrop0 else word d, qdropn := q.qdropn + 1 }
  else s

/-- Moves held records into the ring while it has room (R368). -/
def State.releaseHeld (s : State) (k : Nat) : Nat → State
  | 0 => s
  | n + 1 =>
    let q := s.qi k
    match q.held with
    | [] => s
    | bs :: rest =>
      if q.room (recordSeq bs) then ((s.setQi k { q with held := rest }).ringWrite k bs).releaseHeld k n else s

/-- An ACK record (R367): reason 0 is success. -/
def State.ack (s : State) (k : Nat) (hseq : Word) (status reason : Nat) (result : Word) : State :=
  s.record k 6 status [hseq, word reason, result]

/-- Writes an entry of a context's error log (R342). -/
def State.logEntry (s : State) (ctx code kind : Nat) (place pc lanes : Word) (addr : Nat) (a b : Word) : State :=
  let c := s.ctx ctx
  let n := c.logSeq % 64
  let w0 := word ((c.logSeq + 1) % 2 ^ 16 + code % 128 * 2 ^ 16 + 2 ^ 23 + kind % 256 * 2 ^ 24)
  let past := match Tab.find c.log n with | some e => !e.read | none => false
  s.setCtx ctx { c with
    log := Tab.put c.log n { words := [w0, place, pc, lanes, word addr, word (addr / 2 ^ 32), a, b], read := false },
    logSeq := c.logSeq + 1, logov := c.logov || past }

/-- `PLACE` of a group, by its party number; the MCC's core and slot read 0 (R28, R248). -/
def placeOf (gid : Nat) : Word :=
  let c := gidCluster gid
  let q := if gidSlot gid = 64 then 0 else gidSlot gid / 16
  let sl := if gidSlot gid = 64 then 0 else gidSlot gid % 16
  word (c / 18 + c % 18 * 2 ^ 3 + q * 2 ^ 8 + sl * 2 ^ 10)

/-- The linear index of a grid's team: grid team j of stage s (R323). -/
def Grid.linear (g : Grid) (stage j : Nat) : Nat := ((g.counts.take stage).foldl (· + ·) 0) + j

/-- The linear index of a gang's team. -/
def Gang.linear (g : Gang) (grid : Grid) (team : Nat) : Nat := grid.linear g.stage (g.base + team)

/-- The number of teams of a grid. -/
def Grid.teams (g : Grid) : Nat := g.counts.foldl (· + ·) 0

/-- A HOSTREQ record of a gang's group (R367). -/
def State.hostReq (s : State) (ctx grid linear grp req : Nat) (pc : Word) (addr code : Nat) : State :=
  s.record ctx 9 0 [word grid, word (linear % 2 ^ 21 + grp % 16 * 2 ^ 21 + req % 4 * 2 ^ 25), pc, word addr, word (addr / 2 ^ 32),
    word (code % 128)]

/-- The grid whose replay log a grid appends to: a child's events go to its parent's buffer, up through its parents (R356). -/
def State.replayRoot (s : State) : Nat → Nat → Nat
  | 0, grid => grid
  | n + 1, grid =>
    match (s.grid grid).parent with
    | some (t, _) => s.replayRoot n (s.gang (t / 256)).grid
    | none => grid

/-- Appends bytes to the replay log of a grid launched with the RECORD flag, and to its buffer as far as that reaches
(R356, log 33, DESIGN CHOICE, unsafe). -/
def State.logReplay (s : State) (grid : Nat) (bs : List Byte) : State :=
  if (s.grid grid).replay.isNone then s
  else
    let k := s.replayRoot 64 grid
    let g := s.grid k
    match g.replay with
    | none => s
    | some (buf, len) =>
      let at_ := g.replayLog.length
      let s1 := if at_ + bs.length ≤ len then s.hostWrite (buf + at_) bs else s
      s1.setGrid k { g with replayLog := g.replayLog ++ bs }

/-- A party as a number in a replay log: its party number, or engine k as 2^16 + k (log 33, DESIGN CHOICE, unsafe). -/
def Party.code : Party → Nat
  | .core g => g
  | .engine k => 2 ^ 16 + k
  | .host => 2 ^ 17
  | .peer n => 2 ^ 18 + n
  | .cxl => 2 ^ 19

/-- The event of a tray fill in the replay log: header address, index and filling party (R356). -/
def State.logFill (s : State) (h i : Nat) (r : Release) : State :=
  s.logReplay (s.gang (r.team / 256)).grid (bytesLE 8 h ++ bytesLE 4 i ++ bytesLE 4 r.party.code)

/-- The blame codes of R321. -/
def blameCaller : Nat := 0
def blameDevice : Nat := 1
def blameOperator : Nat := 2
def blamePeer : Nat := 3

/-- A quote's record in the table. -/
def State.quote? (s : State) (q : Nat) : Option Quote := Tab.find s.quotes q

/-- A quote put into a state (R310). -/
def State.setQuoteState (s : State) (q : Nat) (st : QState) : State :=
  { s with quotes := Tab.upd s.quotes q (fun e => { e with state := st }) }

/-- The context of a group. -/
def State.ctxOf (s : State) (g : Group) : Nat := (s.grid (s.gang g.gang).grid).ctx

/-- Whether a partition has work or a reservation on a tile (R381). -/
def State.worksOn (s : State) (part tile : Nat) : Bool :=
  s.groups.any (fun e => gidCluster e.1 / 18 == tile && (s.ctx (s.ctxOf e.2)).part == part && e.2.run != .ended)
    || s.mccs.any (fun e => e.1 / 18 == tile && !e.2.queue.isEmpty &&
        (match s.group (gidOf e.1 64) with | some g => (s.ctx (s.ctxOf g)).part == part | none => false))
    || s.reservations.any (fun r => r.2.clusters.any (fun c => c / 18 == tile) &&
        s.quotes.any (fun q => q.2.res == r.1 && (s.ctx q.2.req.ctx).part == part))

/-- The rail level that the cadence ceilings of a partition's quotes need on a tile; the spec does not number the level of a ceiling
(R381). -/
def State.railNeed (s : State) (part tile : Nat) : Nat :=
  (s.reservations.filter (fun r => r.2.clusters.any (fun c => c / 18 == tile) &&
    s.quotes.any (fun q => q.2.res == r.1 && (s.ctx q.2.req.ctx).part == part))).foldl (fun n r => max n (Config.railLevel r.2.ceil % 16)) 0

/-- The rail of a tile runs at the highest vote, and never below what a quote in force there needs (R381). -/
def State.rail (s : State) (tile : Nat) : Nat :=
  (List.range 8).foldl (fun n p => max n (max (Tab.read s.votes (8 * tile + p) 0) (s.railNeed p tile))) 0

/-- The votes follow the partitions' registers and quotes (R381): a partition with work or a reservation on a tile votes the greater of
its `PWRVOTE` and what its quotes need; one without keeps the vote that it had until that lapses, and a higher level that it asks for
meanwhile is voted at once and ends the settle interval (log 130, DEDUCED, safe). -/
def State.revote (s : State) : State :=
  (List.range 64).foldl (fun (s : State) k =>
    let level := field (s.hubReg (0x480 + 4 * (k % 8))).toNat 3 0
    let old := Tab.read s.votes k 0
    let works := s.worksOn (k % 8) (k / 8)
    let new := if works then max level (s.railNeed (k % 8) (k / 8)) else if old = 0 then 0 else max old level
    let s1 := if new = old then s else { s with votes := Tab.put s.votes k new }
    if works || decide (old < new) then { s1 with settle := Tab.del s1.settle k } else s1) s

/-- Releases a reservation: its units are free and its ceiling binds no more, and the votes that it needed follow (R11, R308, R381). -/
def State.releaseReservation (s : State) (res : Nat) : State := { s with reservations := Tab.del s.reservations res }.revote

/-- Holds a pending asynchronous trap for a group, one flag a code, a later one in place of an earlier (R333). -/
def Group.addAsync (g : Group) (cause : Cause) (addr : Nat) : Group :=
  { g with apend := g.apend.filter (fun p => p.cause != cause) ++
      [{ entry := 0, cause := cause, under := .none, info := 0, mask := 0, addr := addr, pc := 0, async := true }] }

/-- The party number of the group of a gang's team, among the groups in slots. -/
def State.findGroup (s : State) (gang team grp : Nat) : Option Nat :=
  (s.groups.find? (fun e => e.2.gang == gang && e.2.team == team && e.2.grp == grp && !e.2.mcc)).map (·.1)

/-- The party number of a grid's steward group, if it is there (R17). -/
def State.steward (s : State) (gid : Nat) : Option Nat :=
  match (s.grid gid).steward with
  | some (lin, grp) =>
    (s.groups.find? (fun e =>
      let ga := s.gang e.2.gang
      ga.grid == gid && !e.2.mcc && e.2.grp == grp && ga.linear (s.grid gid) e.2.team == lin)).map (·.1)
  | none => none

/-- Changes the group of a suspended gang's place. -/
def State.updSuspended (s : State) (p : Gang → SavedGroup → Bool) (f : Group → Group) : State :=
  { s with gangs := s.gangs.map (fun e =>
      (e.1, { e.2 with groups := e.2.groups.map (fun sg => if p e.2 sg then { sg with group := f sg.group } else sg) })) }

/-- Delivers an asynchronous trap to a grid's steward, also while it is suspended, and otherwise to the host queue by
the record given (R17, R330). -/
def State.toSteward (s : State) (grid : Nat) (cause : Cause) (addr : Nat) (host : State → State) : State :=
  match s.steward grid with
  | some gid =>
    match s.group gid with
    | some g => s.setGroup gid (g.addAsync cause addr)
    | none => s
  | none =>
    match (s.grid grid).steward with
    | some (lin, grp) =>
      let here := fun (ga : Gang) (sg : SavedGroup) => ga.grid == grid && ga.suspended && sg.grp == grp
        && ga.linear (s.grid grid) sg.team == lin
      if s.gangs.any (fun e => e.2.groups.any (here e.2)) then s.updSuspended here (fun g => g.addAsync cause addr)
      else host s
    | none => host s

/-- The cycles of a grid's largest team, of those that run, have retired or were stopped (R321). -/
def State.topCycles (s : State) (grid : Nat) : Nat :=
  (s.teams.filter (fun e => e.1 % 256 < 255 && (s.gang e.2.gang).grid == grid)).foldl (fun n e => max n e.2.used) (s.grid grid).maxCycles

/-- The energy of a grid that is charged: what it has used, less what a void has left uncharged, and at most the quote in force once the
device has exhausted a budget (R318, R321). -/
def State.chargedEnergy (s : State) (g : Grid) : Nat :=
  let e := g.energy - g.waived
  match g.quote.bind s.quote? with
  | some q => if g.deviceBreach then min e q.energy else e
  | none => e

/-- The cycles and energy that a void charges: actual use, or use capped at the quote (R318, R321). -/
def chargeOf (cycles energy : Nat) (q : Quote) (capped : Bool) : Word × Word :=
  (word (if capped then min cycles q.budget else cycles), word (if capped then min energy q.energy else energy))

/-- The class of accesses to a target type (R304, R305). -/
def typeClass (ty : Nat) : Nat := 3 + min 3 ty

/-- The cost class of `LDG`, `STG` and `ATM` for a context: of the classes of the target types which its tables map, the one with the
most cycles in the cost table (R305). -/
def State.memClass (s : State) (ctx : Nat) : Nat :=
  let tys := (((s.leaves ctx).map (fun e => field e.2.2 4 2)).filter (fun ty => ty != 7)).eraseDups
  let price := fun (c : Nat) => (Tab.read s.costs c (0, 0)).1
  match tys with
  | [] => 3
  | ty :: rest => rest.foldl (fun m u => if price m < price (typeClass u) then typeClass u else m) (typeClass ty)

/-- The clusters that the map marks as narrowed (R12). -/
def State.narrowed (s : State) : List Nat := (List.range 144).filter (fun c => bit (s.clusterWord c) 9)

/-- A walk that begins now, of a request from an interface (R305, R308). -/
def State.beginWalk (s : State) (qi : Nat) (hseq : Word) (req : QuoteReq) (refusal : Nat) : Walk :=
  { qi := qi, hseq := hseq, req := req, mapv := s.mapv, costs := s.costs, mem := s.memClass req.ctx, narrow := s.narrowed, map := s.map,
    refusal := refusal, requote := false, grid := 0, reports := [] }

/-- Voids the quote in force of a grid, and of every grid launched on it: its reservation is released, its registers read 0 from then
on, and a VOID record is written, after a new walk where a re-quote is offered; with a blame other than the caller's the steward is
told (R315, R318, R330, R388). -/
def State.voidQuote (s : State) (grid blame reason : Nat) (trap : Cause) (capped reoffer : Bool) : State :=
  let g := s.grid grid
  match g.quote with
  | none => s
  | some qid =>
    match s.quote? qid with
    | none => s
    | some q =>
      let used := g.energy - g.waived
      let ch := chargeOf (s.topCycles grid) used q capped
      let waived := if capped then g.waived + (used - min used q.energy) else g.waived
      let payload := [word qid, word (blame % 8 + trap.code % 128 * 2 ^ 8 + reason % 256 * 2 ^ 16), word s.mapv, 0, ch.1, ch.2]
      let s0 := { s with grids := s.grids.map (fun (e : Nat × Grid) => if e.2.quote = some qid then (e.1, { e.2 with quote := none, waived := if e.1 = grid then waived else e.2.waived }) else e) }
      let s1 := s0.setQuoteState qid .void
      let s2 := s1.releaseReservation q.res
      let s3 := if reoffer then
          { s2 with walks := s2.walks ++ [{ s2.beginWalk g.ctx 0 q.req 0 with
                                            requote := true, grid := grid, reports := [(2, 0, payload)] }] }
        else s2.record g.ctx 2 0 payload
      if blame = blameCaller then s3
      else s3.toSteward grid .quoteVoid qid (fun t => t)

/-- Some other quote that has not ended holds the same reservation (R308). -/
def State.resHeld (s : State) (res qid : Nat) : Bool :=
  s.quotes.any (fun e => e.1 != qid && e.2.res == res && (e.2.state == .issued || e.2.state == .accepted || e.2.state == .launched))

/-- A quote ends without a launch: its reservation is released, by a void at once and else when no other quote holds it, and the standing quotes that it
was accepted with end with it (R308, R310). -/
def State.endQuote (s : State) (qid : Nat) (st : QState) : State :=
  match s.quote? qid with
  | none => s
  | some q =>
    let s1 := s.setQuoteState qid st
    let s2 := if st != .void && s1.resHeld q.res qid then s1 else s1.releaseReservation q.res
    let last := !s1.quotes.any (fun e => e.2.first == q.first && e.2.parent == 0 && (e.2.state == .accepted || e.2.state == .launched))
    let standing := if q.state = .accepted ∧ q.parent = 0 ∧ last then
        s2.quotes.filter (fun e => e.2.parent != 0 && e.2.parent == q.first && e.2.state == .accepted)
      else []
    standing.foldl (fun s e => (s.setQuoteState e.1 st).releaseReservation e.2.res) s2

/-- Voids the quotes of a context on which no grid runs, with a VOID record each, after a new walk of each request where a re-quote is
offered (R318, R321, R388). -/
def State.voidIdle (s : State) (ctx blame reason : Nat) (trap : Cause) (reoffer : Bool) : State :=
  let left := s.quotes.filter (fun e => e.2.req.ctx == ctx && (e.2.state == .issued || e.2.state == .accepted))
  let payload := fun (q : Nat) => [word q, word (blame % 8 + trap.code % 128 * 2 ^ 8 + reason % 256 * 2 ^ 16), word s.mapv, 0, 0, 0]
  let s1 := left.foldl (fun s e => s.endQuote e.1 .void) s
  if reoffer then
    let main := left.filter (fun e => e.2.parent == 0)
    let firsts := (main.map (fun e => e.2.first)).eraseDups
    { s1 with walks := s1.walks ++ firsts.filterMap (fun f =>
        (main.find? (fun e => e.2.first == f)).map (fun e =>
          { s1.beginWalk ctx 0 e.2.req 0 with requote := true, grid := e.2.grid
                                              reports := (left.filter (fun o => o.2.first == f)).map (fun o => (2, 0, payload o.1)) })) }
  else left.foldl (fun (s : State) e => s.record ctx 2 0 (payload e.1)) s1

end Sys2Proof.Machine
end

