-- ==== Sys2Proof/Machine/Stations.lean ====
section
/-! DEFINITION. The rows that a team takes beside its allotment: control rows (R128) and, in a sentence, the spill rows of its
station (R286). -/
namespace Sys2Proof.Machine

/-- The largest declared depth of a kernel (R128). -/
def Kernel.depth (k : Kernel) : Nat := (k.limits.filter (fun e => e.kind == 2)).foldl (fun m e => max m e.n) 0

/-- The control rows of a team of `n` groups (R128, R306). -/
def Kernel.controlRows (k : Kernel) (n : Nat) : Nat := ceilDiv (n * (128 + 4 * k.depth)) 64

/-- A clause holds a place of the code section. -/
def Clause.holds (c : Clause) (a : Nat) : Bool := decide (c.start ≤ a) && decide (a < c.start + c.len)

/-- What a travel limit adds to the packets that may come to a clause (R286): its target, the end of the loop that it counts, from
wherever the loop is left, the return address of a `CALL` that travels, or, for a `RET`, wherever it lies outside. A transfer inside
its own clause brings no packet (log 114, DEDUCED, unsafe). -/
def Kernel.brings (k : Kernel) (c : Clause) (e : Limit) : Nat :=
  let at_ := fun (d : Int) => c.holds (wrapNat 32 ((e.key : Int) + d))
  match decode (wordLE (k.code.drop (e.key - k.base))) with
  | .br o => e.n * b2n (at_ (4 * o.toInt) && !c.holds e.key)
  | .call o =>
    let away := k.clauses.any (fun d => d.holds e.key && !d.holds (wrapNat 32 ((e.key : Int) + 4 * o.toInt)))
    e.n * b2n (at_ (4 * o.toInt) && !c.holds e.key) + e.n * b2n (away && at_ 4)
  | .lpe o => e.n * b2n (at_ (4 * o.toInt) && !c.holds e.key) + e.n * b2n (at_ 4)
  | .ret _ => e.n * b2n (!c.holds e.key)
  | _ => 0

/-- T_c of R286. -/
def Kernel.arrivals (k : Kernel) (c : Clause) : Nat :=
  (k.limits.filter (fun e => e.kind == 3 && !e.mcc)).foldl (fun n e => n + k.brings c e) 0

/-- The stations of a sentence in order: clause, replica and spill places (R276, R286). -/
def Kernel.stationList (k : Kernel) : List (Clause × Nat × Nat) :=
  (List.range 256).flatMap (fun n => (k.clauses.filter (fun c => c.n == n)).flatMap (fun c =>
    (List.range c.reps).map (fun j => (c, j, k.arrivals c - 32))))

/-- Rows that team `j` of a gang takes: its allotment, its control rows and its spill rows, in that order (R128, R286, R306,
log 35, DESIGN CHOICE, unsafe). -/
def Grid.span (g : Grid) (j : Nat) : Nat :=
  g.kernel.rows + g.kernel.controlRows g.groups
    + (if g.kernel.sentence then 3 * (match g.kernel.stationList[j]? with | some st => st.2.2 | none => 0) else 0)

/-- The grid of a team. -/
def State.gridOf (s : State) (t : Team) : Grid := s.grid (s.gang t.gang).grid

/-- A row of a core's scratchpad holds control or spill rows of a team placed there (R128, R286; log 35, DESIGN CHOICE, unsafe). -/
def State.setAside (s : State) (core row : Nat) : Bool :=
  s.teams.any (fun e => e.1 % 256 < 255 && e.2.core == core && !e.2.done && !e.2.slots.isEmpty
    && decide (e.2.row0 + e.2.rows ≤ row) && decide (row < e.2.row0 + (s.gridOf e.2).span e.2.idx))

end Sys2Proof.Machine
end

