-- ==== Sys2Proof/Machine/Translate.lean ====
section
/-! DEFINITION. Translation of virtual addresses: the five-level walk, page and tile leaves, permissions, target types and
the cached entries of the TLBs (R149-R155, R370, R379, R386). -/
namespace Sys2Proof.Machine

/-- Who translates: the context, its partition, whether in user mode, and the TLBs that may hold entries for it. -/
structure Walker where
  ctx : Nat
  part : Nat
  user : Bool
  tlbs : List Nat
  /-- the group or MCC, where it is one -/
  who : Option Nat
deriving DecidableEq, Repr

/-- What the access is, for permissions and target types (R151, R152). -/
inductive Use where
  | load (size : Nat)
  | store (size : Nat)
  | atomic
  /-- reads and writes of engines, copies and the matrix queue -/
  | engineRead
  | engineWrite
  /-- a tray or barrier instruction at an object in a sync page -/
  | object
  /-- a look at an address's target type, with no access -/
  | probe
deriving DecidableEq, Repr

/-- Whether a use needs a page's R. -/
def Use.reads : Use → Bool
  | .load _ | .atomic | .engineRead => true
  | _ => false

/-- Whether a use needs a page's W. -/
def Use.writes : Use → Bool
  | .store _ | .atomic | .engineWrite => true
  | _ => false

/-- An entry of a walk: its location, its value, and its descriptor where it is a tile leaf (R153). -/
structure WalkEntry where
  loc : Nat
  value : Nat
  desc : Nat
deriving DecidableEq, Repr

/-- Where an address leads. -/
structure Target where
  loc : Nat
  ty : Nat
  /-- the leaf's C bit -/
  chk : Bool
  node : Nat
  /-- entries of the walk, as the walker saw them, the leaf last -/
  walk : List WalkEntry
  /-- bytes from here to the end of the page or of the tile row -/
  run : Nat
deriving DecidableEq, Repr

/-- The end of a translation. -/
inductive Xlat where
  | ok (t : Target)
  | fault (c : Cause)
  | wait (w : Wait)
deriving DecidableEq, Repr

/-- Whether an address is canonical (R149). -/
def canonical (va : Nat) : Bool := field va 63 57 == (if bit va 56 then 127 else 0)

/-- An entry as memory holds it. -/
def State.entryAt (s : State) (loc : Nat) : WalkEntry :=
  let v := natLE (Memory.load s.mem loc 8)
  ⟨loc, v, if v % 4 = 3 then natLE (Memory.load s.mem (loc + 8) 8) else 0⟩

/-- Two forms of an entry that differ in A and D at most. -/
def WalkEntry.like (a b : WalkEntry) : Bool := setField a.value 10 9 0 == setField b.value 10 9 0 && a.desc == b.desc

/-- The forms of an entry that a walker's TLBs hold and that memory holds no longer (R154). -/
def State.staleForms (s : State) (w : Walker) (loc : Nat) : List WalkEntry :=
  ((s.tlb.filter (fun e => w.tlbs.contains e.tlb && e.ctx == w.ctx && e.loc == loc)).map
    (fun e => ⟨loc, e.value, e.desc⟩)).filter (fun e => !e.like (s.entryAt loc))

/-- An entry as a walker sees it: what memory holds, or, for as long as a TLB holds another form of it, either (R154). -/
def State.pte (s : State) (w : Walker) (loc : Nat) : WalkEntry :=
  match s.staleForms w loc with
  | [] => s.entryAt loc
  | old => (s.entryAt loc :: old).getD (Config.freeNat (2 ^ 200 + s.freeCtr * 2 ^ 80 + loc) % (old.length + 1)) (s.entryAt loc)

/-- The end of a walk at a leaf: base of its target, whether it is a 4 KiB leaf, a tile leaf's descriptor. -/
structure Leaf where
  value : Nat
  size : Nat
  tile : Option Nat
  walk : List WalkEntry
deriving DecidableEq, Repr

/-- The walk from level `lvl` down, over the table at physical address `b` (R149, R150, R153). -/
def walkFrom (s : State) (w : Walker) (va : Nat) : Nat → Nat → List WalkEntry → Except Cause Leaf
  | 0, _, _ => .error .pageNotPresent
  | lvl + 1, b, acc =>
    if !s.hbmOk b then .error .targetType
    else
      let idx := va / 2 ^ (12 + 9 * lvl) % 512
      let loc := hbmLoc (b + 8 * idx)
      let en := s.pte w loc
      let e := en.value
      let acc := acc ++ [en]
      if lvl = 1 ∧ idx % 2 = 1 ∧ field (s.pte w (loc - 8)).value 1 0 = 3 then .error .tileLeafRange
      else
        match field e 1 0 with
        | 0 => .error .pageNotPresent
        | 1 => if lvl = 0 then .error .pageNotPresent else walkFrom s w va lvl (field e 51 12 * 2 ^ 12) acc
        | 2 => if 3 ≤ lvl then .error .pageNotPresent else .ok ⟨e, 2 ^ (12 + 9 * lvl), none, acc⟩
        | _ =>
          if lvl ≠ 1 then .error .pageNotPresent
          else if idx % 2 = 1 then .error .tileLeafRange
          else
            let d := en.desc
            if field d 17 0 = 0 ∨ field d 57 18 < field d 17 0 then .error .tileLeafRange
            else .ok ⟨e, 2 ^ 21, some d, acc⟩

/-- The physical address that a leaf gives, with the bytes to the end of its page or row (R150, R153). -/
def Leaf.address (l : Leaf) (va : Nat) : Nat × Nat :=
  let off := va % l.size
  match l.tile with
  | none => (field l.value 51 12 * 2 ^ 12 / l.size * l.size + off, l.size - off)
  | some d =>
    let rb := 16 * field d 17 0
    (field l.value 51 12 * 2 ^ 12 + off / rb * (16 * field d 57 18) + off % rb, min (rb - off % rb) (l.size - off))

/-- Permissions of a leaf (R152); a tray or barrier instruction needs neither R nor W (log 136, DEDUCED, unsafe). -/
def Leaf.permits (l : Leaf) (w : Walker) (u : Use) : Bool :=
  (!u.reads || bit l.value 5) && (!u.writes || bit l.value 6) && (!w.user || bit l.value 7)

/-- Whether the CXL decoders cover an address, and by which port (R379). -/
def State.cxlPort (s : State) (a : Nat) : Option Nat :=
  (s.decoders.find? (fun d => decide (d.1 ≤ a) && decide (a < d.1 + d.2.1))).map (·.2.2)

/-- Whether a use reaches a target type at all (R151). Stores and atomics on sync pages go on to their own trap. -/
def Use.admits (u : Use) (ty : Nat) : Bool :=
  match u with
  | .object => ty == 6
  | .probe => ty != 7
  | .load n | .store n => decide (ty < 5) || ty == 6 || (ty == 5 && n == 4)
  | .atomic => decide (ty < 5) || ty == 6
  | .engineRead | .engineWrite => decide (ty < 5)

/-- The location that a leaf's target type gives (R151, R370, R379, R386). -/
def State.target (s : State) (w : Walker) (u : Use) (l : Leaf) (va : Nat) : Xlat :=
  let ty := field l.value 4 2
  let ar := l.address va
  let node := field l.value 63 56
  let ok := fun (loc : Nat) => Xlat.ok ⟨loc, ty, bit l.value 8, node, l.walk, ar.2⟩
  if !u.admits ty then .fault .targetType
  else if 4 ≤ ty ∧ l.size ≠ 4096 then .fault .targetType
  else if 4 ≤ ty ∧ l.tile.isSome then .fault .targetType
  else
    match ty with
    | 0 => if s.hbmOk ar.1 then ok (hbmLoc ar.1) else .fault .targetType
    | 1 =>
      match s.cxlPort ar.1 with
      | none => .fault .targetType
      | some p => if field (s.mapWord (0x4000 + 13 + p)) 2 0 = 0 then .fault .remoteUnreachable else ok (cxlLoc ar.1)
    | 2 => if s.atsDenied.contains (w.ctx, ar.1 / 4096) then .fault .pageProtection else ok (hostLoc ar.1)
    | 3 =>
      match s.peerState node with
      | 1 => if s.peerDenied.contains (node, ar.1 / 4096) then .fault .pageProtection else ok (peerLoc node ar.1)
      | 2 => .wait (.peer node)
      | _ => .fault .remoteUnreachable
    | 4 =>
      let page := field l.value 21 12
      let core := field l.value 31 22
      let row := spadRow (page * 4096 + va % 4096)
      if field l.value 51 32 ≠ 0 ∨ 768 ≤ page ∨ !s.coreLive core ∨ 2 * page < s.partRow0 w.part
          ∨ s.partRow0 w.part + s.partRows w.part < 2 * page + 2 ∨ s.setAside core row then .fault .targetType
      else .ok ⟨spadLoc core (page * 4096 + va % 4096), ty, bit l.value 8, node, l.walk, 2048 - va % 2048⟩
    | 5 =>
      if field l.value 51 32 ≠ 0 ∨ !(s.ctx w.ctx).grants.contains (field l.value 31 12) then .fault .targetType
      else ok (5 * 2 ^ 72 + field l.value 31 12 * 4096 + va % 4096)
    | 6 => if s.hbmOk ar.1 then ok (hbmLoc ar.1) else .fault .targetType
    | _ => .fault .targetType

/-- The translation of one access of `size` bytes: canonical form, alignment, walk, migration, permission, type
(R149-R153, R211); a migrating page is waited for before its permissions are tested (log 135, DEDUCED, unsafe). -/
def State.translate (s : State) (w : Walker) (u : Use) (va size : Nat) : Xlat :=
  if !canonical va then .fault .pageProtection
  else if va % size ≠ 0 then .fault .misaligned
  else
    match walkFrom s w va 5 (s.ctx w.ctx).root [] with
    | .error c => .fault c
    | .ok l =>
      if bit l.value 11 then .wait (.migrate ((l.walk.getLast?.map (·.loc)).getD 0))
      else if !l.permits w u then .fault .pageProtection
      else s.target w u l va

/-- The units in which a walker's accesses count: a party's, or an engine's tile and the device (R361). -/
def Walker.units (w : Walker) : List (Nat × Nat) :=
  match w.who, w.tlbs with
  | some gid, _ => [(0, coreUnit gid), (1, gidCluster gid), (2, gidCluster gid / 18), (3, 0)]
  | none, k :: _ => if 300 ≤ k then [(2, (k - 300) / 16), (3, 0)] else []
  | none, [] => []

/-- What an access through a target counts (R361): a miss of its first TLB and a walk where the entry is in neither TLB; how often an
entry that the TLBs may still hold is missed, how long the banks of a scratchpad take, and which accesses of HBM share 64 bytes the
spec does not state, and those counts are free for each access (log 25, DEDUCED, safe). -/
def State.countAccess (s : State) (w : Walker) (t : Target) (write : Bool) : State :=
  let free := fun (j : Nat) => Config.freeNat (s.freeCtr + j) % 2
  let held := fun (k : Nat) => match t.walk.getLast? with
    | some e => s.tlb.any (fun f => f.tlb == k && f.ctx == w.ctx && f.loc == e.loc)
    | none => true
  let miss := match w.tlbs with | k :: _ => if held k then free 0 else 1 | [] => 0
  let walk := if w.tlbs.any held then miss * free 1 else miss
  let s0 := { s with freeCtr := s.freeCtr + 4 }
  let s1 := if t.walk.isEmpty then s0 else (s0.countIn w.part w.units 6 miss).countIn w.part w.units 7 walk
  if t.ty = 4 then s1.countIn w.part w.units 8 (Config.freeNat (s.freeCtr + 2))
  else if t.ty = 0 then s1.countIn w.part w.units (if write then 14 else 13) (free 3)
  else s1

/-- The TLBs of a walker take the entries of a walk, as it used them; other forms of an entry stay cached until a `TLBI`. When a TLB gives
up an entry the spec does not say, so every entry may still be there (R154, log 148, DESIGN CHOICE, safe). -/
def State.cacheEntries (s : State) (w : Walker) (va : Nat) (es : List WalkEntry) : State :=
  let fresh := w.tlbs.flatMap (fun k => ((List.range es.length).zip es).map (fun e =>
    (⟨k, w.ctx, va / 4096, 4 - e.1, e.2.loc, e.2.value, e.2.desc⟩ : TlbEntry)))
  let same := fun (f e : TlbEntry) => f.tlb == e.tlb && f.ctx == e.ctx && f.loc == e.loc
    && (⟨f.loc, f.value, f.desc⟩ : WalkEntry).like ⟨e.loc, e.value, e.desc⟩
  let s1 := if es.all (fun e => (s.staleForms w e.loc).isEmpty) then s else s.draw
  { s1 with tlb := fresh ++ s.tlb.filter (fun e => !fresh.any (fun f => same f e)) }

/-- The entries that a walk meets, from level `lvl` down, as far as it comes (R149, R150). -/
def State.entriesMet (s : State) (w : Walker) (va : Nat) : Nat → Nat → List WalkEntry
  | 0, _ => []
  | lvl + 1, b =>
    let e := s.pte w (hbmLoc (b + 8 * (va / 2 ^ (12 + 9 * lvl) % 512)))
    if !s.hbmOk b || field e.value 1 0 == 0 then []
    else e :: (if field e.value 1 0 = 1 ∧ lvl ≠ 0 then s.entriesMet w va lvl (field e.value 51 12 * 2 ^ 12) else [])

/-- Accesses that do not perform leave in the TLBs what they have translated through, and no mark in the tables (R150, R154). -/
def State.cacheWalks (s : State) (w : Walker) (vas : List Nat) : State :=
  vas.foldl (fun s va => if canonical va then s.cacheEntries w va (s.entriesMet w va 5 (s.ctx w.ctx).root) else s) s

/-- What an access that performs leaves of its walk: the accessed and dirty bits of the entries, the entries cached, and what it
counts (R150, R154, R361). -/
def State.touchWalk (s : State) (w : Walker) (va : Nat) (t : Target) (write : Bool) : State :=
  let n := t.walk.length
  let upd := (List.range n).zip t.walk
  let s1 := upd.foldl (fun s e =>
    let loc := e.2.loc
    let old := (Memory.read s.mem (loc + 1)).toNat
    let new := setField old 1 1 1
    let new := if write ∧ e.1 + 1 = n then setField new 2 2 1 else new
    if new = old then s else { s with mem := Memory.write s.mem (loc + 1) (BitVec.ofNat 8 new) }) s
  (s1.countAccess w t write).cacheEntries w va t.walk

/-- The walker of a group or MCC: its cluster's TLB and its tile's (R154). -/
def Ex.walker (x : Ex) : Walker :=
  { ctx := x.ctxId, part := x.part, user := !x.sup, tlbs := [x.cluster, 200 + x.cluster / 18], who := some x.gid }

/-- The walker of engine `k` for a context: its accesses are checked as those of user mode (log 136, DEDUCED, unsafe). -/
def engineWalker (s : State) (k ctx : Nat) : Walker :=
  { ctx := ctx, part := (s.ctx ctx).part, user := true, tlbs := [300 + k, 200 + k / 16], who := none }

/-- The walker of the matrix queue of cluster `c`. -/
def queueWalker (s : State) (c ctx : Nat) : Walker :=
  { ctx := ctx, part := (s.ctx ctx).part, user := true, tlbs := [c, 200 + c / 18], who := some (gidOf c 64) }

/-- A page of local HBM that some live context maps with target type 6, whatever maps it for the access at hand (R176; log 145, DEDUCED, unsafe). -/
def State.syncPage (s : State) (loc : Nat) : Bool :=
  s.ctxs.any (fun c => c.2.live && (s.leaves c.1).any (fun e =>
    e.1 == 0 && field e.2.2 4 2 == 6 && e.2.2 % 4 == 2 && hbmLoc (field e.2.2 51 12 * 2 ^ 12) == loc / 4096 * 4096))

/-- Whether some granule of `n` bytes at a location is sync-typed (R176). -/
def State.isSync (s : State) (loc n : Nat) : Bool :=
  (granules loc n).any (fun g => s.sync.contains (g / 32) || (decide (g < 2 ^ 64) && s.syncPage g))

/-- Some of the `n` bytes from a virtual address on lie at a location, for a context; `fuel` bounds the pieces (R150, R153). -/
def State.leadsTo (s : State) (w : Walker) (loc : Nat) : Nat → Nat → Nat → Bool
  | 0, _, _ => false
  | fuel + 1, va, n =>
    match s.translate w .probe (va % 2 ^ 64) 1 with
    | .ok t =>
      let r := min n (max 1 t.run)
      (decide (t.loc ≤ loc) && decide (loc < t.loc + r)) || (decide (r < n) && s.leadsTo w loc fuel (va + r) (n - r))
    | _ =>
      let r := 4096 - va % 4096
      decide (r < n) && s.leadsTo w loc fuel (va + r) (n - r)

/-- A CHECKED tray's slots hold a location now (R165, R177). -/
def State.inSlots (s : State) (h ctx loc : Nat) : Bool :=
  let b := natLE (Memory.load s.mem (h + 0x20) 4) + 2 ^ 32 * field (s.word32 (h + 0x24)) 24 0
  let n := (field (s.word32 (h + 0x10)) 7 0 + 1) * (field (s.word32 (h + 0x14)) 15 0 * 64)
  s.leadsTo { ctx := ctx, part := (s.ctx ctx).part, user := false, tlbs := [], who := none } loc (n / 16 + 2) (wrapNat 64 (signed 57 b)) n

/-- Whether an access through a target is checked (R177). -/
def State.isChecked (s : State) (t : Target) : Bool :=
  t.ty == 4 || t.chk || s.checkedAreas.any (fun a => s.inSlots a.1 a.2 t.loc)

end Sys2Proof.Machine
end

