-- ==== Sys2Proof/Machine/Tray.lean ====
section
/-! DEFINITION. Tray headers in memory and what is done to them: claim, fill, release, decision and resolution
(R165-R174), and sync address words (R205). A tray is named by the location of its header. -/
namespace Sys2Proof.Machine

/-- A header word (R165). -/
def State.hdr (s : State) (h off : Nat) : Nat := s.word32 (h + off)

/-- Writes a header word; only tray operations do (R176). -/
def State.setHdr (s : State) (h off v : Nat) : State := { s with mem := Memory.store s.mem (h + off) (bytesLE 4 v) }

def State.trFilled (s : State) (h : Nat) : Nat := s.hdr h 0x00
def State.trReleased (s : State) (h : Nat) : Nat := s.hdr h 0x04
def State.trClaimed (s : State) (h : Nat) : Nat := s.hdr h 0x08
def State.trSeq (s : State) (h : Nat) : Nat := s.hdr h 0x0C
def State.trResolved (s : State) (h : Nat) : Nat := s.hdr h 0x1C
def State.trCount (s : State) (h : Nat) : Nat := field (s.hdr h 0x10) 7 0 + 1
def State.trWindow (s : State) (h : Nat) : Nat := field (s.hdr h 0x10) 14 8
def State.trSize (s : State) (h : Nat) : Nat := field (s.hdr h 0x14) 15 0 * 64
def State.trHold (s : State) (h : Nat) : Bool := bit (s.hdr h 0x18) 0
def State.trFinal (s : State) (h : Nat) : Bool := bit (s.hdr h 0x18) 1
def State.trLoc (s : State) (h : Nat) : Bool := bit (s.hdr h 0x18) 3
def State.trOwner (s : State) (h : Nat) : Nat := field (s.hdr h 0x18) 11 8
def State.trHolder (s : State) (h : Nat) : Nat := field (s.hdr h 0x18) 15 12
/-- The slot base: an allotment offset, or 57 bits of a canonical virtual address. -/
def State.trBase (s : State) (h : Nat) : Nat :=
  let b := s.hdr h 0x20 + 2 ^ 32 * field (s.hdr h 0x24) 24 0
  if s.trLoc h then b else wrapNat 64 (signed 57 b)

/-- a - b modulo 2^32. -/
def sub32 (a b : Nat) : Nat := (a + 2 ^ 32 - b % 2 ^ 32) % 2 ^ 32

/-- Whether an index is behind released (R221). -/
def State.trBehind (s : State) (h i : Nat) : Bool := decide (2 ^ 31 ≤ sub32 i (s.trReleased h))

/-- Whether released ≤ i < n, modulo 2^32 relative to released (R165, R226). -/
def State.trBelow (s : State) (h i n : Nat) : Bool := decide (sub32 i (s.trReleased h) < sub32 n (s.trReleased h))

/-- The state code of an index; consulted only for released ≤ i < claimed, every other index is EMPTY (R165, R166). -/
def State.trState (s : State) (h i : Nat) : Nat :=
  if s.trBelow h i (s.trClaimed h) then natLE (Memory.load s.mem (h + 0x28) 24) / 2 ^ (3 * (i % 64)) % 8 else 0

/-- Writes the state bits of an index. -/
def State.setTrState (s : State) (h i st : Nat) : State :=
  let v := natLE (Memory.load s.mem (h + 0x28) 24)
  { s with mem := Memory.store s.mem (h + 0x28) (bytesLE 24 (setField v (3 * (i % 64) + 2) (3 * (i % 64)) st)) }

/-- The slot-state codes of R166. -/
def slotEmpty : Nat := 0
def slotClaimed : Nat := 1
def slotFilled : Nat := 2
def slotHeld : Nat := 3
def slotOpen : Nat := 4
def slotVetoed : Nat := 5
def slotHeldOpen : Nat := 6
def slotHeldVeto : Nat := 7

/-- The keys under which releases through a tray are kept: fills by index, releases by index, and those that have made
room (R183, R184). -/
def fillKey (h i : Nat) : Nat := (2 * (i % 2 ^ 32) + 1) * 2 ^ 90 + h
def freeKey (h i : Nat) : Nat := (2 * (i % 2 ^ 32) + 2) * 2 ^ 90 + h
def roomKey (h : Nat) : Nat := 2 ^ 130 + h

/-- filled advances past every index below claimed that is neither CLAIMED nor an unclaimed EMPTY (R168). -/
def advanceFilled (h : Nat) : Nat → State → State
  | 0, s => s
  | n + 1, s =>
    let f := s.trFilled h
    if f = s.trClaimed h ∨ s.trState h f = slotClaimed then s else advanceFilled h n (s.setHdr h 0x00 ((f + 1) % 2 ^ 32))

/-- released advances past every index below claimed whose state is EMPTY (R170). -/
def advanceReleased (h : Nat) : Nat → State → State
  | 0, s => s
  | n + 1, s =>
    let r := s.trReleased h
    if r = s.trClaimed h ∨ s.trState h r ≠ slotEmpty then s
    else advanceReleased h n (s.setHdr h 0x04 ((r + 1) % 2 ^ 32))

/-- Whether a decided slot of a FINAL_HOLD tray is proofed (R172). -/
def State.isProofed (s : State) (h i : Nat) : Bool := s.proofed.contains (h, i)

/-- Resolution (R171); a slot that a failed scan vetoes resolves as VETOED, whatever the holder decided (R172). -/
def resolveTray (h : Nat) : Nat → State → State
  | 0, s => s
  | n + 1, s =>
    let i := s.trResolved h
    if i = s.trFilled h then s
    else
      let st := s.trState h i
      let on := fun (code : Nat) => resolveTray h n ((s.setTrState h i code).setHdr h 0x1C ((i + 1) % 2 ^ 32))
      if s.vetoed.contains (h, i) ∨ st = slotHeldVeto then on slotVetoed
      else if st = slotHeldOpen ∧ (!s.trFinal h ∨ s.isProofed h i) then on slotOpen
      else s

/-- A claim: the index received and the state after it, or none while the window is full (R167). The releases that have
made room for index i are those of the indices up to i - W (R183, R184). -/
def State.claim (s : State) (h : Nat) : Option (Nat × State) :=
  let i := s.trClaimed h
  let j := sub32 i (s.trWindow h)
  if sub32 i (s.trReleased h) < s.trWindow h then
    let room := s.relsAt (freeKey h j) ++ s.relsAt (roomKey h)
    let s1 := { (s.setHdr h 0x08 ((i + 1) % 2 ^ 32)).setTrState h i slotClaimed with
      rels := Tab.put (Tab.del (Tab.del s.rels (fillKey h i)) (freeKey h j)) (roomKey h) room,
      fills := s.fills.filter (fun e => e.1 != h || e.2.1 != i), proofed := s.proofed.filter (fun e => e != (h, i)),
      vetoed := s.vetoed.filter (fun e => e != (h, i)) }
    some (i, s1)
  else none

/-- A fill of a CLAIMED index that cluster `c` produced, a release of `r`, recorded in the grid's replay log (R168, R172, R356). -/
def State.fillSlot (s : State) (h i c : Nat) (r : Release) : State :=
  let s1 := s.setTrState h i (if s.trHold h then slotHeld else slotFilled)
  let s2 := if s.trFinal h then { s1 with fills := (h, i, c, (s1.cluster c).scans) :: s1.fills } else s1
  let s3 := advanceFilled h 65 ((s2.addRel (fillKey h i) r).logFill h i r)
  if s3.trHold h then resolveTray h 65 s3 else s3

/-- A release of an index (R170). -/
def State.releaseSlot (s : State) (h i : Nat) (r : Release) : State :=
  advanceReleased h 65 ((s.setTrState h i slotEmpty).addRel (freeKey h i) r)

/-- Whether the state of an index admits `TRR` (R170, R227). -/
def State.canRelease (s : State) (h i : Nat) : Bool :=
  !s.trBehind h i &&
    (let st := s.trState h i
     if s.trHold h then st == slotOpen || st == slotVetoed else st == slotFilled)

/-- A tray is registered for egress, and no `TRR` releases its slots (R373). -/
def State.egressOn (s : State) (h : Nat) : Bool := s.egresses.any (fun e => e.2.live && e.2.tray == h)

/-- Whether a wait for an index in view 0 has its condition (R169, R226). -/
def State.waitDone (s : State) (h i : Nat) (view : Bool) : Bool :=
  s.trBehind h i ||
    (if s.trHold h then s.trBelow h i (if view then s.trFilled h else s.trResolved h) else s.trState h i == slotFilled)

/-- The code that a returning wait writes (R226). -/
def State.waitCode (s : State) (h i : Nat) : Nat := if s.trBehind h i then 0 else s.trState h i

/-- The pages of an area of virtual addresses. -/
def pagesOf (base n : Nat) : List Nat := (List.range ((base + n - 1) / 4096 + 1 - base / 4096)).map (fun j => (base / 4096 + j) * 4096)

/-- The address of the slot that index `i` uses (R165). -/
def State.slotAt (s : State) (h i : Nat) : Nat := s.trBase h + i % 2 ^ 32 % s.trCount h * s.trSize h

/-- Where the pages of the slot of an index lead; none for a tray in an allotment (R165). -/
def State.slotTargets (s : State) (w : Walker) (h i : Nat) : List Xlat :=
  if s.trLoc h then []
  else
    let a := s.slotAt h i
    (pagesOf a (s.trSize h)).map (fun va => s.translate w .probe (max va a % 2 ^ 64) 1)

/-- An ordered access below the scope that its target type needs (R180). -/
def scopeLow (ty scope : Nat) : Bool := ((ty == 2 || ty == 3) && decide (scope < 3)) || (ty == 1 && decide (scope < 2))

/-- A scope is too low for the slot of an index, which a tray instruction names: its header always lies in local HBM (R165, R180,
log 123, DEDUCED, unsafe). -/
def State.slotScopeLow (s : State) (w : Walker) (h i scope : Nat) : Bool :=
  (s.slotTargets w h i).any (fun x => match x with | .ok t => scopeLow t.ty scope | _ => false)

/-- The node that is RECOVERING in whose memory the slot of an index lies, if it does (R314, log 124, DEDUCED, unsafe). -/
def State.slotPeer (s : State) (w : Walker) (h i : Nat) : Option Nat :=
  (s.slotTargets w h i).findSome? (fun x => match x with | .wait (.peer n) => some n | _ => none)

/-- Where a team's allotment lies. -/
structure Allot where
  core : Nat
  row0 : Nat
  rows : Nat
deriving DecidableEq, Repr

/-- The location of an allotment offset, in the row that lies as far into the allotment's rows (R145, R147). -/
def Allot.loc (a : Allot) (off : Nat) : Nat := spadLoc a.core (a.row0 * 2048 + off)

/-- A team's allotment. -/
def Team.allot (t : Team) : Allot := ⟨t.core, t.row0, t.rows⟩

/-- The end of a look-up of a sync address word: a location, a trap with its address, or a wait. -/
inductive Place where
  | at (loc : Nat)
  | fault (c : Cause) (addr : Nat)
  | wait (w : Wait)
deriving DecidableEq, Repr

/-- A target of translation as a place. -/
def Xlat.place (x : Xlat) (va : Nat) : Place :=
  match x with
  | .ok t => .at t.loc
  | .fault c => .fault c va
  | .wait w => .wait w

/-- The object that a sync address word names: `size` bytes aligned to `align`, in the allotment given (none on the
MCC) or in a sync page (R205, R207, R217); its alignment and view are tested before its place (log 157, DESIGN CHOICE, unsafe). -/
def State.object (s : State) (w : Walker) (al : Option Allot) (word : Nat) (align size : Nat) (view : Bool) : Place :=
  let a := word / 4 * 4
  if (bit word 1 && !view) || a % align != 0 then .fault .misaligned a
  else if bit word 0 then
    match al with
    | none => .fault .spadBounds (a % 2 ^ 32)
    | some t =>
      if 2 ^ 32 ≤ word ∨ t.rows * 2048 < a + size then .fault .spadBounds (a % 2 ^ 32) else .at (t.loc a)
  else (s.translate w .object a 4).place a

/-- The initialised tray that a header location names, for a partition (R221). -/
def State.trayOk (s : State) (h part : Nat) : Bool :=
  s.trays.contains h && (s.trOwner h == part || s.trHolder h == part)

end Sys2Proof.Machine
end

