-- ==== Sys2Proof/Machine/Updates.lean ====
section
/-! DEFINITION. The atomic step on a word of memory (R213), and the combining uses: `com` updates on their way to the
location and the `qnt` buffers of the clusters (R191-R193). Which updates are merged on the way, and in which order they
arrive, are free choices (log 17, DESIGN CHOICE, safe). -/
namespace Sys2Proof.Machine

/-- The new value of a word under an atomic operation: the operand is `v`, and `c` the compare value of `cas` (R213). -/
def atmWord (op : AtmOp) (ty rnd : Nat) (m v c : Nat) : Nat :=
  let lt := if ty = 0 then decide (signed 32 m < signed 32 v) else decide (m < v)
  match op with
  | .add =>
    if ty = 2 then (Fmt.f32.encode ⟨rnd, false, 0⟩ (Num.add rnd (Fmt.f32.decode m) (Fmt.f32.decode v)).1).1
    else (m + v) % 2 ^ 32
  | .min => if ty = 2 then (minMax .f32 false m v).1 else if lt then m else v
  | .max => if ty = 2 then (minMax .f32 true m v).1 else if lt then v else m
  | .and_ => m &&& v
  | .or_ => m ||| v
  | .xor_ => m ^^^ v
  | .xchg => v
  | .cas => if m = c then v else m

/-- Writes a word of memory. -/
def State.setWord32 (s : State) (loc v : Nat) : State := s.storeBytes loc (bytesLE 4 v)

/-- Applies one whole update to its location in one step (R192); it ends release sequences there (R184). A poisoned word
keeps its mark, since what the update would make of it has none of its data (R350). -/
def State.applyUpdate (s : State) (u : ComUpdate) : State :=
  let t := if s.poisoned u.loc 4 then s else s.setWord32 u.loc (atmWord u.op u.ty u.round (s.word32 u.loc) u.v.toNat 0)
  t.endRels u.loc 4

/-- Merges two whole updates into one (R192). -/
def ComUpdate.merge (u w : ComUpdate) : ComUpdate := { u with v := word (atmWord u.op u.ty u.round u.v.toNat w.v.toNat 0) }

/-- Whether two updates may be merged: one location, one operation, type and rounding. -/
def ComUpdate.like (u w : ComUpdate) : Bool := u.loc == w.loc && u.op == w.op && u.ty == w.ty && u.round == w.round

/-- The combining entries of a granule after an update of party `q` there has been performed: those of its cluster whose slot, or, once the
set is kept as maxima, whose cluster has no update left on its way take the cluster's count as it now is (R186 item 3, R192, R198, R199). -/
def State.stampPerformed (s : State) (q : Party) (loc : Nat) : State :=
  match q with
  | .core gid =>
    let c := gidCluster gid
    let e := s.stampAt loc
    let left := fun (sl : Nat) => s.coms.any (fun w => w.loc / 32 == loc / 32 && (match w.party with
      | .core h => gidCluster h == c && (e.overflow || gidSlot h == sl)
      | _ => false))
    let now := fun (m : Stamper × Mark) => match m with
      | (.core p d sl ep k, .combining) =>
        if d = c ∧ k = pendingCount ∧ !left sl then (.core p d sl ep (s.cluster c).kcount, .combining) else m
      | _ => m
    if e.set.isEmpty then s else { s with stamps := Tab.put s.stamps (loc / 32) { e with set := e.set.map now } }
  | _ => s

/-- What an update takes with it on its way: each time, a free choice of the pending updates that are like it, or none (R192). -/
def absorb : Nat → State → ComUpdate → State × ComUpdate
  | 0, s, u => (s, u)
  | n + 1, s, u =>
    let like := s.coms.filter u.like
    match like[Config.freeNat s.freeCtr % (like.length + 1)]? with
    | some w => absorb n (({ s.draw with coms := s.coms.erase w } : State).stampPerformed w.party w.loc) (u.merge w)
    | none => (s.draw, u)

/-- Performs the pending `com` updates that `p` selects, in a free order; an update may on its way be merged with any
other pending updates that are like it, and they are performed as one (R191, R192). -/
def performComs (p : ComUpdate → Bool) : Nat → State → State
  | 0, s => s
  | n + 1, s =>
    let mine := s.coms.filter p
    match mine[Config.freeNat s.freeCtr % mine.length]? with
    | none => s
    | some u =>
      let r := absorb s.coms.length (({ s.draw with coms := s.coms.erase u } : State).stampPerformed u.party u.loc) u
      performComs p n (r.1.applyUpdate r.2)

/-- Performs every pending `com` update of a party (R191). -/
def State.performOf (s : State) (q : Party) : State := performComs (fun u => u.party == q) s.coms.length s

/-- A buffer's updates combined into the location in one step, in a free grouping (R193). -/
def State.flushBuf (s : State) (b : QntBuf) : State :=
  match b.updates with
  | [] => s
  | u :: us =>
    if us.all u.like && Config.freeBool s.freeCtr then (s.draw).applyUpdate (us.foldl ComUpdate.merge u)
    else b.updates.foldl State.applyUpdate s.draw

/-- Flushes every `qnt` buffer of a cluster (R193, R216). -/
def State.flushQnt (s : State) (c : Nat) : State :=
  let cl := s.cluster c
  if cl.qnt.isEmpty then s
  else (cl.qnt.foldl State.flushBuf (s.setCluster c { cl with qnt := [] }))

/-- Flushes the `qnt` buffers of a cluster that hold updates of a party (R193). -/
def State.flushOf (s : State) (q : Party) (c : Nat) : State :=
  let cl := s.cluster c
  let mine := fun (b : QntBuf) => b.updates.any (fun u => u.party == q)
  if cl.qnt.any mine then (cl.qnt.filter mine).foldl State.flushBuf (s.setCluster c { cl with qnt := cl.qnt.filter (fun b => !mine b) }) else s

/-- The value at a location combined with a cluster's own buffer (R193). -/
def State.qntRead (s : State) (c loc : Nat) : Nat :=
  match (s.cluster c).qnt.find? (fun b => b.loc == loc) with
  | none => s.word32 loc
  | some b => b.updates.foldl (fun m u => atmWord u.op u.ty u.round m u.v.toNat 0 % 2 ^ 32) (s.word32 loc)

/-- The limit of a `qnt` buffer (R193). -/
def qmax : Nat := 256

/-- What an access of party `q` to `n` bytes finds performed before it: the party's own combining updates there, in program
order (R181), and whichever of the pending `com` updates of others have arrived (R192). -/
def State.arrive (s : State) (q : Party) (c loc n : Nat) : State :=
  let here := fun (u : ComUpdate) => decide (u.loc < loc + n) && decide (loc < u.loc + 4)
  let touched := s.coms.filter here
  let s1 := if touched.isEmpty then s
    else
      let fs := (List.range touched.length).map (fun j => Config.freeBool (s.freeCtr + j))
      let come := (touched.zip fs).filter (fun e => e.1.party == q || e.2) |>.map (·.1)
      performComs come.contains come.length { s with freeCtr := s.freeCtr + touched.length }
  let cl := s1.cluster c
  let mine := fun (b : QntBuf) => decide (b.loc < loc + n) && decide (loc < b.loc + 4) && b.updates.any (fun u => u.party == q)
  let bs := cl.qnt.filter mine
  if bs.isEmpty then s1
  else bs.foldl State.flushBuf (s1.setCluster c { cl with qnt := cl.qnt.filter (fun b => !mine b) })

/-- Takes an update into the cluster's buffer, which is flushed when it has taken QMAX updates (R193). -/
def State.qntAdd (s : State) (c : Nat) (u : ComUpdate) : State :=
  let cl := s.cluster c
  let b := (cl.qnt.find? (fun b => b.loc == u.loc)).getD ⟨u.loc, []⟩
  let b1 : QntBuf := { b with updates := b.updates ++ [u] }
  let rest := cl.qnt.filter (fun b => b.loc != u.loc)
  if qmax ≤ b1.updates.length then (s.setCluster c { cl with qnt := rest }).flushBuf b1
  else s.setCluster c { cl with qnt := rest ++ [b1] }

/-- What precedes a release of a group or MCC: its `com` updates are performed, and at `clu` scope or wider its cluster's
`qnt` buffers are flushed (R191, R193). -/
def State.beforeRelease (s : State) (gid scope : Nat) : State :=
  let s1 := s.performOf (.core gid)
  if 1 ≤ scope then s1.flushQnt (gidCluster gid) else s1

/-- A release by engine `k` while it works for a team of a cluster (R198); at `clu` scope or wider it flushes the `qnt`
buffers of its home cluster, whose party it is (R178, R193). -/
def engineRelease (s : State) (k team scope : Nat) (v : Vecs) : State × Release :=
  let s1 := if 1 ≤ scope then s.flushQnt v.home else s
  let r : Release := { party := .engine k, scope := scope, team := team,
                       vecs := { v with e := Tab.put v.e k (s1.engine k).count } }
  (s1.riseN k, r)

/-- The write of an `spc` atomic as the release that an earlier fence at a scope makes it: it carries what the fence published, so that it
orders what precedes the fence; like every release it flushes first and raises the counts after (R185, R191, R193, R198, log 48, DEDUCED, unsafe). -/
def Ex.fenced (x : Ex) (q : Release) : Ex × Release :=
  let s1 := ((x.s.beforeRelease x.gid q.scope).noteSlot x.gid q).riseEpoch x.gid
  ({ x with s := if 2 ≤ q.scope then s1.riseK x.cluster else s1 }, q)

/-- The releases that an `spc` atomic's write is, one for each scope at which a fence came before it (R185). -/
def Ex.fencedAll (x : Ex) : Ex × List Release :=
  x.g.fences.foldl (fun (acc : Ex × List Release) q => let r := acc.1.fenced q; (r.1, acc.2 ++ [r.2])) (x, [])

/-- A release by the issuing party at a scope (R183). -/
def Ex.release (x : Ex) (scope : Nat) : Ex × Release :=
  let r := releaseBy (x.s.beforeRelease x.gid scope) x.gid x.teamId scope x.g.vecs
  ({ x with s := r.1 }, r.2)

/-- An acquire by the issuing party of the releases given (R183, R184). -/
def Ex.acquire (x : Ex) (scope : Nat) (rs : List Release) : Ex :=
  { x with g := { x.g with vecs := acquireAll { x.g.vecs with home := x.cluster } (.core x.gid) x.teamId scope rs } }

/-- The issuing party in a race test. -/
def Ex.tester (x : Ex) : Tester := testerCore x.s x.part x.gid x.g.vecs

end Sys2Proof.Machine
end

