-- ==== Sys2Proof/Machine/EngineWork.lean ====
section
/-! DEFINITION. What a stream engine holds for a team (R238): the place of its tray and slots, its vectors, the status
record of a copy (R237), and what becomes of its work when it is abandoned or its grid ends (R245, R246). -/
namespace Sys2Proof.Machine

/-- A team's allotment, until it retires; the MCC, whose children are kept as those of team 255 of its gang, has none (R207). -/
def State.teamAllot (s : State) (gang team : Nat) : Option Allot :=
  if team = 255 then none else (Tab.find s.teams (teamKey gang team)).bind (fun t => if t.done then none else some t.allot)

/-- One access of `n` bytes at an allotment offset or a virtual address (R146, R211). -/
def State.access (s : State) (w : Walker) (al : Option Allot) (inSpad : Bool) (addr : Nat) (u : Use) (n : Nat) : Xlat :=
  if inSpad then
    match al with
    | none => .fault .spadBounds
    | some a =>
      if addr % n ≠ 0 then .fault .misaligned
      else if a.rows * 2048 < addr + n then .fault .spadBounds
      else .ok ⟨a.loc addr, 4, false, 0, [], a.rows * 2048 - addr⟩
  else s.translate w u addr n

/-- The vectors of engine `k` in the work of a list or copy: its own X and E, with the L it was given (R198). -/
def engineVecs (s : State) (k : Nat) (given : Vecs) : Vecs :=
  { home := given.home, l := given.l, x := (s.engine k).vecs.x, e := (s.engine k).vecs.e }

/-- The status record of a copy (R237). -/
def statusRecord (status written version : Nat) : List Byte :=
  bytesLE 4 status ++ bytesLE 4 written ++ bytesLE 8 version ++ List.replicate 48 0

/-- The entries of a tray header's page that an engine's operation on the tray uses are marked and cached, and its gang is a user of the
tray (R150, R154, R358; log 144, DEDUCED, unsafe). -/
def State.touchTray (s : State) (k ctx gang tray : Nat) (write : Bool) : State :=
  if bit tray 0 then s
  else
    match s.translate (engineWalker s k ctx) .object (tray / 4 * 4) 4 with
    | .ok t => (s.touchWalk (engineWalker s k ctx) (tray / 4 * 4) t write).useObject gang t.loc
    | _ => s

/-- Engine `k` fills an index that it has claimed, which is the release `r`; whoever observes the fill pairs with `others` too (R168,
R183, log 125, DEDUCED, unsafe). -/
def State.engineFill (s : State) (k ctx tray h i issuer : Nat) (others : List Release) (r : Release) : State :=
  (others.foldl (fun s q => s.addRel (fillKey h i) q) (s.touchTray k ctx (r.team / 256) tray true)).fillSlot h i (gidCluster issuer) r

/-- Stores bytes a word at a time where the accesses lead; a word whose access faults or races is not stored (R201). -/
def State.storeWords (s : State) (w : Walker) (al : Option Allot) (inSpad : Bool) (t : Tester) : Nat → List Byte → State
  | addr, a :: b :: c :: d :: bs =>
    let s1 := match s.access w al inSpad addr .engineWrite 4 with
      | .ok g =>
        if s.isSync g.loc 4 || (s.raceTest t .write (s.isChecked g) g.loc 4).isSome then s
        else (((s.endRels g.loc 4).storeBytes g.loc [a, b, c, d]).touchWalk w addr g true).stampAccess t .write (s.isChecked g) g.loc 4
      | _ => s
    s1.storeWords w al inSpad t (addr + 4) bs
  | _, _ => s

/-- Abandoned work fills the slot that it has claimed, a copy with a status record that has the elements written and the version
compared (R237, R245). -/
def State.fillAbandoned (s : State) (k ctx gang team tray scope issuer : Nat) (given : Vecs) (slot : Option Word)
    (others : List Release) (status : Option (Nat × Nat)) : State :=
  match slot with
  | none => s
  | some i =>
    let w := engineWalker s k ctx
    let al := s.teamAllot gang team
    match s.object w al tray 64 64 false with
    | .at h =>
      if s.trayOk h w.part && s.trState h i.toNat == slotClaimed then
        let v := engineVecs s k given
        let s1 := match status with
          | some (written, version) =>
            s.storeWords w al (s.trLoc h) (testerEngine s w.part given.home k v) (s.slotAt h i.toNat) (statusRecord 2 written version)
          | none => s
        let r := engineRelease s1 k (teamKey gang team) scope v
        r.1.engineFill k ctx tray h i.toNat issuer others r.2
      else s
    | _ => s

/-- An engine with those of its lists and copies that stay; the turn stays with the job that has it (R238). -/
def Engine.keep (e : Engine) (pl : SList → Bool) (pc : Copy → Bool) : Engine :=
  { e with lists := e.lists.filter pl, copies := e.copies.filter pc,
           next := ((e.lists.take e.next).filter pl).length + ((e.copies.take (e.next - e.lists.length)).filter pc).length }

/-- An engine with one more list; the turn stays with the job that has it (R238). -/
def Engine.addList (e : Engine) (l : SList) : Engine :=
  { e with lists := e.lists ++ [l], next := if e.lists.length ≤ e.next ∧ !e.copies.isEmpty then e.next + 1 else e.next }

/-- An engine without a list. -/
def Engine.dropList (e : Engine) (l : SList) : Engine := e.keep (fun m => m.serial != l.serial || m.ctx != l.ctx) (fun _ => true)

/-- An engine without a copy. -/
def Engine.dropCopy (e : Engine) (c : Copy) : Engine := e.keep (fun _ => true) (fun m => m.serial != c.serial || m.ctx != c.ctx)

/-- Abandons a list: its slot is filled, and its place on the engine is free (R245). -/
def State.abandonList (s : State) (k : Nat) (l : SList) : State :=
  (s.setEngine k ((s.engine k).dropList l)).fillAbandoned k l.ctx l.gang l.team l.tray 0 l.issuer l.vecs l.slot l.srel none

/-- The elements of a box that lie inside a tensor's extents, in the first `n` rows. -/
def Box.insideRows (b : Box) (t : Tensor) (o : Coord) (n : Nat) : Nat :=
  ((List.range n).flatMap (fun r => (List.range b.b0).filter (fun j => t.has (b.coord o r j)))).length

/-- The destination origin: a versioned copy's z and w are 0 (R232). -/
def Copy.dest (c : Copy) : Coord :=
  if c.versioned then ⟨(c.dcoords.getD 0 0).toInt, (c.dcoords.getD 1 0).toInt, 0, 0⟩ else coordOf c.dcoords

/-- The elements that a copy has written, and the version that it has compared (R237). -/
def Copy.progress (c : Copy) : Nat × Nat :=
  match c.ended with
  | some (_, w, v) => (w, v)
  | none => (if c.versioned then 0 else (boxOf c.box).insideRows (tensorOf c.dst) c.dest c.row, c.compared)

/-- Abandons a copy (R245). -/
def State.abandonCopy (s : State) (k : Nat) (c : Copy) : State :=
  (s.setEngine k ((s.engine k).dropCopy c)).fillAbandoned k c.ctx c.gang c.team c.tray c.scope c.issuer c.vecs c.slot []
    (if bit c.flags 19 then none else some c.progress)

/-- Abandons all engine work of the gangs that `p` names (R343). -/
def State.dropWork (s : State) (p : Nat → Bool) : State :=
  (Tab.keys s.engines).foldl (fun s k =>
    let e := s.engine k
    let s1 := (e.lists.filter (fun l => p l.gang)).foldl (fun s l => s.abandonList k l) s
    (e.copies.filter (fun c => p c.gang)).foldl (fun s c => s.abandonCopy k c) s1) s

/-- What becomes of the engine work of a grid whose teams have all retired, by its gangs: what is parked is abandoned, what waits or has
not begun ends, and a command that has begun goes on to its end (R246; log 146, DEDUCED, unsafe). -/
def State.endWork (s : State) (p : Nat → Bool) : State :=
  (Tab.keys s.engines).foldl (fun s k =>
    let e := s.engine k
    let s1 := (e.lists.filter (fun l => p l.gang && l.park.isSome)).foldl (fun s l => s.abandonList k l) s
    let s2 := (e.copies.filter (fun c => p c.gang && c.park.isSome)).foldl (fun s c => s.abandonCopy k c) s1
    let e2 := (s2.engine k).keep (fun l => !p l.gang || (l.wait.isNone && l.cur.isSome)) (fun c => !p c.gang || (c.wait.isNone && c.begun))
    s2.setEngine k { e2 with lists := e2.lists.map (fun l => if p l.gang then { l with closing := true } else l)
                             copies := e2.copies.map (fun c => if p c.gang then { c with closing := true } else c) }) s

/-- The reservation of a quote is lent to unquoted grids of its context on a tile: no gang that holds it is placed there, and so none
needs it (R311, log 64, DEDUCED, unsafe). -/
def State.lentOn (s : State) (qid tile : Nat) : Bool :=
  !s.gangs.any (fun e => !e.2.done && !e.2.suspended && e.2.tile == tile && (s.grid e.2.grid).quote == some qid)

/-- The engine share of a grid on a tile (R387). -/
def State.share (s : State) (grid tile : Nat) : List Nat :=
  let g := s.grid grid
  let live := ((List.range 16).map (fun j => 16 * tile + j)).filter s.engineLive
  let res := fun (q : Quote) => ((Tab.find s.reservations q.res).map (·.engines)).getD []
  match g.quote.bind s.quote? with
  | some q => live.filter (fun k => (res q).contains k)
  | none => live.filter (fun k => !(s.quotes.any (fun e =>
      (e.2.state == .launched || e.2.state == .accepted) && !(e.2.req.ctx == g.ctx && s.lentOn e.1 tile) && (res e.2).contains k)))

end Sys2Proof.Machine
end

