-- ==== Sys2Proof/Machine/Units.lean ====
section
/-! DEFINITION. How units end: groups, teams, the MCC and gangs retire (R39, R47, R220, R249, R260), grids complete (R321,
R353-R355), contexts are terminated (R343) and a counter that is full checks the machine (R203). -/
namespace Sys2Proof.Machine

/-- The groups of a team that hold a slot, with their party numbers. -/
def State.members (s : State) (gang team : Nat) : List (Nat × Group) :=
  s.groups.filter (fun e => e.2.gang == gang && e.2.team == team && !e.2.mcc)

/-- The key of the releases that the arrivals of one generation of a team barrier make (R220). -/
def tbarKey (team gen : Nat) : Nat := 2 ^ 90 * (2 ^ 60 + team * 2 ^ 48 + gen) + 7 * 2 ^ 72

/-- Completes the team barrier's generation once every group that has not retired has arrived (R220). -/
def State.tbarCheck (s : State) (gang team : Nat) : State :=
  let k := teamKey gang team
  match Tab.find s.teams k with
  | none => s
  | some t =>
    if !t.arrived.isEmpty && (s.members gang team).all (fun e => t.arrived.contains e.2.grp) then
      s.setTeam k { t with barGen := t.barGen + 1, arrived := [] }
    else s

/-- Gives a block back to a team's pool (R44, R144). -/
def Team.giveBack (t : Team) (b : Nat) : Team := { t with free := t.free ++ [b] }

/-- A team's record without what one of its groups held and waited for (R44). -/
def Team.without (t : Team) (gid : Nat) (g : Group) : Team :=
  g.held.foldl (fun t e => t.giveBack e.2) { t with xq := t.xq.filter (fun q => q.gid != gid) }

/-- Whether a gang still has packets on their way or waiting (R284). -/
def State.travelling (s : State) (gang : Nat) : Bool := s.packets.any (fun e => e.2.gang == gang)

/-- Whether every row of an operation has landed or been written. -/
def QOp.streamed (q : QOp) : Bool := decide (q.count ≤ q.cursor) && q.owed == 0

/-- The bands on whose arithmetic an operation of a mask runs: in narrowed mode bands 0 and 1 stand in for 2 and 3 (R256). -/
def bandsUsed (narrow : Bool) (mask : Nat) : Nat := if narrow then (mask % 4) ||| (mask / 4 % 4) else mask % 16

/-- A band that an operation in progress keeps busy (R255, R256). -/
def Mcc.busy (m : Mcc) (narrow : Bool) (b : Nat) : Bool :=
  m.queue.any (fun q => (q.kind == 2 || q.kind == 4) && q.started && bit (bandsUsed narrow q.mask) b)

/-- The bands of a cluster that an operation in progress keeps busy. -/
def State.busyBands (s : State) (c : Nat) : List Nat :=
  match Tab.find s.mccs c with
  | none => []
  | some m => (List.range 4).filter (m.busy (s.cluster c).narrow)

/-- Of the bands that were busy, those that are so no longer fall idle: the gating timeout of each is what `BANDIDLE` holds now (R22,
R255). -/
def State.restBands (s : State) (c : Nat) (was : List Nat) : State :=
  let cl := s.cluster c
  let falls := was.filter (fun b => !(s.busyBands c).contains b)
  if falls.isEmpty then s
  else s.setCluster c { cl with
    idle := falls.foldl (fun t b => Tab.put t b 0) cl.idle
    idleLimit := falls.foldl (fun t b => Tab.put t b (s.hubReg 0x10C).toNat) cl.idleLimit }

/-- The queue stops for good: the faulted operation and those not started are abandoned, and a slot that an `MDRN` of
these has claimed is filled (R260). -/
def State.abandonQueue (s : State) (c gang ctx : Nat) (m : Mcc) : State :=
  match m.qf with
  | none => s
  | some (_, _, pos) =>
    let gone := ((List.range m.queue.length).zip m.queue).filter (fun e => e.1 == pos || !e.2.started)
    let kept := ((List.range m.queue.length).zip m.queue).filter (fun e => e.1 != pos && e.2.started)
    let s1 := { s with mccs := Tab.put s.mccs c { m with queue := kept.map (·.2), qf := none, qfTaken := false } }
    (gone.foldl (fun (s : State) (e : Nat × QOp) =>
      match e.2.index, e.2.tray with
      | some i, some w =>
        if e.2.kind = 3 then
          match s.object (queueWalker s c ctx) none w 64 64 false with
          | .at h =>
            if s.trState h i.toNat = slotClaimed then
              let r := releaseBy (s.beforeRelease (gidOf c 64) e.2.scope) (gidOf c 64) (teamKey gang 255) e.2.scope e.2.vecs
              r.1.fillSlot h i.toNat c r.2
            else s
          | _ => s
        else s
      | _, _ => s) s1).restBands c (s.busyBands c)

/-- A trap code as the cause of a grid's status, unless an earlier one stands (R321). -/
def Grid.note (g : Grid) (status : Nat) (c : Cause) : Grid :=
  if g.status = 0 then { g with status := status, trap := c } else g

/-- The MCC of a cluster ends; a queue fault still pending abandons its queue (R249, R260). -/
def State.endMcc (s : State) (c : Nat) : State :=
  let gid := gidOf c 64
  match s.group gid with
  | none => s
  | some g =>
    let ga := s.gang g.gang
    let s1 := s.setGroup gid { g with run := .ended, splits := [], apend := [], trapq := [] }
    match Tab.find s1.mccs c with
    | none => s1
    | some m =>
      match m.qf with
      | none => s1
      | some (cause, _, _) =>
        (s1.setGrid ga.grid ((s1.grid ga.grid).note 3 cause)).abandonQueue c g.gang (s1.grid ga.grid).ctx m

/-- The MCC that a suspended gang keeps ends; a queue fault still pending abandons its queue, as the cluster of its last place would
have it (R249, R260, R273; log 143, DEDUCED, unsafe). -/
def State.endSaved (s : State) (gang : Nat) : State :=
  let ga := s.gang gang
  match ga.mcc with
  | none => s
  | some (_, m) =>
    match m.qf with
    | none => s
    | some (cause, _, _) =>
      let s1 := (s.setGrid ga.grid ((s.grid ga.grid).note 3 cause)).abandonQueue ga.cluster gang (s.grid ga.grid).ctx m
      { s1 with mccs := match Tab.find s.mccs ga.cluster with
          | some k => Tab.put s1.mccs ga.cluster k
          | none => Tab.del s1.mccs ga.cluster }

/-- A gang's teams that still run. -/
def State.gangTeams (s : State) (gang : Nat) : List (Nat × Team) :=
  s.teams.filter (fun e => e.2.gang == gang && e.1 % 256 < 255 && !e.2.done)

/-- When every team of a grid has retired, its engine work ends (R246). -/
def State.teamsDone (s : State) (grid : Nat) : State :=
  let g := s.grid grid
  if g.retired.length = g.teams then s.endWork (fun k => (s.gang k).grid == grid) else s

/-- A team retires: its rows read as zero before any other team has them, and its completion bit is set (R47, R200,
R323). The last team of a gang ends its MCC (R249). -/
def State.retireTeam (s : State) (gang team : Nat) : State :=
  let k := teamKey gang team
  let t := s.team k
  let ga := s.gang gang
  let g := s.grid ga.grid
  let a := t.allot
  let s1 := (s.zeroBytes (a.loc 0) (a.rows * 2048)).forget (a.loc 0) (a.rows * 2048)
  let s2 := (s1.setTeam k { t with done := true, slots := [], xq := [] }).setGrid ga.grid
    { g with retired := g.retired ++ [ga.linear g team], maxCycles := max g.maxCycles t.used }
  let s3 := if (s2.gangTeams gang).isEmpty then
      let s3 := if ga.usesMcc && !ga.suspended then s2.endMcc ga.cluster else s2
      s3.setGang gang { (s3.gang gang) with done := true }
    else s2
  s3.teamsDone ga.grid

/-- Retires the teams of a gang that have no group left; those of a sentence together, once it has no group and no packet
left (R47, R278). -/
def State.retireTeams (s : State) (gang : Nat) : State :=
  let empty := fun (e : Nat × Team) => (s.members gang e.2.idx).isEmpty
  let out := s.gangTeams gang
  if (s.grid (s.gang gang).grid).kernel.sentence then
    if out.all empty && !s.travelling gang then out.foldl (fun s e => s.retireTeam gang e.2.idx) s else s
  else (out.filter empty).foldl (fun s e => s.retireTeam gang e.2.idx) s

/-- The name under which a suspended group is known in what refers to a party number. -/
def awayId (gang team grp : Nat) : Nat := 2 ^ 40 + (gang * 256 + team) * 16 + grp

/-- The name of a group that has left for good, in what it leaves behind. -/
def goneId : Nat := 2 ^ 50

/-- The windows that a group opened count no cycle any more once it has left for good (R18), and its held stores are nobody's (R377). -/
def State.closeWindows (s : State) (gid : Nat) : State :=
  { s with
    posted := (s.posted.filter (fun p => p.gid != gid || p.fate.isNone)).map (fun p => if p.gid = gid then { p with gid := goneId } else p)
    ctxs := s.ctxs.map (fun (e : Nat × Ctx) =>
      if e.2.windows.any (fun w => !w.hostWin && w.gid == gid) then
        (e.1, { e.2 with windows := e.2.windows.map (fun w => if !w.hostWin && w.gid = gid then { w with gid := goneId } else w) })
      else e) }

/-- A group leaves its slot for good: its windows go back, it counts as arrived at the team barrier, and its retirement
is a release at `sys` (R39, R44, R183, R220). -/
def State.retireGroup (s : State) (gid : Nat) : State :=
  match s.group gid with
  | none => s
  | some g =>
    let k := teamKey g.gang g.team
    let ga := s.gang g.gang
    let r := releaseBy (s.beforeRelease gid 3) gid k 3 g.vecs
    let s1 := { r.1 with groups := Tab.del r.1.groups gid }
    let gr := s1.grid ga.grid
    let s2 := s1.setGrid ga.grid { gr with releases := gr.releases ++ [(ga.linear gr g.team, r.2)] }
    let t := s2.team k
    let s3 := (s2.setTeam k { t.without gid g with retired := t.retired ++ [g.grp] }).closeWindows gid
    (s3.tbarCheck g.gang g.team).retireTeams g.gang

/-- The completion sequence number of a function's last completion (R321). -/
def State.completionOf (s : State) (fn : Nat) : Nat := Tab.read s.completions fn 0

/-- Whether some cluster that worked for a grid has work since its last pass (R353). -/
def State.unproofed (s : State) (grid : Nat) : Bool := s.clusters.any (fun e => e.2.grids.contains grid)

/-- Raises FINAL's number of a function to the last completion before the first that a cluster has still to proof and that no
SUSPECT record has named, and writes a record each time it rises, on each interface that carried a completion newly covered
(R354, log 37, DEDUCED, unsafe). -/
def State.finalRise (s : State) (fn : Nat) : State :=
  let open_ := s.clusters.flatMap (fun e => (e.2.work.filter (fun w => w.1 == fn && !s.suspects.contains w)).map (·.2))
  let n := open_.foldl (fun m x => min m (x - 1)) (s.completionOf fn)
  let old := Tab.read s.finals fn 0
  if old < n then
    let ks := (s.grids.filter (fun e => e.2.complete && (s.ctx e.2.ctx).fn == fn && decide (old < e.2.seq) && decide (e.2.seq ≤ n))).map (·.2.ctx)
    ks.eraseDups.foldl (fun s k => s.record k 4 0 [word n, word s.scanSeq, word s.mapv]) { s with finals := Tab.put s.finals fn n }
  else s

/-- The MCC of a gang has ended, or its gang has. -/
def State.mccOver (s : State) (gang : Nat) : Bool :=
  let ga := s.gang gang
  ga.done || (!ga.suspended && (match s.group (gidOf ga.cluster 64) with
    | some g => g.gang != gang || g.run == .ended
    | none => true))

/-- The team, or the MCC, that launched a grid has retired (R326). -/
def State.parentGone (s : State) (t : Nat) : Bool := (s.team t).done || (t % 256 == 255 && s.mccOver (t / 256))

/-- Completes a grid: the COMPLETE record is written unless a parent team still waits for it, the reservation is
released, and the clusters that worked for it owe a pass (R47, R321, R326, R353, R355). -/
def State.completeGrid (s : State) (grid : Nat) : State :=
  let g := s.grid grid
  if g.complete then s
  else
    let fn := (s.ctx g.ctx).fn
    let n := s.completionOf fn + 1
    let un := s.unproofed grid
    let s1 := { s with completions := Tab.put s.completions fn n }
    let s2 := { s1 with clusters := s1.clusters.map (fun (e : Nat × Cluster) =>
        if e.2.grids.contains grid then (e.1, { e.2 with grids := e.2.grids.filter (· != grid), work := e.2.work ++ [(fn, n)] }) else e) }
    let s3 := { s2 with users := s2.users.filter (fun u => (s.gang u.2).grid != grid) }.setGrid grid { g with complete := true, ended := true, seq := n, quote := none }
    let own := fun (e : Nat × Quote) => some e.1 == g.quote && e.2.parent == 0
    let standing := fun (e : Nat × Quote) => e.2.parent != 0 &&
      ([g.launchedOn] ++ g.quote.toList).any (fun k => match s.quote? k with | some q => q.first == e.2.parent && q.parent == 0 | none => false)
    let freed := (s.quotes.filter (fun e => own e || standing e)).map (·.2.res)
    let s4 := { s3 with reservations := s3.reservations.filter (fun r => !freed.contains r.1),
                        quotes := s3.quotes.map (fun (e : Nat × Quote) => if standing e then (e.1, { e.2 with state := QState.lapsed }) else e) }
    let s5 := if freed.isEmpty then s4 else s4.revote
    let host := match g.parent with
      | none => true
      | some (t, _) => s.parentGone t
    let s6 := if host then
        s5.record g.ctx 1 0 [word grid, word n, word (g.status + g.trap.code * 2 ^ 8 + b2n un * 2 ^ 15), word g.launchedOn,
          word (s.chargedEnergy g), word (min (s.topCycles grid) (2 ^ 32 - 1))]
      else s5
    s6.finalRise fn

/-- Stops everything that a gang does: its groups, packets, MCC and engine work are gone and its allotments scrubbed
(R343, R371). -/
def State.scrubGang (s : State) (gang : Nat) : State :=
  let ga := s.gang gang
  let s1 := s.dropWork (· == gang)
  let s2 := if ga.usesMcc then (if ga.suspended then s1.endSaved gang else s1.endMcc ga.cluster) else s1
  let names := (s2.groups.filter (fun e => e.2.gang == gang)).map (·.1) ++ ga.groups.map (fun sg => awayId gang sg.team sg.grp)
  let s2 := names.foldl State.closeWindows s2
  let s3 := { s2 with groups := s2.groups.filter (fun e => e.2.gang != gang), packets := s2.packets.filter (fun e => e.2.gang != gang),
                      mccs := if ga.usesMcc && !ga.suspended then Tab.del s2.mccs ga.cluster else s2.mccs }
  let s4 := (s3.gangTeams gang).foldl (fun s e =>
    let a := e.2.allot
    let base := if ga.suspended then parkLoc gang e.2.idx else a.loc 0
    let s := (s.zeroBytes base (a.rows * 2048)).forget base (a.rows * 2048)
    s.setTeam e.1 { e.2 with done := true, slots := [], xq := [] }) s3
  (s4.restBands ga.cluster (s.busyBands ga.cluster)).setGang gang { (s4.gang gang) with done := true, groups := [], mcc := none, stations := [], suspended := false }

/-- The grids of a context that have not completed. -/
def State.gridsOf (s : State) (ctx : Nat) : List Nat := (s.grids.filter (fun e => e.2.ctx == ctx && !e.2.complete)).map (·.1)

/-- The gangs of a grid. -/
def State.gangsOf (s : State) (grid : Nat) : List Nat := (s.gangs.filter (fun e => e.2.grid == grid && !e.2.done)).map (·.1)

/-- Stops a grid for good and writes its COMPLETE record with a status and a code (R321, R343). -/
def State.stopGrid (s : State) (grid status : Nat) (c : Cause) : State :=
  let s1 := (s.gangsOf grid).foldl State.scrubGang s
  (s1.setGrid grid { (s1.grid grid) with status := status, trap := c }).completeGrid grid

/-- Terminates a context: its quotes are void with blame CALLER, its work stops and is scrubbed, and each of its grids
completes with status 2 and the code (R343). A later CONTEXT packet may set the interface's context anew (log 18, DEDUCED, unsafe). -/
def State.terminateContext (s : State) (ctx : Nat) (c : Cause) : State :=
  let gs := s.gridsOf ctx
  let s1 := gs.foldl (fun s g => s.voidQuote g blameCaller 0 c false false) s
  let s2 := s1.voidIdle ctx blameCaller 0 c false
  let s3 := gs.foldl (fun s g => s.stopGrid g 2 c) s2
  s3.setCtx ctx { s3.ctx ctx with live := false }

/-- Once a counter would have passed 48 bits, every context takes MACHINE_CHECK until a reset (R203). -/
def State.settleCheck (s : State) : State :=
  if s.checked then
    (s.ctxs.filter (fun e => e.2.live)).foldl (fun s e => s.terminateContext e.1 .machineCheck) s
  else s

end Sys2Proof.Machine
end

