-- ==== Sys2Proof/Machine/Ops.lean ====
section
/-! DEFINITION. Taking an exception and returning from one (R330-R345), the checks that come before every instruction
(R68), the consumption of errors (R349), and the frame in which every instruction of a split is issued. -/
namespace Sys2Proof.Machine

/-- What raises a trap knows of it: the cause, the lanes that have it (none: every live lane of the split), the address
(none where the spec names none), the information, an engine's own cause, whether `RTT` resumes after the instruction (R331, R336), and
the virtual addresses that the instruction has translated (R154). -/
structure Trap where
  cause : Cause
  mask : Option Word
  addr : Option Nat
  info : Nat
  under : Cause
  next : Bool
  seen : List Nat
deriving DecidableEq, Repr

/-- A trap that acts for the whole split and has no address. -/
def Trap.of (c : Cause) : Trap := { cause := c, mask := none, addr := none, info := 0, under := .none, next := false, seen := [] }

/-- A trap at an address, for the whole split. -/
def Trap.at (c : Cause) (addr : Nat) : Trap := { Trap.of c with addr := some addr, seen := [addr] }

/-- The traps that void the quote in force (R315). -/
def Cause.isLimit : Cause → Bool
  | .limitTrip | .limitWait | .limitDepth | .limitTravel | .limitLaunch | .travelOverflow => true
  | _ => false

/-- `TRAPC` (R336). -/
def trapcWord (p : Pending) : Word :=
  word (p.cause.code + b2n p.async * 2 ^ 7 + p.under.code * 2 ^ 8 + p.info % 2 ^ 16 * 2 ^ 16)

/-- A split's arrival at a frame taken back (R49, R333): a `JOIN` that is backed out has not been reached. -/
def Group.unarrive (g : Group) (entry : Nat) : Group :=
  { g with frames := g.frames.map (fun f => { f with arrived := f.arrived.filter (· != entry) }) }

/-- What a split keeps of a wait that is backed out: a `JOIN` knows the frame that it had reached, though another has been pushed
since (R333, log 119, DEDUCED, unsafe). -/
def Split.keptTicket (p : Split) : Option Word := if p.wait = some .join then some 0 else p.ticket

/-- Entry to a handler by split `p` of a group (R334): the split's `MODE`, `FPX`, latches and stacks are saved, `MODE`
takes its reset value, the latches are stale, the stacks empty, and the PC becomes `HDLR`. -/
def Group.enter (g : Group) (p : Split) (hdlr : Word) (t : Pending) : Group :=
  let sp := { p with pc := hdlr, wait := none, loops := [], rets := [], count := 0, ticket := none, ghost := [], issued := none }.stale
  { (if p.wait = some .join then g.unarrive p.entry else g).withSplit sp with
    saved := some { entry := p.entry, mode := g.mode, fpx := g.fpx, latches := p.latches, loops := p.loops, rets := p.rets,
                    count := p.count, ticket := p.keptTicket, pc := t.pc, cycles := 0 }
    mode := modeReset, trapc := trapcWord t, trappc := t.pc, trapmask := t.mask, trapaddrl := word t.addr,
    trapaddrh := word (t.addr / 2 ^ 32), stepping := none }

/-- A kind-0 entry of the context's error log, from the trap registers (R342, R343). -/
def State.logTrap (s : State) (ctx gid : Nat) (g : Group) (pc : Word) : State :=
  s.logEntry ctx (g.trapc.toNat % 128) 0 (placeOf gid) pc g.trapmask (g.trapaddrl.toNat + 2 ^ 32 * g.trapaddrh.toNat) 0 0

/-- The address of a trap; for a trap that has none the spec gives `TRAPADDRL` and `TRAPADDRH` no value, and it is free
(log 2, DESIGN CHOICE, safe). -/
def Ex.trapAddr (x : Ex) (t : Trap) : Nat := match t.addr with | some a => a | none => Config.freeNat x.s.freeCtr % 2 ^ 64

/-- What is held of a trap of the party: `TRAPPC` is the instruction, or the next one (R336). -/
def Ex.pending (x : Ex) (t : Trap) : Pending :=
  { entry := x.sp.entry, cause := t.cause, under := t.under, info := t.info, mask := t.mask.getD x.liveLanes,
    addr := x.trapAddr t, pc := if t.next then x.sp.pc + 4 else x.sp.pc, async := false }

/-- Takes a trap (R332-R334): a limit trap voids the quote first (R315); in a handler the context is terminated with the
trap's code; a split that trapped in the cycle of the trap being handled is entered into `TRAPQ`; otherwise the handler is
entered. What the instruction has translated stays cached (R154). -/
def Ex.takeTrap (x0 : Ex) (t : Trap) : State :=
  let x := { x0 with s := x0.s.cacheWalks x0.walker t.seen }
  let sp := if t.cause = .swTrap then x.sp.stale else x.sp
  let pend := x.pending t
  if x.sup then
    (x.s.draw.logEntry x.ctxId t.cause.code 0 (placeOf x.gid) x.sp.pc pend.mask pend.addr 0 0).terminateContext x.ctxId t.cause
  else
    let s0 := if t.cause.isLimit then x.s.draw.voidQuote x.gridId blameCaller 0 t.cause false false else x.s.draw
    let s1 := s0.count x.part x.gid 15 1
    match x.mate with
    | some _ => s1.setGroup x.gid { (Ex.home { x with sp := sp }) with trapq := x.g.trapq ++ [pend] }
    | none => s1.setGroup x.gid (x.g.enter sp x.ctx.hdlr pend)

/-- The party may take a trap that it did not issue: beside a handler of its group, the trap waits in `TRAPQ`, which has room for 7
(R332). -/
def Ex.admitsTrap (x : Ex) : Bool := x.mate.isNone || decide (x.g.trapq.length < 7)

/-- The waits of R41 that carry a declared limit, and the wait of `YLD` (R140): those that an asynchronous trap ends
(R333). -/
def Wait.endsForAsync : Wait → Bool
  | .xacq _ | .join | .bar _ _ | .tbar _ | .claim _ | .fill _ _ _ | .child _ | .yield _ | .mwait _ => true
  | _ => false

/-- The slices that a split covers, as a key that orders splits by their lowest slice (R332). -/
def Split.slice (p : Split) : Nat := match lowest p.lanes with | some l => l / 4 | none => 8

/-- The split of a group whose lowest covered slice is lowest. -/
def Group.first (g : Group) : Option Split :=
  g.splits.foldl (fun a p => match a with
    | none => some p
    | some q => if p.slice < q.slice ∨ (p.slice = q.slice ∧ p.entry < q.entry) then some p else some q) none

/-- The pending flag of lowest code. -/
def Group.flagged (g : Group) : Option Pending :=
  g.apend.foldl (fun a p => match a with
    | none => some p
    | some q => if p.cause.code < q.cause.code then some p else some q) none

/-- The window of an acknowledgement opens when the steward takes the `MAP_CHANGED` trap (R18). -/
def State.openWindow (s : State) (gid : Nat) : State :=
  match s.group gid with
  | none => s
  | some g =>
    let c := s.ctxOf g
    let v := g.trapaddrl.toNat + 2 ^ 32 * g.trapaddrh.toNat
    let ctx := s.ctx c
    if v ≤ ctx.ack then s
    else s.setCtx c { ctx with windows := ctx.windows ++ [{ version := v, cycles := 0, hostWin := false, gid := gid }] }

/-- Delivers a pending flag at an instruction boundary, when no handler runs and `TRAPQ` is empty, unless the split that
receives it is in a wait that must end first (R333). -/
def State.deliverAsync (s : State) (gid : Nat) : State :=
  match s.group gid with
  | none => s
  | some g =>
    if g.saved.isSome || !g.trapq.isEmpty || g.run != .running then s
    else
      match g.flagged, g.first with
      | some f, some p =>
        if (p.wait.map Wait.endsForAsync).getD true then
          let c := s.ctxOf g
          let t := { f with entry := p.entry, pc := p.pc, async := true, mask := p.lanes &&& ~~~ g.dead }
          let s1 := (s.count (s.ctx c).part gid 15 1).setGroup gid
            { (g.enter p (s.ctx c).hdlr t) with apend := g.apend.filter (fun q => q.cause != f.cause) }
          if f.cause = .mapChanged then s1.openWindow gid else s1
        else s
      | _, _ => s

/-- What follows the end of a handler: the next trap of `TRAPQ`, or a pending flag, or, after a `RTT` of the split named, the
single step, or every split issues again (R339, R343). -/
def State.afterHandler (s : State) (gid : Nat) (rtt : Option Nat) : State :=
  match s.group gid with
  | none => s
  | some g =>
    match g.trapq with
    | t :: rest =>
      match g.split? t.entry with
      | some p => s.setGroup gid { (g.enter p (s.ctx (s.ctxOf g)).hdlr t) with trapq := rest }
      | none => s.setGroup gid { g with trapq := rest }
    | [] =>
      if !g.apend.isEmpty then s.deliverAsync gid
      else if g.step && rtt.isSome then s.setGroup gid { g with stepping := rtt }
      else s

/-- A frame without a split's membership (R37). -/
def Frame.leave (f : Frame) (entry : Nat) : Frame :=
  { f with members := f.members.filter (· != entry), arrived := f.arrived.filter (· != entry) }

/-- The frames under which some split is left: a frame whose splits have all ended is pending no more (R36, R37, log 119, DEDUCED, unsafe). -/
def stillPending (fs : List Frame) : List Frame := fs.filter (fun f => !f.members.isEmpty)

/-- Ends a split for good: it leaves every frame, and its entry and area are free (R39). -/
def Group.dropSplit (g : Group) (entry : Nat) : Group :=
  { g with splits := g.splits.filter (fun p => p.entry != entry), frames := stillPending (g.frames.map (fun f => f.leave entry)),
           trapq := g.trapq.filter (fun t => t.entry != entry),
           stepping := if g.stepping = some entry then none else g.stepping }

/-- The innermost frame, by position, that holds a side which a split recorded, or live lanes that it left at the `JOIN`. -/
def Group.owedBy (g : Group) (entry : Nat) : Option Nat :=
  (List.range g.frames.length).find? (fun k => match g.frames[k]? with
    | some f => f.sides.any (fun sd => sd.owner == entry) || Tab.read f.parked entry 0 &&& ~~~ g.dead != 0
    | none => false)

/-- A split put to another path: its latches are stale (R36). -/
def Split.take (p : Split) (pc lanes : Word) (loops : List LoopEntry) (rets : List RetEntry) : Split :=
  { p with pc := pc, lanes := lanes, loops := loops, rets := rets, wait := none, count := 0, ticket := none, issued := none }.stale

/-- A split whose lane set has become empty or dead: it takes up its most recently recorded side, or, in place of the
second of two splits, goes on with the lanes that it left at a `JOIN`; it leaves every frame pushed after that one. With
neither, it ends (R36, R39, R132). -/
def Group.endSplit (g : Group) (entry : Nat) : Group :=
  match g.owedBy entry, g.split? entry with
  | some k, some p =>
    match g.frames[k]? with
    | none => g.dropSplit entry
    | some f =>
      let left := fun (f' : Frame) => stillPending ((g.frames.take k).map (fun h => h.leave entry)) ++ f' :: g.frames.drop (k + 1)
      match f.sides.find? (fun sd => sd.owner == entry) with
      | some sd => { g.withSplit (p.take sd.pc sd.lanes sd.loops sd.rets) with frames := left { f with sides := f.sides.erase sd } }
      | none =>
        { g.withSplit (p.take f.join (Tab.read f.parked entry 0) (p.loops.drop (p.loops.length - f.loopDepth))
              (p.rets.drop (p.rets.length - f.retDepth))) with
          frames := left { f with parked := Tab.del f.parked entry } }
  | _, _ => g.dropSplit entry

/-- `KILL` mode 1 and its like: the group retires as exited, and its grid completes with status 1 (R220, R321, R343). -/
def State.killGroup (s : State) (gid : Nat) (c : Cause) : State :=
  match s.group gid with
  | none => s
  | some g =>
    let gr := (s.gang g.gang).grid
    let s1 := s.setGrid gr ((s.grid gr).note 1 c)
    if g.mcc then s1.endMcc (gidCluster gid)
    else s1.retireGroup gid

/-- The cause whose code a `TRAPC` word holds, among those that an instruction may have raised (R330). -/
def causeOf (n : Nat) : Cause :=
  ([.illegalZero, .illegalOpcode, .streamWord, .matrixContext, .priv, .illegalOperand, .xregUnheld, .modeInvalid, .latchStale,
    .noJoin, .frameOverflow, .frameSpan, .stackUnderflow, .loopOverflow, .jtabRange, .limitTrip, .limitWait, .limitDepth,
    .limitTravel, .limitLaunch, .quoteVoid, .mapChanged, .launchState, .misaligned, .spadBounds, .pageNotPresent,
    .pageProtection, .tileLeafRange, .targetType, .remoteUnreachable, .syncObjectStore, .tensorId, .trayState, .barState,
    .engineFault, .engineFull, .scope, .comMixed, .raceWW, .raceRW, .raceWR, .matrixShape, .accTile, .matrixFormat, .bandDown,
    .clauseUnmapped, .travelOverflow, .liveMissing, .scanFail, .poison, .bkpt, .step, .swTrap, .hostAbort].find?
      (fun (c : Cause) => c.code == n)).getD .none

/-- Restores the trapped split's `MODE`, `FPX`, latches and stacks, and leaves the handler at `TRAPPC` (R339). A count and a ticket
belong to the instruction at the address of the entry. A `TRAPPC` that is no multiple of 4 becomes the PC as it is (log 150, DESIGN CHOICE, unsafe). -/
def Group.leave (g : Group) (sv : Saved) : Group :=
  let same := g.trappc = sv.pc
  { g with saved := none, mode := sv.mode, fpx := sv.fpx,
           splits := g.splits.map (fun p => if p.entry = sv.entry then
             { p with pc := g.trappc, wait := none, latches := sv.latches, loops := sv.loops, rets := sv.rets,
                      count := if same then sv.count else 0, ticket := if same then sv.ticket else none, ghost := [], issued := none } else p) }

/-- A split gives up its place in its team's `XACQ` order (R44). -/
def State.leaveOrder (s : State) (gid entry : Nat) : State :=
  match s.group gid with
  | none => s
  | some g =>
    let k := teamKey g.gang g.team
    if (s.team k).xq.any (fun q => q.gid == gid && q.entry == entry) then
      s.setTeam k { s.team k with xq := (s.team k).xq.filter (fun q => q.gid != gid || q.entry != entry) }
    else s

/-- A place of the `XACQ` order that outlives the end of its group's handler: one that the handler itself did not take, and whose
`XACQ` issues again (R44, R333). -/
def XWait.outlives (q : XWait) (gid : Nat) (g : Group) (sv : Saved) : Bool :=
  q.gid != gid || (!q.sup && (q.entry != sv.entry || g.trappc == sv.pc))

/-- The end of a group's handler (R339): the group is out of it, and the places of the `XACQ` order that ended with it are given up. -/
def State.quitHandler (s : State) (gid : Nat) (g : Group) (sv : Saved) : State :=
  let k := teamKey g.gang g.team
  let s1 := s.setGroup gid (g.leave sv)
  if (s.team k).xq.all (fun q => q.outlives gid g sv) then s1
  else s1.setTeam k { s.team k with xq := (s.team k).xq.filter (fun q => q.outlives gid g sv) }

/-- A group suspended alone, a release at `dev`, with a record to the host queue (R42, R156, R183, R343, R347). -/
def State.escalate (s : State) (gid req : Nat) : State :=
  match s.group gid with
  | none => s
  | some g =>
    let ga := s.gang g.gang
    let gr := s.grid ga.grid
    let r := releaseBy (s.beforeRelease gid 2) gid (teamKey g.gang g.team) 2 g.vecs
    (r.1.setGroup gid { g with run := .suspended, vecs := mergeRelease { g.vecs with home := gidCluster gid } r.2 }).hostReq gr.ctx ga.grid (ga.linear gr (if g.mcc then 0 else g.team)) g.grp req
      g.trappc (g.trapaddrl.toNat + 2 ^ 32 * g.trapaddrh.toNat) (g.trapc.toNat % 128)

/-- An address moved by a signed offset. -/
def pcPlus (pc : Word) (d : Int) : Word := word (wrapNat 32 ((pc.toNat : Int) + d))

/-- The immediates and targets that the state decides: an `LDC` index below the pool's size, and a target or join address
inside the code that the party runs (R63, R64). -/
def Ex.targetsOk (x : Ex) (i : Instr) : Bool :=
  (match i with
   | .ldc f => decide (f.k.toNat < x.grid.kernel.consts.length)
   | _ => true)
  && (match i.offset? with
      | some d => decide (0 ≤ (x.sp.pc.toNat : Int) + d) && x.inCode (pcPlus x.sp.pc d)
      | none => true)

/-- A register of an extended window that the group does not hold (R44), unless the split's access began before the window was
released (R144). -/
def Ex.unheld (x : Ex) (o : Operand) : Bool :=
  match o with
  | .vreg n => decide (32 ≤ n.val) && (Tab.find x.g.held (n.val / 16 - 2)).isNone && (Tab.find x.sp.ghost (n.val / 16 - 2)).isNone
  | _ => false

/-- The latch that an operand names is stale (R46). -/
def Split.staleLatch (p : Split) (o : Operand) : Bool :=
  match o with
  | .latch n => match p.latches[n.val]? with | some t => t.stale | none => true
  | _ => false

/-- The predicate that guards an instruction, as an operand that it reads (R62, R290). -/
def Ex.guardReads (x : Ex) (i : Instr) : List Operand :=
  if i.unguarded then [] else [.ofNat (100 + field x.mode 2 0)]

/-- The decode checks in the order of R68, with R290's after `XREG_UNHELD`: the first that fails. -/
def Ex.decodeCheck (x : Ex) (i : Instr) : Option Cause :=
  if x.g.mcc && i.noMcc then some .illegalOpcode
  else if i.isMatrix && !x.g.mcc then some .matrixContext
  else if i.isSup && !x.sup then some .priv
  else if !i.staticOk || (x.g.mcc && i.named.any Operand.isVec) || !x.targetsOk i then some .illegalOperand
  else if i.named.any x.unheld then some .xregUnheld
  else if (i.reads ++ x.guardReads i).any x.isAbsent then some .liveMissing
  else if !i.modeOk x.mode then some .modeInvalid
  else if i.reads.any x.sp.staleLatch then some .latchStale
  else none

/-- The lanes in which an operand holds an uncorrectable error of a lane's own state (R349). -/
def Ex.errLanes (x : Ex) (o : Operand) : Word :=
  match o with
  | .vreg n => if x.banked n.val then 0 else maskOf (fun l => x.g.ueLane.contains (n.val, l))
  | .latch n => match x.sp.latches[n.val]? with | some t => t.bad | none => 0
  | _ => 0

/-- The lane that a number names, if it is active. -/
def Ex.activeLane (x : Ex) (l : Nat) : Word := if Word.has x.active l then 1#32 <<< l else 0

/-- The operands that an instruction reads lane by lane, each with the lanes that read it: the active lanes whose guard is true, but
for `SEL`, which the guard does not suppress (R122), and the lane exchanges, whose sources the guard does not matter for (R118-R120). -/
def Ex.consumes (x : Ex) (i : Instr) : List (Operand × Word) :=
  match i with
  | .sel f => [(f.a, x.acting), (f.b, x.active &&& ~~~ x.acting)]
  | .shfl f | .shflx f | .shflu f | .shfld f => [(f.a, x.active), (f.b, x.acting)]
  | .bcast f => if x.go then [(f.a, x.activeLane ((x.rdU f.b).toNat % 32))] else []
  | .lwr f => [(f.d, x.acting &&& ~~~ x.activeLane ((x.rdU f.b).toNat % 32))]
  | _ => i.reads.map (fun o => (o, x.acting))

/-- The lanes whose generator an instruction reads: those in which it draws (R89), or those that `SRD` of `RNGS` reads (R124). -/
def Ex.drawing (x : Ex) (i : Instr) : Word :=
  match i with
  | .srd f => if f.k.toNat = 9 then x.acting else 0
  | _ =>
    if !i.draws x.mode then 0
    else
      match i.shape with
      | some (_, f) => if f.d.isVreg then x.acting else if x.go then 1#32 <<< x.lead else 0
      | none => 0

/-- The lanes that an instruction's reads give an uncorrectable error of their own (R33, R349). -/
def Ex.badLanes (x : Ex) (i : Instr) : Word :=
  (x.consumes i).foldl (fun m e => m ||| (e.2 &&& x.errLanes e.1)) 0
    ||| (x.drawing i &&& maskOf (fun l => x.g.ueLane.contains (128, l)))

/-- Kills lanes: they are dead from now on, `UE_LANE` is logged with kind 1, and the grid completes with status 1 (R33,
R349). -/
def Ex.killLanes (x : Ex) (m : Word) : Ex :=
  if m = 0 then x
  else
    let dead := x.g.dead ||| m
    let s1 := (x.s.logEntry x.ctxId Cause.ueLane.code 1 (placeOf x.gid) x.sp.pc dead 0 0 0)
    { x with s := s1.setGrid x.gridId ((s1.grid x.gridId).note 1 .ueLane),
             g := { x.g with dead := dead, ueLane := x.g.ueLane.filter (fun e => !Word.has m e.2) } }

/-- A split whose lanes have left or died comes to its end: its place in its team's `XACQ` order is given up, the handler that it runs
ends with it, and with the last split the group retires (R39, R44, R343). -/
def State.closeSplit (s : State) (gid entry : Nat) : State :=
  match s.group gid with
  | none => s
  | some g =>
    let sv := g.saved.bind (fun sv => if sv.entry = entry then some sv else none)
    let s1 := (match sv with | some sv => s.quitHandler gid g sv | none => s).leaveOrder gid entry
    let g1 := ((s1.group gid).getD g).endSplit entry
    let s2 := s1.setGroup gid g1
    if g1.splits.isEmpty then s2.retireGroup gid else if sv.isSome then s2.afterHandler gid none else s2

/-- Ends the splits that hold only dead lanes (R39). -/
def State.bury (gid : Nat) : Nat → State → State
  | 0, s => s
  | n + 1, s =>
    match (s.group gid).bind (fun g => g.splits.find? (fun p => p.lanes &&& ~~~ g.dead == 0)) with
    | some p => State.bury gid n (s.closeSplit gid p.entry)
    | none => s

/-- What a lane's death ends: splits with none but dead lanes, and a group whose lanes are all dead (R39). -/
def State.buryDead (s : State) (gid : Nat) : State :=
  match s.group gid with
  | none => s
  | some g => if g.mcc || g.dead = 0 || g.run = .ended then s else State.bury gid 64 s

/-- An uncorrectable error in the state that a group shares kills it (R349). -/
def Ex.killShared (x : Ex) : State :=
  let all : Word := 0xFFFFFFFF
  let s1 := x.s.logEntry x.ctxId Cause.ueGroup.code 1 (placeOf x.gid) x.sp.pc all 0 0 0
  (s1.setGroup x.gid { x.home with dead := all }).killGroup x.gid .ueGroup

/-- Counts a completed instruction: itself, the slices that it issued on, of which an MCC has none, and a load, store or atomic as such
(R361). -/
def Ex.tally (x : Ex) (i : Instr) (s : State) : State :=
  let s1 := (s.count x.part x.gid 0 1).count x.part x.gid 1 (if x.g.mcc then 0 else x.sp.covered.length)
  match i.countAs with
  | some e => s1.count x.part x.gid e 1
  | none => s1

/-- What follows an instruction that has neither trapped nor begun to wait: its events are counted, its split's latches are stale after a
switch point, and a single step ends (R46, R345, R361). -/
def Ex.after (x : Ex) (i : Instr) (s : State) : State :=
  match s.group x.gid with
  | none => x.tally i s
  | some g =>
    let trapped := (g.saved.isSome && x.g.saved.isNone && x.mate.isNone) || decide (x.g.trapq.length < g.trapq.length)
    if trapped || (match g.split? x.sp.entry with | some p => p.wait.isSome | none => false) then s
    else
      let g1 := match g.split? x.sp.entry with
        | some p => g.withSplit (if i.isSwitch then p.settled.stale else p.settled)
        | none => g
      let s1 := (x.tally i s).setGroup x.gid g1
      match (if x.g.stepping.isSome ∧ g1.saved = none then g1.stepping.bind g1.split? else none) with
      | some p => Ex.takeTrap ⟨s1, x.gid, g1, p, none⟩ (.of .step)
      | none => s1

/-- A group whose splits all wait at a `TBAR` arrives: a release at `team` scope (R220). -/
def State.tbarGroup (s : State) (gid : Nat) : State :=
  match s.group gid with
  | none => s
  | some g =>
    let k := teamKey g.gang g.team
    let t := s.team k
    let at_ := fun (p : Split) => match p.wait with | some (.tbar gen) => gen == t.barGen | _ => false
    if g.mcc || g.splits.isEmpty || !g.splits.all at_ || t.arrived.contains g.grp then s
    else
      let r := releaseBy (s.beforeRelease gid 0) gid k 0 g.vecs
      let s1 := r.1.addRel (tbarKey k t.barGen) r.2
      (s1.setTeam k { t with arrived := t.arrived ++ [g.grp] }).tbarCheck g.gang g.team

/-- A pending queue fault, which the MCC takes before the next matrix instruction that it issues (R259). -/
def Ex.queueFault (x : Ex) (i : Instr) : Option Trap :=
  if x.g.mcc && i.isMatrix then
    match Tab.find x.s.mccs x.cluster with
    | some m =>
      match m.qf with
      | some (c, a, _) => if m.qfTaken then none else some { Trap.of c with addr := a }
      | none => none
    | none => none
  else none

/-- The MCC has taken its queue fault. -/
def Ex.markFault (x : Ex) : Ex :=
  { x with s := { x.s with mccs := Tab.upd x.s.mccs x.cluster (fun m => { m with qfTaken := true }) } }

/-- What follows an instruction that its entry has performed: its own end, the ends that its lanes' deaths bring, a team barrier
that it completes, and a counter that is full (R39, R203, R220, R345). -/
def Ex.finish (x : Ex) (i : Instr) (s : State) : State := (((x.after i s).buryDead x.gid).tbarGroup x.gid).settleCheck

/-- The held store for which an instruction has to wait, or whose loss it reports (R377; log 113, DEDUCED, unsafe): of a release, a
fence or a wait that its guard lets act; an `EXIT` is a release where it ends the group. -/
def Ex.heldStore (x : Ex) (i : Instr) : Option Posted :=
  let last := match i with | .exit _ => decide (x.g.splits.length = 1) | _ => true
  if !i.orders || !last || !(i.unguarded || x.go || x.acting != 0) then none
  else
    let mine := x.s.posted.filter (fun p => p.gid == x.gid)
    (mine.find? (fun p => p.fate.isSome)).or mine.head?

/-- The party once the loss of its held stores to a node has been reported: they are gone (R377). -/
def Ex.dropHeld (x : Ex) (node : Nat) : Ex :=
  { x with s := { x.s with posted := x.s.posted.filter (fun p => p.gid != x.gid || p.node != node || p.fate.isNone) } }

/-- Issues an instruction of the party whose turn it is: the checks of R68, the errors it consumes, a pending queue fault,
its entry, and what follows. A lane whose error it consumes dies even where the instruction then traps (R349, log 152, DESIGN CHOICE, unsafe). -/
def issueWith (i : Instr) (s : State) (body : Ex → Except Trap State) : Host.Outcome State Fault Refusal :=
  match Ex.load s with
  | none => .next s
  | some x =>
    match x.decodeCheck i with
    | some c => .next (x.takeTrap (.of c)).settleCheck
    | none =>
      if x.g.ueGroup then .next x.killShared.settleCheck
      else
        match x.heldStore i, x.queueFault i with
        | some p, _ =>
          match p.fate with
          | none => .next (x.waitFor (.peer p.node)).save
          | some c => .next ((x.dropHeld p.node).takeTrap (.at c p.addr)).settleCheck
        | none, some t => .next (x.markFault.takeTrap t).settleCheck
        | none, none =>
          let y := x.killLanes (x.badLanes i)
          match body y with
          | .error t => .next (y.takeTrap t).settleCheck
          | .ok s1 => .next (y.finish i s1)

/-- A meaning that only changes the party, and moves on. -/
def issueEx (i : Instr) (s : State) (body : Ex → Except Trap Ex) : Host.Outcome State Fault Refusal :=
  issueWith i s (fun x => (body x).map (fun y => y.next.save))

/-- The end of the party's split, whose lanes have left; with it ends the handler that it runs (R39, R343). -/
def Ex.endOwn (x : Ex) : State := x.save.closeSplit x.gid x.sp.entry

end Sys2Proof.Machine
end

