-- ==== Sys2Proof/Machine/Fetch.lean ====
section
/-! DEFINITION. Whether a party may issue (R41, R42, R332, R345), the instruction stores and the fetch of a word (R48,
R64, R277, R280), and one issue cycle of a core's slices (R24, R40). -/
namespace Sys2Proof.Machine

/-- A trap of `TRAPQ` is to be delivered before any split issues: no handler runs (R332, R335). -/
def Group.owesQueued (g : Group) : Bool := g.run == .running && g.saved.isNone && !g.trapq.isEmpty

/-- A pending flag is to be delivered before any split issues: the group is at an instruction boundary, no handler runs, `TRAPQ`
is empty, and the split that receives it is in no wait that must end first (R333). -/
def Group.owesAsync (g : Group) : Bool :=
  g.saved.isNone && g.trapq.isEmpty && !g.apend.isEmpty
    && (match g.first with | some p => (p.wait.map Wait.endsForAsync).getD true | none => false)

/-- A split of a group may issue: the group runs in its slot, the split does not wait, no trap is to be delivered first, and no
handler or single step of another split holds it (R41, R42, R332, R333, R335, R345). -/
def Group.mayIssue (g : Group) (p : Split) : Bool :=
  g.run == .running && p.wait.isNone && !g.owesQueued && !g.owesAsync && (match g.saved with | some sv => sv.entry == p.entry | none => true)
    && (match g.stepping with | some e => e == p.entry | none => true)

/-- A split that issues in the very cycle in which another split of its group has trapped: the handler has not issued yet,
the slices are disjoint, and the order of `TRAPQ` is kept (R332). -/
def Group.mayMate (g : Group) (p : Split) (sv : Saved) (hdlr : Word) : Bool :=
  match g.split? sv.entry with
  | none => false
  | some h =>
    let before := h :: g.trapq.filterMap (fun t => g.split? t.entry)
    g.run == .running && p.wait.isNone && sv.entry != p.entry && sv.cycles == 0 && h.pc == hdlr && g.stepping.isNone
      && decide (g.trapq.length < 7)
      && before.all (fun q => decide (q.slice < p.slice) && p.covered.all (fun j => !q.covered.contains j))

/-- The party may issue now. -/
def Ex.mayIssue (x : Ex) : Bool :=
  match x.mate with
  | none => x.g.mayIssue x.sp
  | some m => x.home.mayMate x.sp m.saved x.ctx.hdlr

/-- The instruction store that a party fetches from: its core's, or its cluster's MCC's (R48). -/
def Ex.storeKey (x : Ex) : Nat := if x.g.mcc then 1000 + x.cluster else gidCore x.gid

/-- The sets of a store: 64 of four lines, or 16 on the MCC (R48). -/
def Ex.storeSets (x : Ex) : Nat := if x.g.mcc then 16 else 64

/-- The name of a line by whose code it is: a context's handler (0), or the MCC's (1) or the groups' (2) of the kernel that a quote was
given for, which the grids launched on it share (R48, R312). -/
def codeLine (owner kind pc : Nat) : Nat := (3 * owner + kind) * 2 ^ 24 + pc / 256

/-- The name of a line: which code it belongs to, and its number (R48). -/
def Ex.lineAt (x : Ex) (pc : Word) : Nat :=
  if x.sup then codeLine x.ctxId 0 pc.toNat else codeLine x.grid.launchedOn (if x.g.mcc then 1 else 2) pc.toNat

/-- The set that a line falls into. -/
def setOf (sets line : Nat) : Nat := line % 2 ^ 24 % sets

/-- A store after a line is used or filled: it is the most recently used of its set, which keeps four (R48). -/
def touchLine (sets line : Nat) (st : List Nat) : List Nat :=
  let mine := st.filter (fun l => setOf sets l == setOf sets line && l != line)
  let others := st.filter (fun l => setOf sets l != setOf sets line)
  line :: mine.take 3 ++ others

/-- A fetch that needs no store: a sentence's pinned code (R277). -/
def Ex.pinned (x : Ex) : Bool := x.grid.kernel.sentence && !x.g.mcc

/-- Whether the line of the split's PC is in its store. -/
def Ex.hit (x : Ex) : Bool := x.pinned || (Tab.read x.s.stores x.storeKey []).contains (x.lineAt x.sp.pc)

/-- The clause of the station that a group of a sentence is on (R276). -/
def Ex.stationClause (x : Ex) : Option Clause :=
  match Tab.find x.gang.stations x.g.team with
  | some st => x.grid.kernel.clauses.find? (fun c => c.n == st.clause)
  | none => none

/-- The split's PC has left the code that it may run (R64, R280). -/
def Ex.leftCode (x : Ex) : Option Cause :=
  if !x.sup && !x.g.mcc && x.grid.kernel.sentence then
    match x.stationClause with
    | some c =>
      let a := x.grid.kernel.base + x.sp.pc.toNat
      if c.start ≤ a ∧ a + 4 ≤ c.start + c.len ∧ x.inCode x.sp.pc then none else some .clauseUnmapped
    | none => some .clauseUnmapped
  else if x.inCode x.sp.pc then none
  else some .illegalOperand

/-- The word at an address of the code that a party runs. -/
def Ex.wordAt (x : Ex) (pc : Word) : Word := wordLE (x.code.drop pc.toNat)

/-- What the fetch of a party comes to. -/
inductive Fetched where
  /-- it may not issue -/
  | idle
  /-- it has taken a trap: its PC has left its code, or a trap of `TRAPQ` was to be delivered first -/
  | left (s : State)
  /-- its line is not in the store -/
  | miss (s : State)
  | word (w : Word) (s : State)
deriving DecidableEq, Repr

/-- Enters the handler for the oldest trap of `TRAPQ` of a group that has resumed with none running (R335). -/
def State.deliverQueued (s : State) (gid : Nat) : State :=
  match s.group gid with
  | some g => if g.owesQueued then s.afterHandler gid none else s
  | none => s

/-- The fetch of the party whose turn it is (R48, R64, R280, R335). -/
def fetch (s : State) : Fetched :=
  match Ex.load s with
  | none => .idle
  | some x =>
    if x.mayIssue then
      match x.leftCode with
      | some c => .left (x.takeTrap (.of c)).settleCheck
      | none =>
        if x.hit then
          .word (x.wordAt x.sp.pc)
            (if x.pinned then s
             else { s with stores := Tab.put s.stores x.storeKey
                              (touchLine x.storeSets (x.lineAt x.sp.pc) (Tab.read s.stores x.storeKey [])) })
        else .miss (x.waitFor .line).save
    else if x.mate.isNone && x.g.owesQueued then .left (s.deliverQueued x.gid)
    else .idle

/-- A candidate of an issue cycle: party number, entry, the slices it covers and, for a slice, its rank (R40). -/
structure Cand where
  gid : Nat
  split : Split
  weight : Nat
deriving DecidableEq, Repr

/-- The physical slice of slice `j` of a group (R24). -/
def physSlice (gid j : Nat) : Nat := 8 * (gidSlot gid % 16 % 4) + j

/-- Cycles that a candidate has waited at a slice. -/
def Cand.waited (c : Cand) (q : Nat) : Nat := Tab.read c.split.slices q 0

/-- Whether candidate `a` comes before `b` at slice `q` (R40). -/
def Cand.before (a b : Cand) (q : Nat) : Bool :=
  let wa := a.waited q
  let wb := b.waited q
  let tie := decide (gidSlot a.gid < gidSlot b.gid) || (a.gid == b.gid && decide (a.split.entry < b.split.entry))
  let oa := decide (64 ≤ wa)
  let ob := decide (64 ≤ wb)
  if oa != ob then oa
  else if oa then decide (wb < wa) || (wa == wb && tie)
  else decide (wb * b.weight < wa * a.weight) || (wa * a.weight == wb * b.weight && tie)

/-- A candidate covers a physical slice. -/
def Cand.covers (c : Cand) (q : Nat) : Bool := c.split.covered.any (fun j => physSlice c.gid j == q)

/-- The splits of a core that may issue but whose line is not in the store begin to wait for it: they are no candidates (R41, R48). -/
def State.awaitLines (s : State) (core : Nat) : State :=
  (s.groups.filter (fun e => !e.2.mcc && gidCore e.1 == core)).foldl (fun s e =>
    e.2.splits.foldl (fun s p =>
      match Ex.of s e.1 p.entry with
      | some x => if x.mate.isNone && x.mayIssue && x.leftCode.isNone && !x.hit then (x.waitFor .line).save else s
      | none => s) s) s

/-- The candidates of a core: every split that may issue (R40, R41). -/
def State.candidates (s : State) (core : Nat) : List Cand :=
  (s.groups.filter (fun e => !e.2.mcc && gidCore e.1 == core)).flatMap (fun e =>
    (e.2.splits.filter e.2.mayIssue).map (fun p => ⟨e.1, p, max 1 (s.weight (s.ctx (s.ctxOf e.2)).part)⟩))

/-- One issue cycle of a core: each slice chooses, and a split issues when every slice that it covers has chosen it; the
others' counts rise (R40). The splits chosen issue next; a second of one group issues as its mate (R332). Traps of `TRAPQ` that are
to be delivered come first (R335), and splits whose line is absent wait for it (R48). -/
def State.issueCycle (s0 : State) (core : Nat) : State :=
  let s := (((s0.groups.map (·.1)).filter (fun gid => gidCore gid == core)).foldl State.deliverQueued s0).awaitLines core
  let cs := s.candidates core
  let wins := fun (c : Cand) => c.split.covered.all (fun j =>
    let q := physSlice c.gid j
    cs.all (fun d => d == c || !d.covers q || c.before d q))
  let won := cs.filter wins
  let bump := fun (s : State) (c : Cand) =>
    match s.group c.gid with
    | none => s
    | some g =>
      let up := c.split.covered.foldl (fun t j =>
        let q := physSlice c.gid j
        Tab.put t q (if wins c then 0 else c.waited q + 1)) c.split.slices
      s.setGroup c.gid (g.withSplit { c.split with slices := up })
  let ordered := won.foldl (fun (acc : List Cand) c =>
    acc.filter (fun d => d.gid != c.gid || decide (d.split.slice < c.split.slice)) ++
      c :: acc.filter (fun d => d.gid == c.gid && !decide (d.split.slice < c.split.slice))) []
  { cs.foldl bump s with agenda := ordered.map (fun c => Act.run (.mate c.gid c.split.entry)) ++ s.agenda }

end Sys2Proof.Machine
end

