-- ==== Sys2Proof/Machine/Suspend.lean ====
section
/-! DEFINITION. Suspension of gangs, whole (R49-R51, R246, R273, R294): what is kept of the groups, and where the bytes of
their allotments are kept. -/
namespace Sys2Proof.Machine

/-- A location moved with the range of `n` bytes from `src` to `dst`. -/
def moved (src dst n : Nat) (a : Nat) : Nat := if src ≤ a ∧ a < src + n then a - src + dst else a

/-- A key of a release moved with its location (R184). -/
def movedKey (src dst n : Nat) (k : Nat) : Nat := k - k % 2 ^ 90 + moved src dst n (k % 2 ^ 90)

/-- Memory moved whole with what the device keeps of it; its stamps go (R50, R200). -/
def State.relocate (s : State) (src dst n : Nat) : State :=
  let mv := moved src dst n
  let bytes := s.mem.filter (fun c => decide (src ≤ c.1) && decide (c.1 < src + n))
  let s1 := (s.clearStamps src n).clearStamps dst n
  { s1 with
    mem := bytes.foldl (fun m c => Memory.write m (mv c.1) c.2) (Memory.zero (Memory.zero s.mem src n) dst n)
    poison := (s1.poison.filter (fun a => a < dst || dst + n ≤ a || (decide (src ≤ a) && decide (a < src + n)))).map mv, sync := s1.sync.map (fun g => mv (g * 32) / 32), trays := s1.trays.map mv
    bars := s1.bars.map (fun e => (mv e.1, e.2)), fills := s1.fills.map (fun e => (mv e.1, e.2))
    proofed := s1.proofed.map (fun e => (mv e.1, e.2)), vetoed := s1.vetoed.map (fun e => (mv e.1, e.2))
    checkedAreas := s1.checkedAreas.map (fun e => (mv e.1, e.2))
    rels := s1.rels.map (fun e => (movedKey src dst n e.1, e.2))
    coms := s1.coms.map (fun u => { u with loc := mv u.loc }), posted := s1.posted.map (fun p => { p with loc := mv p.loc })
    clusters := s1.clusters.map (fun (e : Nat × Cluster) => (e.1, { e.2 with qnt := e.2.qnt.map (fun b =>
      { loc := mv b.loc, updates := b.updates.map (fun u => { u with loc := mv u.loc }) }) })) }

/-- Whether a packet that reaches a station in a cycle goes before one that waits there: both came in that cycle, and its source core, or
else its source slot, is the lower (R288). -/
def State.goesBefore (s : State) (cycle : Nat) (p : Packet) (id : Nat) : Bool :=
  match Tab.find s.packets id with
  | some q => q.cycle == some cycle && (decide (p.core < q.core) || (p.core == q.core && decide (p.slot < q.slot)))
  | none => false

/-- A packet takes its reserved place when it reaches its station, in its place of the arrival order (R288). -/
def State.landPacket (s : State) (id : Nat) : State :=
  match Tab.find s.packets id with
  | none => s
  | some p =>
    if p.arrived then s
    else
      let ga := s.gang p.gang
      let st := (Tab.find ga.stations p.station).getD .empty
      let now := (s.cluster ((s.team (teamKey p.gang p.station)).core / 4)).lclk
      let first := st.waiting.takeWhile (fun k => !s.goesBefore now p k)
      let st1 := { st with waiting := first ++ id :: st.waiting.drop first.length, reserved := st.reserved.erase id }
      { s.setGang p.gang { ga with stations := Tab.put ga.stations p.station st1 } with
        packets := Tab.put s.packets id { p with arrived := true, cycle := some now } }

/-- What refers to a party by its number follows it (R18, R44, R50, R377). -/
def State.renameParty (s : State) (old new : Nat) : State :=
  { s with
    posted := s.posted.map (fun p => if p.gid = old then { p with gid := new } else p)
    teams := s.teams.map (fun (e : Nat × Team) =>
      (e.1, { e.2 with xq := e.2.xq.map (fun q => if q.gid = old then { q with gid := new } else q) }))
    ctxs := s.ctxs.map (fun (e : Nat × Ctx) =>
      (e.1, { e.2 with windows := e.2.windows.map (fun w => if w.gid = old ∧ !w.hostWin then { w with gid := new } else w) })) }

/-- A split halted at its boundary: an instruction that waits is backed out, and its count and ticket are kept (R49, R50). It issues again
on resume, so an access to a window that a sibling has released meanwhile finds the window not held (R144, log 147, DESIGN CHOICE, unsafe). -/
def Split.halted (p : Split) : Split := { p.settled with wait := none, slices := [] }

/-- Suspends one group: its older accesses are performed, its suspension is a release at `dev` that it acquires itself at
its resume, and it leaves its slot (R49, R183). -/
def State.suspendGroup (s : State) (gid : Nat) : State × Option Group :=
  match s.group gid with
  | none => (s, none)
  | some g =>
    let k := teamKey g.gang g.team
    let r := releaseBy (s.beforeRelease gid 2) gid k 2 g.vecs
    let g1 := { g with splits := g.splits.map Split.halted, vecs := mergeRelease { g.vecs with home := gidCluster gid } r.2 }
    ({ r.1 with groups := Tab.del r.1.groups gid }.renameParty gid (awayId g.gang g.team g.grp), some g1)

/-- A row of an accumulator tile with +0 in the bands of a mask (R270). -/
def Mcc.clearRow (m : Mcc) (tile mask row : Nat) : Mcc :=
  let kept := fun (a : Nat) => !(a / 512 == 128 * tile + row && bit mask (a % 512 / 128))
  { m with acc := m.acc.filter (fun (e : Nat × Word) => kept e.1)
           bad := m.bad.filter (fun b => match b with | .acc a => kept a | .weight _ _ => true) }

/-- The queue without the operations that `p` names; a faulted one keeps its place by its new position. -/
def Mcc.without (m : Mcc) (p : QOp → Bool) : Mcc :=
  { m with queue := m.queue.filter (fun q => !p q),
           qf := m.qf.map (fun f => (f.1, f.2.1, ((m.queue.take f.2.2).filter (fun q => !p q)).length)) }

/-- Where a suspension stops the queue (R272): an `MCLR` or `MSWAP` that has started completes, rows that have entered have
landed, and a slot wait is backed out with its count kept. -/
def Mcc.halted (m : Mcc) : Mcc :=
  let ends := fun (q : QOp) => q.started && (q.kind == 4 || q.kind == 5)
  let m1 := (m.queue.filter ends).foldl (fun m q =>
    if q.kind = 4 then (List.range 128).foldl (fun m r => m.clearRow q.tile q.mask r) m else m) m
  let m2 := m1.without ends
  { m2 with queue := m2.queue.map (fun q => { q with tail := 0, waiting := q.waiting && q.kind == 5 }) }

/-- Energy that the device's own work takes, charged to `DEVNRG`: the spec does not state how much (R382). -/
def State.charge (s : State) : State := { s.draw with devnrg := s.devnrg + Config.freeWord s.freeCtr }

/-- The leaves of type 4 of a context that map rows of an allotment, by their locations (R151). -/
def State.leavesOn (s : State) (ctx : Nat) (a : Allot) : List Nat :=
  ((s.leaves ctx).filter (fun e => e.1 == 0 && field e.2.2 1 0 == 2 && field e.2.2 4 2 == 4 && field e.2.2 31 22 == a.core
      && decide (a.row0 ≤ 2 * field e.2.2 21 12) && decide (2 * field e.2.2 21 12 + 2 ≤ a.row0 + a.rows))).map (·.2.1)

/-- The leaves of type 4 of live contexts that map an allotment (R50, R151). -/
def State.leavesTo (s : State) (a : Allot) : List Nat :=
  ((s.ctxs.filter (fun e => e.2.live)).flatMap (fun e => s.leavesOn e.1 a)).eraseDups

/-- Suspends a gang or sentence whole (R49, R51, R273, R294): packets on their way land, its groups and its MCC are kept, and
the bytes of its allotments too, and its slots, rows and blocks are free. -/
def State.suspendGang (s : State) (gang : Nat) (byHost : Bool) : State :=
  let ga := s.gang gang
  if ga.done || ga.suspended then s
  else
    let s1 := (s.packets.filter (fun e => e.2.gang == gang && !e.2.arrived)).foldl (fun s e => s.landPacket e.1) s
    let ids := (s1.groups.filter (fun e => e.2.gang == gang && !e.2.mcc)).map (·.1)
    let r := ids.foldl (fun (acc : State × List SavedGroup) gid =>
      match acc.1.suspendGroup gid with
      | (t, some g) => (t, acc.2 ++ [{ team := g.team, grp := g.grp, group := g }])
      | (t, none) => (t, acc.2)) (s1, [])
    let mgid := gidOf ga.cluster 64
    let m := if ga.usesMcc then
        match r.1.suspendGroup mgid, Tab.find s.mccs ga.cluster with
        | (t, some g), some m => (t, some (g, m.halted))
        | _, _ => (r.1, none)
      else (r.1, none)
    let s2 := { m.1 with mccs := if ga.usesMcc then Tab.del m.1.mccs ga.cluster else m.1.mccs }
    let s3 := (s2.gangTeams gang).foldl (fun s e =>
      let a := e.2.allot
      (s.relocate (a.loc 0) (parkLoc gang e.2.idx) (a.rows * 2048)).setTeam e.1 { e.2 with slots := [], leaves := s.leavesTo a }) s2
    ((s3.restBands ga.cluster (s.busyBands ga.cluster)).setGang gang
      { (s3.gang gang) with suspended := true, byHost := byHost, groups := r.2, mcc := m.2 }).charge

/-- Suspends every gang of a grid. -/
def State.suspendGrid (s : State) (grid : Nat) (byHost : Bool) : State :=
  (s.gangsOf grid).foldl (fun s k => s.suspendGang k byHost) s

/-- Suspends a grid as the host asks: no further gang of it forms or resumes until the host says so (R348, R366). -/
def State.haltGrid (s : State) (grid : Nat) : State :=
  let s1 := s.suspendGrid grid true
  s1.setGrid grid { (s1.grid grid) with halted := true }

end Sys2Proof.Machine
end

