-- ==== Sys2Proof/Machine/Hub.lean ====
section
/-! DEFINITION. Hub registers (R3, R12, R20-R22, R158, R359, R360, R363), as the host reaches them, and programs through a
page of target type 5 (R151); what a write of each does. -/
namespace Sys2Proof.Machine

/-- The bits of a hub register that a write changes; 0 where nothing is RW. -/
def hubMask (off : Nat) : Word :=
  if off = 0x10C then 0x00FFFFFF
  else if 0x200 ≤ off ∧ off < 0x210 ∧ off % 4 = 0 then 0xFFFFFFFF
  else if 0x400 ≤ off ∧ off < 0x480 then
    match off % 16 with
    | 0 => 0x000FFFFF
    | 4 => 0x007FF7FE
    | 8 => 0x0000001F
    | 12 => 0x000000FF
    | _ => 0
  else if 0x480 ≤ off ∧ off < 0x4A0 ∧ off % 4 = 0 then 0x0000000F
  else if off = 0x4A4 then 0xFFFFFFFF
  else if off = 0x4A8 then 0x000000FF
  else if 0x4C0 ≤ off ∧ off < 0x4E0 ∧ off % 4 = 0 then 0xFFFFFFFF
  else if 0x500 ≤ off ∧ off < 0x580 ∧ off % 4 = 0 then 0x0000001F
  else if 0x2000 ≤ off ∧ off < 0x3000 ∧ off % 4 = 0 then 0x83FF83FF
  else 0

/-- A word of the cost table (R21). -/
def State.costWord (s : State) (off : Nat) : Word :=
  let e := Tab.read s.costs (off / 8) (0, 0)
  word (if off % 8 = 0 then e.1 else e.2)

/-- Hub register space as it reads (R12, R20, R21, R363); `PEERCLR` is WO and reads 0 (R3). -/
def State.hubRead (s : State) (off : Nat) : Word :=
  if off = 0x4AC then 0
  else if 0x10000 ≤ off ∧ off < 0x10000 + 4 * 0x8000 ∧ off % 4 = 0 then s.readMap 0 ((off - 0x10000) / 4)
  else if hubMask off ≠ 0 then s.hubReg off
  else if off = 0x100 then word (0x0960 + s.rev % 256 * 2 ^ 16 + 2 ^ 24)
  else if off = 0x104 then word (940 + 800 * 2 ^ 16)
  else if off = 0x108 then 96
  else if off = 0x110 then 24
  else if off = 0x114 then Config.costBase
  else if off = 0x118 then 25
  else if off = 0x11C then word s.costv
  else if off = 0x4A0 then s.devnrg
  else if off = 0x4B0 then s.bootstat
  else if Config.costBase.toNat ≤ off ∧ off < Config.costBase.toNat + 8 * 25 ∧ off % 4 = 0 then
    s.costWord (off - Config.costBase.toNat)
  else 0

/-- Changes words of the map: MAPV rises by exactly 1 and the change is logged, 64 versions deep (R13, R19). A module whose
MAPV would pass 32 bits checks every context (R13). -/
def State.mapWrite (s : State) (ws : List (Nat × Word)) (deg : Bool) : State :=
  let units := ws.map (fun (w : Nat × Word) => (w.1, (word (s.mapWord w.1) ^^^ w.2).toNat))
  if 2 ^ 32 ≤ s.mapv + 1 then { s with checked := true }
  else
    { s with mapv := s.mapv + 1, map := ws.foldl (fun t w => Tab.put t w.1 w.2) s.map,
             mapLog := ({ version := s.mapv + 1, deg := deg, units := units } :: s.mapLog).take 64 }

/-- A range of `n` from `a` meets a range of `m` from `b`. -/
def meets (a n b m : Nat) : Bool := decide (0 < n) && decide (0 < m) && decide (a < b + m) && decide (b < a + n)

/-- Some range of partition `p` meets the same range of another one (R359). -/
def State.rangesMeet (s : State) (p : Nat) : Bool :=
  (List.range 8).any (fun q => q != p &&
    (meets (s.slot0 p) (s.slotCount p) (s.slot0 q) (s.slotCount q)
      || meets (s.xb0 p) (s.xbCount p) (s.xb0 q) (s.xbCount q)
      || meets (s.partRow0 p) (s.partRows p) (s.partRow0 q) (s.partRows q)))

/-- A resident team lies inside the ranges of its partition, or uses lent capacity outside them (R357, R359). -/
def State.teamFits (s : State) (p : Nat) (t : Team) : Bool :=
  t.slots.all (fun k => decide (s.slot0 p ≤ k) && decide (k < s.slot0 p + s.slotCount p))
    && t.pool.all (fun b => decide (s.xb0 p ≤ b) && decide (b < s.xb0 p + s.xbCount p))
    && decide (s.partRow0 p ≤ t.row0) && decide (t.row0 + (s.gridOf t).span t.idx ≤ s.partRow0 p + s.partRows p)

/-- A team holds capacity of partition `p` in state `s`, its control and spill rows included, that is no longer the partition's in state `t`
(R128, R286, R359). -/
def Team.loses (k : Team) (s t : State) (p : Nat) : Bool :=
  let has := fun (lo n j : Nat) => decide (lo ≤ j) && decide (j < lo + n)
  k.slots.any (fun j => has (s.slot0 p) (s.slotCount p) j && !has (t.slot0 p) (t.slotCount p) j)
    || k.pool.any (fun j => has (s.xb0 p) (s.xbCount p) j && !has (t.xb0 p) (t.xbCount p) j)
    || ((List.range ((s.gridOf k).span k.idx)).any (fun r => has (s.partRow0 p) (s.partRows p) (k.row0 + r) && !has (t.partRow0 p) (t.partRows p) (k.row0 + r)))

/-- The gangs that hold capacity which a write of a partition's ranges takes away, the partition's own or lent ones (R359). -/
def State.losing (s t : State) (p : Nat) : List Nat :=
  (s.gangs.filter (fun e => !e.2.done && !e.2.suspended && (s.gangTeams e.1).any (fun k => k.2.loses s t p))).map (·.1)

/-- Whether a grid has cross-gang synchronisation: more than one stage, or an object that more than one of its gangs has used (R358). -/
def State.crossGang (s : State) (grid : Nat) : Bool :=
  let mine := s.users.filter (fun u => (s.gang u.2).grid == grid)
  decide (1 < (s.grid grid).counts.length) || mine.any (fun u => mine.any (fun v => v.1 == u.1 && v.2 != u.2))

/-- Teams of a grid that the ranges of its partition hold at once on a live core (R44, R145, R359). -/
def State.coreHolds (s : State) (g : Grid) (core : Nat) : Nat :=
  let p := (s.ctx g.ctx).part
  if !s.coreLive core then 0
  else
    let n := min (s.slotCount p / max 1 g.groups) (s.partRows p / max 1 (g.span 0))
    if g.kernel.xblocks = 0 then n else min n (s.xbCount p / g.kernel.xblocks)

/-- A partition's ranges hold every gang of a grid that has been formed and has not ended, each on one tile, or one cluster (R25, R27,
R358). -/
def State.holdsGangs (s : State) (grid : Nat) : Bool :=
  let g := s.grid grid
  let live := s.gangs.filter (fun e => e.2.grid == grid && !e.2.done)
  let size := live.foldl (fun n e => max n e.2.size) 1
  let room := if g.kernel.mcc.isSome then
      ((List.range 144).filter (fun c => s.mccLive c && decide (size ≤ ((List.range 4).filter (fun q => decide (0 < s.coreHolds g (4 * c + q)))).length))).length
    else (List.range 8).foldl (fun n t => n + ((List.range 72).foldl (fun m q => m + s.coreHolds g (72 * t + q)) 0) / size) 0
  decide (live.length ≤ room)

/-- The fields of a partition's registers lie in their ranges: 0-16 slots, 0-32 blocks and 0-1,536 rows, a weight of 1-8 (R359). -/
def partitionOk (off : Nat) (v : Word) : Bool :=
  match off with
  | 0 => decide (field v.toNat 8 4 ≤ 16) && decide (field v.toNat 19 14 ≤ 32)
  | 4 => decide (field v.toNat 22 12 ≤ 1536)
  | 8 => decide (1 ≤ field v.toNat 3 0) && decide (field v.toNat 3 0 ≤ 8)
  | _ => true

/-- The running grids of a partition that a change of its ranges suspends whole: those with cross-gang synchronisation of which it cannot
hold every gang any more, suspended ones included (R358). -/
def State.unheld (s t : State) (p : Nat) : List Nat :=
  (s.grids.filter (fun e => !e.2.complete && (s.ctx e.2.ctx).part == p && s.crossGang e.1 && !t.holdsGangs e.1)).map (·.1)

/-- A write of a partition's range registers (R318, R358, R359): ignored where ranges would meet; a change that takes
capacity from a resident team suspends the gangs that no longer fit, also those of another partition that have borrowed it; a shrink
suspends whole the partition's grids that it can hold no more, and voids with blame OPERATOR the quotes of the partition
whose reservations it touches. A partition is created when it first has group slots: its counters start anew (R361, log 160, DEDUCED, unsafe). -/
def State.setPartition (s : State) (p off : Nat) (v : Word) : State :=
  let k := 0x400 + 16 * p + off
  let t0 := { s with regs := Tab.put s.regs k v }
  let begun := fun (u : State) => if s.slotCount p = 0 ∧ 0 < t0.slotCount p then { u with counters := u.counters.filter (fun e => e.1 / 65536 != p) } else u
  let t := begun t0
  if t.rangesMeet p then s
  else
    let smaller := decide (t.slotCount p < s.slotCount p) || decide (t.xbCount p < s.xbCount p) || decide (t.partRows p < s.partRows p)
      || s.slot0 p != t.slot0 p || s.xb0 p != t.xb0 p || s.partRow0 p != t.partRow0 p
    if !smaller then t
    else
      let gs := s.losing t p
      let s1 := gs.foldl (fun s k => s.suspendGang k true) ((s.unheld t p).foldl State.haltGrid s)
      let touched := (s1.grids.filter (fun e => e.2.quote.isSome && (s1.ctx e.2.ctx).part == p)).map (·.1)
      let s2 := touched.foldl (fun s g => s.voidQuote g blameOperator 0 .none true true) s1
      let idle := (s2.ctxs.filter (fun e => e.2.live && e.2.part == p)).map (·.1)
      let s3 := idle.foldl (fun s c => s.voidIdle c blameOperator 0 .none true) s2
      (begun { s3 with regs := Tab.put s3.regs k v }).settleCheck

/-- Word 1 of the map with the number of peer nodes that are known after some words have changed (R12). -/
def State.knownPeers (s : State) (ws : List (Nat × Word)) : Nat × Word :=
  let at_ := fun (n : Nat) => (Tab.read ws (0x6000 + n) (word (s.mapWord (0x6000 + n)))).toNat
  (1, word (setField (s.mapWord 1) 23 16 ((List.range 256).filter (fun n => at_ n % 4 != 0)).length))

/-- A write of `PEERCLR`: a LOST peer becomes absent, a restoration (R378). -/
def State.clearPeer (s : State) (node : Nat) : State :=
  if s.peerState node = 3 then
    let ws := [(0x6000 + node, word (setField (s.mapWord (0x6000 + node)) 1 0 0))]
    (s.mapWrite (ws ++ [s.knownPeers ws]) false).settleCheck
  else s

/-- Whether a function has a running grid (R363). -/
def State.fnBusy (s : State) (fn : Nat) : Bool := s.grids.any (fun e => !e.2.complete && (s.ctx e.2.ctx).fn == fn)

/-- The boot has failed: only function 0 is enabled (R363, R383). -/
def State.bootFailed (s : State) : Bool := field s.bootstat.toNat 9 7 != 0

/-- A write of a hub register (R3, R22, R359-R363): its RW bits take the value, and the registers with an effect of their
own act; a partition's field outside its range is ignored (log 94, DEDUCED, unsafe). A write of an address that is read-only, or holds nothing, is ignored (log 131, DESIGN CHOICE, unsafe). -/
def State.hubWrite (s : State) (off : Nat) (v : Word) : State :=
  let new := (s.hubReg off &&& ~~~ hubMask off) ||| (v &&& hubMask off)
  let t := { s with regs := Tab.put s.regs off new }
  if off = 0x4AC then s.clearPeer (v.toNat % 256)
  else if hubMask off = 0 ∨ (0x400 ≤ off ∧ off < 0x480 ∧ !partitionOk (off % 16) new) then s
  else if 0x400 ≤ off ∧ off < 0x480 ∧ off % 16 < 8 then s.setPartition ((off - 0x400) / 16) (off % 16) new
  else if 0x480 ≤ off ∧ off < 0x4A0 then t.revote
  else if 0x500 ≤ off ∧ off < 0x580 then (if s.fnBusy ((off - 0x500) / 4) || (s.bootFailed && off != 0x500) then s else t)
  else t

end Sys2Proof.Machine
end

