-- ==== Sys2Proof/Machine/Clock.lean ====
section
/-! DEFINITION. What passing cycles change (R4): local cycles of a cluster count `LCLK`, residency, waits, handlers and
windows; hub cycles count the device's own timeouts. How many cycles pass between two steps is not the model's to say. -/
namespace Sys2Proof.Machine

/-- Whether a wait carries a counter (R41, R77, R314). -/
def Wait.declared : Wait → Bool
  | .xacq _ | .join | .bar _ _ | .tbar _ | .claim _ | .fill _ _ _ | .child _ | .mwait _ => true
  | _ => false

/-- Some team of a grid is suspended by device or operator action: its grid's wait counters are frozen (R51, R314). -/
def State.frozen (s : State) (grid : Nat) : Bool := s.gangs.any (fun e => e.2.grid == grid && e.2.suspended && !e.2.done)

/-- The walker of a context, with nothing cached. -/
def State.plainWalker (s : State) (ctx : Nat) : Walker := { ctx := ctx, part := (s.ctx ctx).part, user := true, tlbs := [], who := none }

/-- The RECOVERING node in whose memory the tray slot that a group's wait is for lies (R314): barrier words and headers are always in
local HBM. -/
def State.waitPeer (s : State) (g : Group) (w : Wait) : Option Nat :=
  match w with
  | .claim h => s.slotPeer (s.plainWalker (s.ctxOf g)) h (s.trClaimed h)
  | .fill h i _ => s.slotPeer (s.plainWalker (s.ctxOf g)) h i.toNat
  | _ => none

/-- A group's wait is on an object of a node that the map marks RECOVERING (R314). -/
def State.onRecovering (s : State) (g : Group) (w : Wait) : Bool := (s.waitPeer g w).isSome

/-- The RECOVERING node in whose memory the tray slot that a queued operation uses lies (R268, R314). -/
def State.queuePeer (s : State) (c : Nat) (q : QOp) : Option Nat :=
  match s.group (gidOf c 64), q.tray with
  | some g, some w =>
    let wk := s.plainWalker (s.ctxOf g)
    match s.object wk none w 64 64 false with
    | .at h => s.slotPeer wk h (match q.index with | some i => i.toNat | none => if q.kind = 3 then s.trClaimed h else s.trReleased h)
    | _ => none
  | _, _ => none

/-- A count raised by `n`, but not past a limit: the trap that a further cycle would bring is an event of its own (R314). -/
def capped (c n : Nat) (limit : Option Nat) : Nat := match limit with | some m => min (c + n) (max c m) | none => c + n

/-- The declared limit of the instruction at which a split waits; none in a handler (R314, R334). -/
def State.waitLimit (s : State) (gid : Nat) (g : Group) (p : Split) : Option Nat :=
  if (match g.saved with | some sv => sv.entry == p.entry | none => false) then none
  else (Ex.limit ⟨s, gid, { g with saved := none }, p, none⟩ 1 p.pc).map (·.n)

/-- A waiting split after `n` cycles (R140, R314). -/
def State.waitOn (s : State) (gid : Nat) (g : Group) (n : Nat) (p : Split) : Split :=
  match p.wait with
  | some (.yield left) => { p with wait := some (.yield (left - n)) }
  | some w =>
    let handler := match g.saved with | some sv => sv.entry == p.entry | none => false
    if !w.declared || handler || s.frozen (s.gang g.gang).grid || s.onRecovering g w then p
    else { p with count := capped p.count n (s.waitLimit gid g p) }
  | none => p

/-- The cycles of a handler that a watchdog allows (R347). -/
def handlerCycles : Nat := 2 ^ 20

/-- A group after `n` cycles of its cluster (R314, R347). -/
def State.groupOn (s : State) (gid n : Nat) (g : Group) : Group :=
  { g with splits := g.splits.map (s.waitOn gid g n), age := g.age + n,
           saved := g.saved.map (fun sv =>
             if g.run = .running then { sv with cycles := capped sv.cycles n (some handlerCycles) } else sv) }

/-- The declared limit of a queued operation that waits (R41, R257). -/
def State.queuedLimit (s : State) (c : Nat) (q : QOp) : Option Nat :=
  match s.group (gidOf c 64) with
  | some g => ((s.grid (s.gang g.gang).grid).kernel.limits.find? (fun e =>
      e.kind == 1 && e.mcc && e.key == (s.grid (s.gang g.gang).grid).kernel.mccBase + q.site.toNat)).map (·.n)
  | none => none

/-- A queued operation after `n` cycles: what is left before it completes, and its wait; an `MDRN`'s has no counter (R254, R314). -/
def State.queuedOn (s : State) (c n : Nat) (frozen : Bool) (q : QOp) : QOp :=
  if q.waiting then (if q.kind = 3 || frozen || (s.queuePeer c q).isSome then q else { q with waited := capped q.waited n (s.queuedLimit c q) })
  else { q with tail := q.tail - n }

/-- The window of an acknowledgement, in cycles (R18). -/
def ackCycles : Nat := 2 ^ 24

/-- `n` local cycles of a cluster pass (R4, R18, R72, R255, R313, R314, R361). -/
def State.tick (s : State) (c n : Nat) : State :=
  let here := fun (gid : Nat) => gidCluster gid == c
  let cl := s.cluster c
  let frozen := match s.group (gidOf c 64) with | some g => s.frozen (s.gang g.gang).grid | none => false
  let live := fun (gid : Nat) => match s.group gid with | some g => g.run == .running | none => false
  let idle := (List.range 4).foldl (fun t b =>
    match Tab.find s.mccs c with
    | some m => if m.busy cl.narrow b then Tab.put t b 0 else Tab.put t b (Tab.read t b 0 + n)
    | none => Tab.put t b (Tab.read t b 0 + n)) cl.idle
  let counted := (s.groups.filter (fun e => here e.1)).foldl (fun (s : State) e =>
    let k := (e.2.splits.filter (fun p => p.wait.isSome)).length
    if k = 0 then s else s.count (s.ctx (s.ctxOf e.2)).part e.1 2 (n * k)) s
  { counted with
    clusters := Tab.put s.clusters c { cl with lclk := (cl.lclk + n) % 2 ^ 64, idle := idle }
    teams := s.teams.map (fun e => if s.groups.any (fun g => here g.1 && !g.2.mcc && teamKey g.2.gang g.2.team == e.1)
      then (e.1, { e.2 with used := e.2.used + n }) else e)
    groups := s.groups.map (fun e => if here e.1 then (e.1, s.groupOn e.1 n e.2) else e)
    mccs := Tab.upd s.mccs c (fun m => { m with queue := m.queue.map (s.queuedOn c n frozen) })
    ctxs := s.ctxs.map (fun e => (e.1, { e.2 with windows := e.2.windows.map (fun w =>
      if !w.hostWin && here w.gid && live w.gid then { w with cycles := capped w.cycles n (some ackCycles) } else w) })) }

/-- The upstream grid of a grid has completed, or it has none (R313, R323). -/
def State.upstreamDone (s : State) (g : Grid) : Bool := match g.dep with | some d => (s.grid d.grid).complete | none => true

/-- What is left of a grid's bound after `n` ns, which the hub die's clock of 1 GHz counts (R5, R315). -/
def State.boundOn (s : State) (n : Nat) (g : Grid) : Grid :=
  if g.complete || !s.upstreamDone g then g else { g with boundLeft := g.boundLeft - n }

/-- `n` hub-die cycles pass (R8, R18, R368, R377, R381). -/
def State.hubTick (s : State) (n : Nat) : State :=
  { s with
    hub := (s.hub + n) % 2 ^ 64
    settle := s.votes.map (fun e => (e.1, if s.worksOn (e.1 % 8) (e.1 / 8) then 0 else Tab.read s.settle e.1 0 + n))
    grids := s.grids.map (fun e => (e.1, s.boundOn n e.2))
    recovering := s.recovering.map (fun e => (e.1, e.2 + n))
    qis := s.qis.map (fun e => if e.2.unreported = 0 then e else (e.1, { e.2 with sinceFirst := e.2.sinceFirst + n }))
    ctxs := s.ctxs.map (fun e => (e.1, { e.2 with windows := e.2.windows.map (fun w =>
      if w.hostWin then { w with cycles := capped w.cycles n (some ackCycles) } else w) })) }

end Sys2Proof.Machine
end

