-- ==== Sys2Proof/Machine/Operands.lean ====
section
/-! DEFINITION. The operand forms that the entries share: the vector and the scalar form of R99, predicate results (R114,
R116), votes (R117), lane sources (R118), and the addresses of memory operands (R204, R209-R212). -/
namespace Sys2Proof.Machine

/-- The vector form of R99 over the lanes of `m`: each writes its value, which also becomes the new `L0`; every other
lane's new `L0` is 0. -/
def Ex.vecOver (x : Ex) (m : Word) (nw : Bool) (n : Nat) (f : Nat → Word) : Ex :=
  let x1 := if nw then x else x.wrV n m f
  x1.latch (fun l => if Word.has m l then f l else 0)

/-- The vector or scalar form of R99 for a result without flags or draws. -/
def Ex.form (x : Ex) (nw : Bool) (d : Operand) (f : Nat → Word) : Ex :=
  match d with
  | .vreg n => x.vecOver x.acting nw n.val f
  | d => if x.go then x.wr nw d (f x.lead) else x

/-- A lane's generator (R89). -/
def Ex.rng (x : Ex) (l : Nat) : Nat := (x.g.rngs.at l).toNat

/-- The generators of the lanes of `m` set: by an instruction that draws in them (R89), or by a write. -/
def Ex.setRng (x : Ex) (m : Word) (f : Nat → Nat) : Ex :=
  { x with g := { x.g with rngs := lanesOf (fun l => if Word.has m l then word (f l) else x.g.rngs.at l) } }

/-- The flags that the lanes of `m` raise (R91). -/
def orOver (m : Word) (f : Nat → Nat) : Nat := lanes.foldl (fun a l => if Word.has m l then a ||| f l else a) 0

/-- The vector or scalar form of R99 for a result with flags and draws: flags are raised and generators advance in active
lanes whose guard is true, or in the leader lane (R89, R91). -/
def Ex.formRes (x : Ex) (nw : Bool) (d : Operand) (draws : Bool) (f : Nat → Res) : Ex :=
  match d with
  | .vreg n =>
    let m := x.acting
    let rs := lanes.map (fun l => if Word.has m l then f l else ⟨0, 0, 0⟩)
    let r := fun (l : Nat) => rs.getD l ⟨0, 0, 0⟩
    let x1 := x.vecOver m nw n.val (fun l => word (r l).x)
    let x2 := if draws then x1.setRng m (fun l => (r l).rng) else x1
    x2.flag (orOver m (fun l => (r l).fl))
  | d =>
    if x.go then
      let r := f x.lead
      let x1 := x.wr nw d (word r.x)
      let x2 := if draws then x1.setRng (1#32 <<< x.lead) (fun _ => r.rng) else x1
      x2.flag r.fl
    else x

/-- `MODE.round` is `sto` (R88). -/
def Ex.sto (x : Ex) : Bool := field x.mode 11 9 == 5

/-- An arithmetic instruction (R104, R107). -/
def Ex.alu (x : Ex) (op : AluOp) (f : RForm) : Ex :=
  x.formRes f.nw f.d (x.sto && op.rounds) (fun l =>
    aluWord op x.mode (x.rd f.a l).toNat (x.rd f.b l).toNat (x.rd f.d l).toNat (x.rng l))

/-- A logic or bit instruction (R109). -/
def Ex.bits (x : Ex) (op : BitOp) (f : RForm) : Ex := x.form f.nw f.d (fun l => bitWord op (x.rd f.a l) (x.rd f.b l))

/-- A conversion into `dst` (R112). -/
def Ex.convert (x : Ex) (dst : Ety) (f : RForm) : Ex :=
  x.formRes f.nw f.d x.sto (fun l =>
    cvtWord dst x.mode (x.rd f.a l).toNat (x.rd f.b l).toNat (x.rd f.d l).toNat (x.rng l))

/-- The lanes in which a predicate result is written (R114), on the MCC the one lane (R58). -/
def Ex.setPred (x : Ex) (nw : Bool) (d : Operand) (f : Nat → Bool) : Ex :=
  match d with
  | .preg n => if nw then x else x.wrP n.val x.acting f
  | _ => x

/-- A compare (R114): the flags of each lane are raised. -/
def Ex.compare (x : Ex) (op : CmpOp) (f : RForm) : Ex :=
  let r := fun (l : Nat) => cmpWord op x.mode (x.rd f.a l).toNat (x.rd f.b l).toNat
  (x.setPred f.nw f.d (fun l => (r l).1)).flag (orOver x.acting (fun l => (r l).2))

/-- A predicate operand's bit in a lane. -/
def Ex.bitOf (x : Ex) (o : Operand) (l : Nat) : Bool := x.rd o l != 0

/-- The lanes that a vote counts, and those of them where the predicate holds (R117). -/
def Ex.ballot (x : Ex) (o : Operand) : Word := maskOf (fun l => Word.has x.acting l && x.bitOf o l)

/-- A vote (R117): `f` of the ballot and the counted lanes. -/
def Ex.vote (x : Ex) (f : RForm) (g : Word → Word → Word) : Ex :=
  if x.go then x.wr f.nw f.d (g (x.ballot f.a) x.acting) else x

/-- The value that lane `src` supplies, and whether reading it raises DEADRD (R118). -/
def Ex.laneSource (x : Ex) (o : Operand) (src : Nat) : Word × Nat :=
  if Word.has x.active src then (x.rd o src, 0)
  else if Word.has x.g.dead src then (0, Fpx.deadrd)
  else (0, 0)

/-- A lane shuffle with its source lanes (R118). -/
def Ex.shuffle (x : Ex) (f : RForm) (src : Nat → Nat → Nat) : Ex :=
  let r := fun (l : Nat) => x.laneSource f.a (src l (x.rd f.b l).toNat)
  (x.form f.nw f.d (fun l => (r l).1)).flag (orOver x.acting (fun l => (r l).2))

/-- The lanes in which a memory access acts: the leader, if its guard is true, in a scalar form (R206, R210). -/
def Ex.memLanes (x : Ex) (vector : Bool) : Word :=
  if vector then x.acting else if x.go then 1#32 <<< x.lead else 0

/-- Whether a form with these operands is a vector form (R56). -/
def anyVec (os : List Operand) : Bool := os.any Operand.isVec

/-- A local offset (R146). -/
def Ex.offsetAt (x : Ex) (f : RForm) (l : Nat) : Nat := ((x.rd f.a l) + (x.rd f.b l)).toNat

/-- A global address: the pair, and the sign-extended offset (R211). -/
def Ex.addrAt (x : Ex) (f : RForm) (l : Nat) : Nat :=
  wrapNat 64 ((x.pair f.a l : Int) + (x.rd f.b l).toInt)

/-- A sync address word in a pair of scalars (R205). -/
def Ex.syncWord (x : Ex) (o : Operand) : Nat := x.pair o x.lead

end Sys2Proof.Machine
end

