-- ==== Sys2Proof/Machine/Travel.lean ====
section
/-! DEFINITION. Travels of a sentence: which transfers travel (R281), their counters (R282), places and choice of station
(R286, R287), the packet (R284) and the departure (R285). -/
namespace Sys2Proof.Machine

/-- The place of an address in the code section (R275, R301). -/
def Ex.sectionAt (x : Ex) (pc : Word) : Nat := (if x.g.mcc then x.grid.kernel.mccBase else x.grid.kernel.base) + pc.toNat

/-- Whether a transfer to an address is a travel (R281). -/
def Ex.travels (x : Ex) (t : Word) : Bool :=
  if x.sup || x.g.mcc || !x.grid.kernel.sentence then false
  else
    match x.stationClause with
    | some c => let a := x.sectionAt t; !(decide (c.start ≤ a) && decide (a < c.start + c.len))
    | none => true

/-- The places of a station: 32 of its queue and its spill places (R286). -/
def Station.places (st : Station) : Nat := 32 + st.spill

/-- The places of a station that packets hold or departures have reserved. -/
def Station.occupied (st : Station) : Nat := st.waiting.length + st.reserved.length

/-- The stations of a clause with a free place, in ascending order (R285, R286). -/
def Gang.openStations (ga : Gang) (clause : Nat) : List (Nat × Station) :=
  (List.range ga.stations.length).filterMap (fun k =>
    match Tab.find ga.stations k with
    | some st => if st.clause = clause ∧ st.occupied < st.places then some (k, st) else none
    | none => none)

/-- The station chosen among those of least occupancy (R287). -/
def chooseStation (ks : List (Nat × Station)) (station grp target : Nat) : Option Nat :=
  let least := ks.foldl (fun m k => min m k.2.occupied) (2 ^ 32)
  let best := ks.filter (fun k => k.2.occupied == least)
  let h := (16 * station + grp) ^^^ (target / 4)
  (best[h % best.length]?).map (·.1)

/-- The counter of a travel and its limit, by the item that it is counted against (R282). -/
def Ex.travelLimit (x : Ex) (item : Option Word) : Option (Nat × Nat) :=
  match item with
  | none => none
  | some pc => (x.limit 3 pc).map (fun e => (e.key, e.n))

/-- The registers that `LIVE` selects, as operand values (R283). -/
def liveSelected (live : Nat) : List Nat :=
  (List.range 32).filter (fun n => bit live (n / 4)) ++ ((List.range 32).filter (fun n => bit live (8 + n / 8))).map (64 + ·)
    ++ (if bit live 12 then (List.range 7).map (100 + ·) else [])

/-- The packet of a split (R284). -/
def Ex.packet (x : Ex) (sig : Split) (station : Nat) (isReturn : Bool) (r : Release) : Packet :=
  let sel := liveSelected x.g.live.toNat
  { id := x.s.nextPacket, gang := x.g.gang, dest := sig.pc, station := station, isReturn := isReturn, arrived := false, cycle := none,
    core := gidCore x.gid, slot := gidSlot x.gid % 16, source := x.g.team,
    ueLane := x.g.ueLane.filter (fun e => (e.1 = 128 ∨ sel.contains e.1) && Word.has sig.lanes e.2), lanes := sig.lanes, exec := x.g.exec &&& sig.lanes,
    dead := x.g.dead &&& sig.lanes, mode := x.g.mode, fpx := x.g.fpx, live := x.g.live,
    v := x.g.v.filter (fun e => sel.contains e.1), s := x.g.s.filter (fun e => sel.contains (64 + e.1)),
    p := x.g.p.filter (fun e => sel.contains (100 + e.1)), rngs := x.g.rngs, loops := sig.loops, rets := sig.rets, release := r,
    present := sel }

/-- A departure, all but the removal of the split (R285): the checks in their order, the place and the count, the release
and the packet. A split whose lanes are all dead ends instead, with no place and no count. -/
def Ex.depart (x : Ex) (sig : Split) (item : Option Word) (isReturn : Bool) : Except Trap Ex :=
  match x.grid.kernel.clauseAt sig.pc with
  | none => .error (.of .clauseUnmapped)
  | some c =>
    let used := fun (k : Nat) => Tab.read x.grid.travels k 0
    let past := match x.travelLimit item with | some (k, n) => decide (n ≤ used k) | none => false
    if past then .error (.of .limitTravel)
    else
      let clid := x.g.team
      match chooseStation (x.gang.openStations c.n) clid x.g.grp sig.pc.toNat with
      | none => .error (.of .travelOverflow)
      | some k =>
        if sig.lanes &&& ~~~ x.g.dead = 0 then .ok x
        else
          let r := x.release 2
          let y := r.1
          let p := y.packet sig k isReturn r.2
          let ga := y.gang
          let st := (Tab.find ga.stations k).getD .empty
          let ga1 := { ga with stations := Tab.put ga.stations k { st with reserved := st.reserved ++ [p.id] } }
          let gr := y.grid
          let gr1 := match y.travelLimit item with
            | some (key, _) => { gr with travels := Tab.put gr.travels key (Tab.read gr.travels key 0 + 1) }
            | none => gr
          let s1 := ((y.s.setGang y.g.gang ga1).setGrid y.gridId gr1).count y.part y.gid 9 1
          .ok { y with s := { s1 with packets := Tab.put s1.packets p.id p, nextPacket := p.id + 1 } }

/-- The issuing split leaves its group: it takes up a side that it recorded, or ends; a group without a split retires (R36,
R39, R285). -/
def Ex.leaveGroup (x : Ex) : State :=
  let g := x.home.endSplit x.sp.entry
  let s1 := x.s.setGroup x.gid g
  if g.splits.isEmpty then s1.retireGroup x.gid else s1

/-- A transfer of the whole split, its stacks changed already, to its PC: a travel, or a move (R281). -/
def Ex.transfer (x : Ex) (sig : Split) (item : Option Word) (isReturn : Bool) : Except Trap State :=
  if x.travels sig.pc then (x.depart sig item isReturn).map Ex.leaveGroup
  else .ok { x with sp := sig }.save

end Sys2Proof.Machine
end

