-- ==== Sys2Proof/Machine/Control.lean ====
section
/-! DEFINITION. Control flow: branches, frames and joins (R34-R37, R130-R132), calls and returns (R133-R135), loops
(R136-R138), `EXIT`, `YLD`, `BKPT`, `PHASE` and `TRAP` (R139-R142, R337), and the windows (R143, R144). -/
namespace Sys2Proof.Machine

/-- Which way a guarded transfer goes (R34). -/
inductive Way where
  | taken
  | falls
  /-- the lanes of the taken side -/
  | diverges (m : Word)
deriving DecidableEq, Repr

/-- The decision of a guarded transfer (R34); in a handler the leader's guard decides (R334). -/
def Ex.way (x : Ex) : Way :=
  if x.sup || x.active = 0 then (if x.go then .taken else .falls)
  else if x.acting = x.active then .taken
  else if x.acting = 0 then .falls
  else .diverges x.acting

/-- The buffer entries of a core that its groups' splits occupy (R35). -/
def State.entriesUsed (s : State) (core : Nat) : List Nat :=
  (s.groups.filter (fun e => !e.2.mcc && gidCore e.1 == core)).flatMap (fun e => e.2.splits.map (·.entry))

/-- A free entry of the core's pool; which one it is only ties of arbitration show (R35, log 22, DESIGN CHOICE, unsafe). -/
def Ex.freeEntry (x : Ex) : Option Nat :=
  ((List.range 48).map (16 + ·)).find? (fun e => !(x.s.entriesUsed (gidCore x.gid)).contains e)

/-- A free control area of a group (R128). -/
def Group.freeArea (g : Group) : Nat :=
  let used := g.splits.map (·.area) ++ g.frames.flatMap (fun f => f.sides.map (·.area))
  ((List.range 32).find? (fun a => !used.contains a)).getD 0

/-- The innermost frame changed. -/
def Group.onFrame (g : Group) (f : Frame → Frame) : Group :=
  match g.frames with
  | [] => g
  | h :: t => { g with frames := f h :: t }

/-- A number added to a list that lacks it. -/
def addNew (l : List Nat) (n : Nat) : List Nat := if l.contains n then l else l ++ [n]

/-- A split created by a divergence belongs to the innermost frame, and to every other frame that its parent belongs to, where it may
come to stand for the parent (R35, R131, log 119, DEDUCED, unsafe). -/
def Group.bears (g : Group) (parent : Nat) (child : Option Nat) : Group :=
  let add := fun (h : Frame) => { h with members := match child with | some e => addNew h.members e | none => h.members }
  match g.frames with
  | [] => g
  | h :: t =>
    let inner := add { h with members := addNew h.members parent }
    { g with frames := inner :: t.map (fun h => if h.members.contains parent then add h else h) }

/-- A divergence (R34-R36): `tk` and `ft` are the two sides as the transfer leaves them, apart from lanes and entries. -/
def Ex.divide (x : Ex) (m : Word) (tk ft : Split) : Except Trap State :=
  let rest := x.sp.lanes &&& ~~~ m
  if x.g.frames.isEmpty then .error (.of .noJoin)
  else
    match x.freeEntry with
    | some e =>
      let t := { tk.settled with entry := e, lanes := m, slices := [], area := x.g.freeArea }.stale
      let f := { ft with lanes := rest }.stale
      let g := { x.g.withSplit f with splits := (x.g.withSplit f).splits ++ [t] }
      .ok (x.putGroup (g.bears x.sp.entry (some e)))
    | none =>
      let side : Side := { pc := ft.pc, lanes := rest, loops := ft.loops, rets := ft.rets, owner := x.sp.entry, area := x.g.freeArea }
      let g := ((x.g.withSplit { tk with lanes := m }.stale).bears x.sp.entry none).onFrame (fun h => { h with sides := side :: h.sides })
      .ok (x.putGroup g)

/-- A divergent transfer (R35, R281): the sides that travel depart, and the other goes on in the parent's entry; with
neither, the split divides. `pops` marks the fall-through side of an `LPE`, which pops its loop and may travel too. -/
def Ex.partWays (x : Ex) (m : Word) (tk ft : Split) (pops : Bool) : Except Trap State :=
  let tk1 := { tk with lanes := m }
  let ft1 := { ft with lanes := x.sp.lanes &&& ~~~ m }
  match x.travels tk.pc, pops && x.travels ft.pc with
  | false, false => x.divide m tk ft
  | true, false => (x.depart tk1 (some x.sp.pc) false).map (fun y => { y with sp := ft1.stale }.save)
  | false, true => (x.depart ft1 (some x.sp.pc) false).map (fun y => { y with sp := tk1.stale }.save)
  | true, true =>
    match x.depart tk1 (some x.sp.pc) false with
    | .error t => .error t
    | .ok y => (y.depart ft1 (some x.sp.pc) false).map Ex.leaveGroup

/-- The target of a B-format transfer (R64). -/
def Ex.target (x : Ex) (off : BitVec 22) : Word := pcPlus x.sp.pc (4 * off.toInt)

/-- A guarded transfer (R130, R133, R137): `tk` is the split on the taken side. -/
def Ex.branch (x : Ex) (tk ft : Split) : Except Trap State :=
  match x.way with
  | .falls => .ok { x with sp := ft }.save
  | .taken => x.transfer tk (some x.sp.pc) false
  | .diverges m => x.partWays m tk ft false

/-- `BR` (R130). -/
def execBr (off : BitVec 22) (s : State) : Host.Outcome State Fault Refusal :=
  issueWith (.br off) s (fun x => x.branch { x.sp with pc := x.target off } { x.sp with pc := x.sp.pc + 4 })

/-- The depth check of a call to a target (R133, R334). -/
def Ex.depthOk (x : Ex) (t : Word) : Bool :=
  decide (x.sp.rets.length < 255) &&
    (match x.limit 2 t with | some e => decide (x.sp.rets.length + 1 ≤ e.n) | none => true)

/-- The split after a call (R133). -/
def Ex.called (x : Ex) (t : Word) : Split := { x.sp with pc := t, rets := ⟨x.sp.pc + 4, x.sp.pc⟩ :: x.sp.rets }

/-- `CALL` (R133). -/
def execCall (off : BitVec 22) (s : State) : Host.Outcome State Fault Refusal :=
  issueWith (.call off) s (fun x =>
    if x.way ≠ .falls ∧ !x.depthOk (x.target off) then .error (.of .limitDepth)
    else x.branch (x.called (x.target off)) { x.sp with pc := x.sp.pc + 4 })

/-- The entry of a jump table (R134); supervisor code has none (log 23, DEDUCED, unsafe). -/
def Ex.jump (x : Ex) (t e : Word) : Option Word :=
  if x.sup then none
  else (Tab.find x.grid.kernel.jtabs t.toNat).bind (fun tab => tab[e.toNat]?.map word)

/-- `CALLT` (R134, R280); an entry outside the clause is refused before the depth is tested (log 141, DEDUCED, unsafe). -/
def execCallt (f : RForm) (s : State) : Host.Outcome State Fault Refusal :=
  issueWith (.callt f) s (fun x =>
    if x.go then
      match x.jump (x.rdU f.a) (x.rdU f.b) with
      | none => .error (.of .jtabRange)
      | some t =>
        if x.travels t then .error (.of .clauseUnmapped)
        else if !x.depthOk t then .error (.of .limitDepth)
        else .ok { x with sp := x.called t }.save
    else .ok x.next.save)

/-- The recorded depths that bind a split: those of the innermost pending frame; none in a handler (R129, R334). -/
def Ex.frame (x : Ex) : Option Frame := if x.sup then none else x.g.frames.head?

/-- The check of a `RET` (R129). -/
def Ex.retCheck (x : Ex) : Option Cause :=
  match x.frame with
  | some f => if x.sp.rets.length ≤ f.retDepth then some .frameSpan else if x.sp.rets.isEmpty then some .stackUnderflow else none
  | none => if x.sp.rets.isEmpty then some .stackUnderflow else none

/-- The check of an `LPE` or `LBRK` (R129). -/
def Ex.loopCheck (x : Ex) : Option Cause :=
  match x.frame with
  | some f => if x.sp.loops.length ≤ f.loopDepth then some .frameSpan else if x.sp.loops.isEmpty then some .stackUnderflow else none
  | none => if x.sp.loops.isEmpty then some .stackUnderflow else none

/-- What a travelling `RET` is counted against: its own limit, or that of the `CALL`, or nothing (R282). -/
def Ex.retItem (x : Ex) (e : RetEntry) : Option Word :=
  if (x.limit 3 x.sp.pc).isSome then some x.sp.pc else if (x.limit 3 e.call).isSome then some e.call else none

/-- `RET` (R135). -/
def execRet (f : RForm) (s : State) : Host.Outcome State Fault Refusal :=
  issueWith (.ret f) s (fun x =>
    if x.go then
      match x.retCheck, x.sp.rets with
      | some c, _ => .error (.of c)
      | none, e :: rest => x.transfer { x.sp with pc := e.addr, rets := rest } (x.retItem e) true
      | none, [] => .error (.of .stackUnderflow)
    else .ok x.next.save)

/-- The address after the first `LPE` at or after an address of the code, as supervisor code has it (R128). -/
def Ex.searchEnd (x : Ex) : Nat → Word → Option Word
  | 0, _ => none
  | n + 1, pc =>
    if !x.inCode pc then none
    else if field (x.wordAt pc).toNat 31 22 = 0x202 then some (pc + 4)
    else x.searchEnd n (pc + 4)

/-- The end address of the loop of an `LPB`, and its limit (R128, R136). -/
def Ex.loopEnd (x : Ex) : Option (Word × Option Nat) :=
  match x.limit 0 x.sp.pc with
  | some e => some (word (e.endA - (if x.g.mcc then x.grid.kernel.mccBase else x.grid.kernel.base)), some e.n)
  | none => (x.searchEnd (x.code.length / 4) (x.sp.pc + 4)).map (fun e => (e, none))

/-- `LPB` (R136). -/
def execLpb (f : RForm) (s : State) : Host.Outcome State Fault Refusal :=
  issueWith (.lpb f) s (fun x =>
    match x.loopEnd with
    | none => .error (.of .illegalOperand)
    | some (e, lim) =>
      let skip := x.transfer { x.sp with pc := e } (some (e - 4)) false
      let open_ := f.a == .zero
      if !x.go then skip
      else if 4 ≤ x.sp.loops.length then .error (.of .loopOverflow)
      else if !open_ && x.rdU f.a == 0 then skip
      else
        let l : LoopEntry := { lpb := x.sp.pc, endA := e, count := if open_ then none else some (x.rdU f.a).toNat, trips := 1, limit := lim }
        .ok { x with sp := { x.sp with pc := x.sp.pc + 4, loops := l :: x.sp.loops } }.save)

/-- `LPE` (R137). -/
def execLpe (off : BitVec 22) (s : State) : Host.Outcome State Fault Refusal :=
  issueWith (.lpe off) s (fun x =>
    match x.loopCheck, x.sp.loops with
    | some c, _ => .error (.of c)
    | none, [] => .error (.of .stackUnderflow)
    | none, e :: rest =>
      let popped := { x.sp with pc := x.sp.pc + 4, loops := rest }
      let more := match e.count with | none => true | some n => decide (e.trips < n)
      if !more || x.way = .falls then x.transfer popped (some x.sp.pc) false
      else if e.limit = some e.trips then .error (.of .limitTrip)
      else
        let again := { x.sp with pc := x.target off, loops := { e with trips := e.trips + 1 } :: rest }
        match x.way with
        | .diverges m => x.partWays m again popped true
        | _ => x.transfer again (some x.sp.pc) false)

/-- `LBRK` (R138). -/
def execLbrk (f : RForm) (s : State) : Host.Outcome State Fault Refusal :=
  issueWith (.lbrk f) s (fun x =>
    if x.go then
      match x.loopCheck, x.sp.loops with
      | some c, _ => .error (.of c)
      | none, e :: rest => x.transfer { x.sp with pc := e.endA, loops := rest } (some (e.endA - 4)) false
      | none, [] => .error (.of .stackUnderflow)
    else .ok x.next.save)

/-- `JMARK` (R131); it has no effect in a handler (R334). A join address outside the clause is refused before a ninth frame is
(log 141, DEDUCED, unsafe). -/
def execJmark (f : KForm) (s : State) : Host.Outcome State Fault Refusal :=
  issueWith (.jmark f) s (fun x =>
    let t := pcPlus x.sp.pc (4 * f.k.toInt)
    if x.sup then .ok x.next.save
    else if x.travels t then .error (.of .clauseUnmapped)
    else if 8 ≤ x.g.frames.length then .error (.of .frameOverflow)
    else
      let fr : Frame := { join := t, loopDepth := x.sp.loops.length, retDepth := x.sp.rets.length, members := [x.sp.entry],
                          arrived := [], parked := [], sides := [] }
      .ok { x.next with g := { x.g with frames := fr :: x.g.frames } }.save)

/-- The splits of a group that have reached the `JOIN` of a frame. -/
def Group.atJoin (g : Group) (f : Frame) : List Split := g.splits.filter (fun p => f.arrived.contains p.entry)

/-- Every split born under a frame has reached its `JOIN` or ended (R37). -/
def Frame.ready (f : Frame) : Bool := f.members.all f.arrived.contains

/-- The splits that have reached the `JOIN` of a frame re-gang into one (R37), which keeps the lowest entry and stands in the other
frames, `rest`, for all of them. -/
def Group.regang (g : Group) (f : Frame) (rest : List Frame) : Group :=
  let ps := g.atJoin f
  match ps with
  | [] => g
  | p :: qs =>
    let keep := qs.foldl (fun a q => if q.entry < a.entry then q else a) p
    let gone := ps.map (·.entry)
    let lanes := ps.foldl (fun m q => m ||| q.lanes ||| Tab.read f.parked q.entry 0) 0
    let sp := { keep with lanes := lanes, pc := f.join + 4, wait := none, count := 0, ticket := none, issued := none }.stale
    let ren := fun (l : List Nat) => if l.any gone.contains then addNew (l.filter (fun e => !gone.contains e)) keep.entry else l
    { g with
      splits := (g.splits.filter (fun q => !gone.contains q.entry)) ++ [sp]
      stepping := g.stepping.map (fun e => if gone.contains e then keep.entry else e)
      frames := rest.map (fun h => { h with
        members := ren h.members, arrived := ren h.arrived
        parked := if h.parked.any (fun e => gone.contains e.1) then
            Tab.put (h.parked.filter (fun e => !gone.contains e.1)) keep.entry
              (h.parked.foldl (fun m e => if gone.contains e.1 then m ||| e.2 else m) 0)
          else h.parked
        sides := h.sides.map (fun sd => if gone.contains sd.owner then { sd with owner := keep.entry } else sd) }) }

/-- The position of a frame taken out of a list. -/
def dropAt (fs : List Frame) (k : Nat) : List Frame := fs.take k ++ fs.drop (k + 1)

/-- The frame whose `JOIN` a split has reached (R132), by position: the innermost, if its join address is the split's PC; or the frame
at which the split has arrived already, or had arrived when its wait was backed out, though another has been pushed since (R49, R333,
log 119, DEDUCED, unsafe). -/
def Group.joinFrame (g : Group) (p : Split) : Option Nat :=
  match g.frames.findIdx? (fun h => h.arrived.contains p.entry) with
  | some k => some k
  | none =>
    match (if p.ticket.isSome then g.frames.findIdx? (fun h => h.join == p.pc && h.members.contains p.entry) else none), g.frames with
    | some k, _ => some k
    | none, h :: _ => if h.join = p.pc then some 0 else none
    | none, [] => none

/-- `JOIN` at the frame in position `k` (R36, R37, R129). -/
def Ex.joinAt (x : Ex) (k : Nat) (f : Frame) : Except Trap State :=
  if x.sp.rets.length ≠ f.retDepth ∨ x.sp.loops.length ≠ f.loopDepth then .error (.of .frameSpan)
  else
    match f.sides.find? (fun sd => sd.owner == x.sp.entry) with
    | some sd =>
      let here := Tab.read f.parked x.sp.entry 0 ||| x.sp.lanes
      let f1 := { f with sides := f.sides.erase sd, parked := Tab.put f.parked x.sp.entry here }
      .ok (x.putGroup { x.g.withSplit (x.sp.take sd.pc sd.lanes sd.loops sd.rets) with frames := x.g.frames.set k f1 })
    | none =>
      let f1 := { f with members := addNew f.members x.sp.entry, arrived := addNew f.arrived x.sp.entry }
      let g := { x.g with frames := x.g.frames.set k f1 }
      if f1.ready then .ok (x.putGroup ((g.withSplit x.sp).regang f1 (dropAt g.frames k)))
      else .ok ({ x with g := g }.waitFor .join).save

/-- `JOIN` (R36, R37, R132); it has no effect in a handler but the switch point (R334). -/
def Ex.join (x : Ex) : Except Trap State :=
  match (if x.sup then none else x.g.joinFrame x.sp) with
  | some k => x.joinAt k (x.g.frames.getD k { join := 0, loopDepth := 0, retDepth := 0, members := [], arrived := [], parked := [], sides := [] })
  | none => .ok x.doneWaiting.next.save

/-- `JOIN` (R132). -/
def execJoin (f : RForm) (s : State) : Host.Outcome State Fault Refusal := issueWith (.join f) s Ex.join

/-- The lanes that leave at an `EXIT` (R39). -/
def Ex.leaving (x : Ex) : Word :=
  if x.acting ≠ 0 ∨ (x.active = 0 ∧ x.go) then x.acting ||| (x.sp.lanes &&& ~~~ x.active) else 0

/-- `EXIT` (R39, R139, R249). In a handler the trapped split's lanes leave, and with the last of them its handler ends
(log 24, DEDUCED, unsafe). -/
def Ex.exits (x : Ex) : State :=
  let lanes := x.sp.lanes &&& ~~~ x.leaving
  if x.g.mcc then
    if x.leaving ≠ 0 then (x.save.endMcc x.cluster) else x.next.save
  else if x.leaving ≠ 0 ∧ lanes &&& ~~~ x.g.dead = 0 then
    ({ x with sp := { x.sp with lanes := lanes } } : Ex).endOwn
  else { x.next with sp := { x.next.sp with lanes := lanes } }.save

/-- `EXIT` (R139). -/
def execExit (f : RForm) (s : State) : Host.Outcome State Fault Refusal := issueWith (.exit f) s (fun x => .ok x.exits)

/-- `YLD` (R140): it waits 8 local cycles; once it has, it completes. -/
def execYld (f : RForm) (s : State) : Host.Outcome State Fault Refusal :=
  issueWith (.yld f) s (fun x =>
    if x.go && x.sp.ticket.isNone then .ok (x.waitFor (.yield 8)).save else .ok x.doneWaiting.next.save)

/-- `BKPT` (R142). -/
def execBkpt (f : RForm) (s : State) : Host.Outcome State Fault Refusal :=
  issueWith (.bkpt f) s (fun x => if x.go then .error { Trap.of .bkpt with next := true } else .ok x.next.save)

/-- `TRAP` (R337). -/
def execTrap (f : KForm) (s : State) : Host.Outcome State Fault Refusal :=
  issueWith (.trap f) s (fun x =>
    if x.go then .error { Trap.of .swTrap with next := true, info := f.k.toNat } else .ok x.next.save)

/-- `PHASE` (R141): a hint, without an architectural effect. -/
def execPhase (f : KForm) (s : State) : Host.Outcome State Fault Refusal := issueEx (.phase f) s (fun x => .ok x)

/-- `MSET` (R126). -/
def execMset (f : KForm) (s : State) : Host.Outcome State Fault Refusal :=
  issueEx (.mset f) s (fun x => .ok { x with g := { x.g with mode := word f.k.toNat } })

/-- `MSETR` (R126). -/
def execMsetr (f : RForm) (s : State) : Host.Outcome State Fault Refusal :=
  issueEx (.msetr f) s (fun x => .ok { x with g := { x.g with mode := x.rdU f.a &&& 0x7FFF } })

/-- `LIVE` (R295). -/
def execLive (f : KForm) (s : State) : Host.Outcome State Fault Refusal :=
  issueEx (.live f) s (fun x => .ok { x with g := { x.g with live := word f.k.toNat } })

/-- A group whose window has no contents: its block reads as zero, without an error (R44, R349). -/
def Group.loses (g : Group) (w : Nat) : Group :=
  { g with v := g.v.filter (fun e => e.1 / 16 != w + 2), ueLane := g.ueLane.filter (fun e => e.1 / 16 != w + 2) }

/-- A place of the `XACQ` order stands for a split that waits there now, or whose `XACQ` was backed out and is about to issue again
(R44, R50). A split whose handler runs keeps the place that it had and is passed over meanwhile (R143, R333, log 120, DESIGN CHOICE, unsafe). -/
def State.atPool (s : State) (q : XWait) : Bool :=
  match Ex.of s q.gid q.entry with
  | none => false
  | some x =>
    if x.sup != q.sup then false
    else x.sp.wait == some (.xacq q.window) || (match decode (x.wordAt x.sp.pc) with | .xacq f => f.k.toNat == q.window | _ => false)

/-- The place that an `XACQ` of the party's has in the service order. -/
def Ex.poolPlace (x : Ex) (w : Nat) : XWait := ⟨x.gid, x.sp.entry, w, x.sup⟩

/-- The `XACQ`s of a team that come before one of its own (R44). -/
def Ex.aheadAtPool (x : Ex) (w : Nat) : List XWait :=
  (x.team.xq.takeWhile (fun q => q != x.poolPlace w)).filter x.s.atPool

/-- `XACQ` (R44, R143). -/
def Ex.acquireWindow (x : Ex) (w : Nat) : State :=
  let t := x.team
  let me := x.poolPlace w
  let unq := fun (t : Team) => { t with xq := t.xq.filter (fun q => q != me) }
  if (Tab.find x.g.held w).isSome then (Ex.save { x.doneWaiting.next with s := x.s.setTeam x.teamId (unq t) })
  else
    match t.free with
    | b :: rest =>
      if (x.aheadAtPool w).isEmpty then
        let g := { x.g.loses w with held := Tab.put x.g.held w b }
        Ex.save { { x with g := g }.doneWaiting.next with s := x.s.setTeam x.teamId { unq t with free := rest } }
      else Ex.save { x.waitFor (.xacq w) with s := x.s.setTeam x.teamId { t with xq := if t.xq.contains me then t.xq else t.xq ++ [me] } }
    | [] => Ex.save { x.waitFor (.xacq w) with s := x.s.setTeam x.teamId { t with xq := if t.xq.contains me then t.xq else t.xq ++ [me] } }

/-- `XACQ` (R143). One that was backed out and is issued again with its guard now false acquires nothing, and its place in the order is
given up (R38, R44, log 120, DESIGN CHOICE, unsafe). -/
def execXacq (f : KForm) (s : State) : Host.Outcome State Fault Refusal :=
  issueWith (.xacq f) s (fun x => .ok (
    if x.go then x.acquireWindow f.k.toNat else (x.doneWaiting.next.save).leaveOrder x.gid x.sp.entry))

/-- The accesses of sibling splits that were issued before window `w` is released, and have not completed: each completes against the
block, whose registers it keeps (R144). -/
def Ex.overtaken (x : Ex) (w : Nat) : List Split :=
  let regs := x.g.v.filter (fun e => e.1 / 16 == w + 2)
  x.g.splits.map (fun p =>
    let y : Ex := { x with g := { x.g with saved := none }, sp := p }
    let names := (decode (y.wordAt p.pc)).named.any (fun o => match o with | .vreg n => n.val / 16 == w + 2 | _ => false)
    if p.entry != x.sp.entry && p.issued.isSome && names && (Tab.find p.ghost w).isNone then { p with ghost := Tab.put p.ghost w regs } else p)

/-- `XREL` (R44, R144). -/
def execXrel (f : KForm) (s : State) : Host.Outcome State Fault Refusal :=
  issueWith (.xrel f) s (fun x => .ok (
    match (if x.go then Tab.find x.g.held f.k.toNat else none) with
    | some b =>
      let g := { x.g.loses f.k.toNat with held := Tab.del x.g.held f.k.toNat, splits := x.overtaken f.k.toNat }
      Ex.save { ({ x with g := g } : Ex).next with s := x.s.setTeam x.teamId (x.team.giveBack b) }
    | none => x.next.save))

end Sys2Proof.Machine
end

