-- ==== Sys2Proof/Machine/Lists.lean ====
section
/-! DEFINITION. The work that a stream engine takes up next, the words of a list (R238, R240, R242), and how a command
parks and is reported (R157, R244). -/
namespace Sys2Proof.Machine

/-- A list or a copy of an engine. -/
inductive Job where
  | list (l : SList)
  | copy (c : Copy)
deriving DecidableEq, Repr

/-- The gang whose work a job is. -/
def Job.gang : Job → Nat
  | .list l => l.gang
  | .copy c => c.gang

/-- A job that may go on: it is not parked and does not wait, and its gang is not suspended (R238, R246). -/
def Job.ready (s : State) (j : Job) : Bool :=
  !(s.gang j.gang).suspended &&
    (match j with
     | .list l => l.park.isNone && l.wait.isNone
     | .copy c => c.park.isNone && c.wait.isNone)

/-- The jobs of an engine, its lists first. -/
def Engine.jobs (e : Engine) : List Job := e.lists.map .list ++ e.copies.map .copy

/-- The job whose turn it is, round-robin from the place after the last one served, with its place (R238). -/
def State.job (s : State) (k : Nat) : Option (Nat × Job) :=
  let js := (s.engine k).jobs
  let n := js.length
  ((List.range n).map (fun d => ((s.engine k).next + d) % n)).findSome? (fun p =>
    match js[p]? with
    | some j => if j.ready s then some (p, j) else none
    | none => none)

/-- The job at a place has had its turn. -/
def State.served (s : State) (k p : Nat) : State := s.setEngine k { s.engine k with next := p + 1 }

/-- A list put in place of the one with its serial number. -/
def State.setList (s : State) (k : Nat) (l : SList) : State :=
  let e := s.engine k
  s.setEngine k { e with lists := e.lists.map (fun m => if m.serial = l.serial ∧ m.ctx = l.ctx then l else m) }

/-- A copy put in place of the one with its serial number. -/
def State.setCopy (s : State) (k : Nat) (c : Copy) : State :=
  let e := s.engine k
  s.setEngine k { e with copies := e.copies.map (fun m => if m.serial = c.serial ∧ m.ctx = c.ctx then c else m) }

/-- A split that waits at a tray in `TRW` or `TRC`. -/
def Split.atTray (p : Split) (h : Nat) : Bool :=
  match p.wait with
  | some (.claim a) => a == h
  | some (.fill a _ _) => a == h
  | _ => false

/-- The waiting `TRW` or `TRC` of a team, or of the MCC, at a tray that began first (R157). -/
def State.firstAtTray (s : State) (gang team h : Nat) : Option (Nat × Group × Split) :=
  let parties := if team = 255 then s.groups.filter (fun e => e.2.gang == gang && e.2.mcc) else s.members gang team
  let ws := parties.flatMap (fun e => (e.2.splits.filter (fun p => p.atTray h)).map (fun p => (e.1, e.2, p)))
  ws.foldl (fun a w => match a with
    | none => some w
    | some v => if w.2.2.since < v.2.2.since then some w else some v) none

/-- The report of a park as the trap that an instruction takes (R157, R331, R336). -/
def parkTrap (cause : Cause) (addr serial : Nat) : Trap :=
  { cause := .engineFault, mask := none, addr := some addr, info := serial, under := cause, next := false, seen := [] }

/-- Reports a park to the `TRW` or `TRC` of the issuing team that has waited longest, if one waits (R157); its wait is
backed out, and whether it was reported is answered. One that a handler waits in ends the context (R334). -/
def State.reportPark (s : State) (k gang team ctx tray : Nat) (cause : Cause) (addr serial : Nat) : State × Bool :=
  match s.object (engineWalker s k ctx) (s.teamAllot gang team) tray 64 64 false with
  | .at h =>
    match (s.firstAtTray gang team h).bind (fun w => Ex.of s w.1 w.2.2.entry) with
    | some x =>
      if x.admitsTrap then (({ x with sp := { x.sp with wait := none } } : Ex).takeTrap (parkTrap cause addr serial), true) else (s, false)
    | none => (s, false)
  | _ => (s, false)

/-- Writes the park in the error log: words 4 and 5 hold the address of the tray's header (R342, kind 4). -/
def State.logPark (s : State) (k ctx tray : Nat) (cause : Cause) : State :=
  s.logEntry ctx cause.code 4 (word (k % 16 + k / 16 * 2 ^ 4)) 0 0 (tray / 4 * 4) 0 0

/-- Parks a list at its command (R157, R244); one whose teams have all retired is abandoned instead, unreported (R246). -/
def State.parkList (s : State) (k : Nat) (l : SList) (cause : Cause) (addr : Nat) : State :=
  if l.closing then s.abandonList k l
  else
  let r := ((s.cacheWalks (engineWalker s k l.ctx) [addr]).logPark k l.ctx l.tray cause).reportPark k l.gang l.team l.ctx l.tray cause addr (l.serial % 2 ^ 16)
  r.1.setList k { l with park := some ⟨cause, addr, r.2⟩ }

/-- Parks a copy (R157, R244), or abandons it (R246). -/
def State.parkCopy (s : State) (k : Nat) (c : Copy) (cause : Cause) (addr : Nat) : State :=
  if c.closing then s.abandonCopy k c
  else
  let r := ((s.cacheWalks (engineWalker s k c.ctx) [addr]).logPark k c.ctx c.tray cause).reportPark k c.gang c.team c.ctx c.tray cause addr 0xFFFF
  r.1.setCopy k { c with park := some ⟨cause, addr, r.2⟩ }

/-- What the turn of an engine comes to: nothing more, or a command with the state in which it acts. -/
inductive Command where
  | past (s : State)
  | run (i : Instr) (s : State)
deriving DecidableEq, Repr

/-- A word of a list, with the entries of its page marked (R150, R205, R240); a poisoned one is no command (R350). The words are read
like instructions and take no part in race detection (log 19, DESIGN CHOICE, unsafe). -/
def State.listWord (s : State) (k : Nat) (l : SList) (j : Nat) : Except (Cause × Nat) (Word × State) :=
  let a := l.addr + 4 * j
  match s.access (engineWalker s k l.ctx) (s.teamAllot l.gang l.team) l.loc a .engineRead 4 with
  | .ok t =>
    if s.poisoned t.loc 4 then .error (.poison, a)
    else .ok (word (s.word32 t.loc), s.touchWalk (engineWalker s k l.ctx) a t false)
  | .fault c => .error (c, l.addr + 4 * j)
  | .wait _ => .error (.none, 0)

/-- Reads the next command of a list, advancing past its words (R240, R242, R243): the engine waits at the tail, and parks
where a word does not decode or an extension word lies beyond the tail (log 20, DEDUCED, unsafe). A command that has not ended goes on. -/
def State.fetchList (s : State) (k : Nat) (l : SList) : Command :=
  match l.cur with
  | some i => .run i s
  | none =>
    if l.tail ≤ l.p then .past (s.setList k { l with wait := some .tail })
    else
      match s.listWord k l 0 with
      | .error (.none, _) => .past s
      | .error (c, a) => .past (s.parkList k l c a)
      | .ok (w, s1) =>
        let n := streamExt (field w.toNat 31 22)
        if n ≠ 0 ∧ l.tail ≤ l.p + 1 then .past (s1.setList k { l with wait := some .tail })
        else if l.tail < l.p + 1 + n then .past (s1.parkList k l .illegalOperand l.addr)
        else
          let ext := fun (s : State) (j : Nat) => if j ≤ n then s.listWord k l j else .ok (0, s)
          match (ext s1 1).bind (fun a => (ext a.2 2).map (fun b => (a.1, b.1, b.2))) with
          | .ok (x, y, s2) =>
            match decodeStream w x y with
            | .error _ => .past (s2.parkList k l .illegalOpcode l.addr)
            | .ok i => .run i (s2.setList k { l with p := l.p + 1 + n, addr := l.addr + 4 * (1 + n), cur := some i, row := 0,
                                                     named := none, tensor := none })
          | .error (.none, _) => .past s
          | .error (c, a) => .past (s1.parkList k l c a)

/-- The command that engine `k` runs next (R238): it stays with one command until that ends, waits or parks. -/
def engineFetch (s : State) (k : Nat) : Command :=
  match s.job k with
  | none => .past s
  | some (p, .copy _) => .run (.engineCopy k) (s.setEngine k { s.engine k with next := p })
  | some (p, .list l) =>
    match (s.setEngine k { s.engine k with next := p }).fetchList k l with
    | .run i t => .run i t
    | .past t => .past (t.served k p)

end Sys2Proof.Machine
end

