-- ==== Sys2Proof/Machine/Memory.lean ====
section
/-! DEFINITION. Loads and stores (R146, R155, R176, R201, R209-R211), atomics (R180, R191-R194, R212-R214) and fences (R185,
R215, R216). -/
namespace Sys2Proof.Machine

/-- The uses of an atomic (R66, R191). -/
inductive AtmUse where
  | unp | com | nor | qnt | spc | acq | rel | ar
deriving DecidableEq, Repr

/-- The acquire uses (R183). -/
def AtmUse.acquires : AtmUse → Bool
  | .acq | .ar => true
  | _ => false

/-- The release uses (R183). -/
def AtmUse.releases : AtmUse → Bool
  | .rel | .ar => true
  | _ => false

/-- The uses that combine (R191). -/
def AtmUse.combines : AtmUse → Bool
  | .com | .qnt => true
  | _ => false

/-- One memory instruction's access: where it lies, how many bytes it takes, what it is in race detection, and whether it is
an ordered use (R180). -/
structure Access where
  inSpad : Bool
  bytes : Nat
  use : Use
  kind : AccKind
  ordered : Bool
deriving DecidableEq, Repr

/-- The allotment that the party's offsets name; none on the MCC (R207). -/
def Ex.allot (x : Ex) : Option Allot := x.s.teamAllot x.g.gang x.g.team

/-- What one lane's checks come to: bounds or translation, sync-typed granules, scope, and the race test, which leaves
sync-typed granules and hub registers out (R146, R155, R176, R180, R201, R211). -/
def Ex.look (x : Ex) (a : Access) (addr : Nat) : Xlat :=
  match x.s.access x.walker x.allot a.inSpad addr a.use a.bytes with
  | .ok t =>
    let sync := t.ty == 6 || x.s.isSync t.loc a.bytes
    if a.use.writes && sync then .fault .syncObjectStore
    else if a.ordered && scopeLow t.ty x.scope then .fault .scope
    else if sync || t.ty == 5 then .ok t
    else
      match x.s.raceTest x.tester a.kind (x.s.isChecked t) t.loc a.bytes with
      | some c => .fault c
      | none => .ok t
  | r => r

/-- What the checks of all lanes come to. -/
inductive Looked where
  | all (ts : List (Nat × Target))
  | trap (t : Trap)
  | wait (w : Wait)
deriving DecidableEq, Repr

/-- The trap of lanes that fault: the cause of lowest code, its lanes, and the address of the lowest of them (R146, R155,
R331). -/
def laneTrap (fs : List (Nat × Cause)) (addr : Nat → Nat) : Option Trap :=
  match fs with
  | [] => none
  | f :: rest =>
    let c := rest.foldl (fun (c : Cause) e => if e.2.code < c.code then e.2 else c) f.2
    let m := maskOf (fun l => fs.any (fun e => e.1 == l && e.2 == c))
    some { Trap.of c with mask := some m, addr := some (addr ((lowest m).getD 0)) }

/-- Checks every lane of `m` before any performs (R146, R155). A lane that must wait has not been checked to its end, so
the instruction waits first (log 26, DEDUCED, unsafe). -/
def Ex.lookAll (x : Ex) (a : Access) (m : Word) (addr : Nat → Nat) : Looked :=
  let rs := (lanes.filter (fun l => Word.has m l)).map (fun l => (l, x.look a (addr l)))
  match rs.findSome? (fun r => match r.2 with | .wait w => some w | _ => none) with
  | some w => .wait w
  | none =>
    let fs := rs.filterMap (fun r => match r.2 with | .fault c => some (r.1, c) | _ => none)
    match laneTrap fs addr with
    | some t => .trap { t with seen := if a.inSpad then [] else rs.map (fun r => addr r.1) }
    | none => .all (rs.filterMap (fun r => match r.2 with | .ok t => some (r.1, t) | _ => none))

/-- What an access leaves beside the data: entries marked and cached, and the granules' stamps, made by the party as it
was when the instruction was issued (R150, R154, R198, R199). -/
def Ex.mark (x : Ex) (who : Tester) (a : Access) (addr : Nat) (t : Target) : Ex :=
  let s1 := x.s.touchWalk x.walker addr t a.use.writes
  if t.ty = 5 then { x with s := s1 }
  else if t.ty = 6 ∨ s1.isSync t.loc a.bytes then { x with s := s1.useObject x.g.gang t.loc }
  else { x with s := s1.stampAccess who a.kind (s1.isChecked t) t.loc a.bytes }

/-- A word as a load reads it: a hub register, or memory (R151). -/
def State.loadWord (s : State) (t : Target) (j : Nat) : Word :=
  if t.ty = 5 then s.hubRead (t.loc - 5 * 2 ^ 72) else word (s.word32 (t.loc + 4 * j))

/-- A register of a destination span, in the lanes of `m`. -/
def Ex.put (x : Ex) (d : Operand) (m : Word) (f : Nat → Word) : Ex :=
  match d with
  | .vreg n => x.wrV n.val m f
  | .sreg n => x.wrS n.val (f x.lead)
  | _ => x

/-- A span of `w` destination registers: register d + j takes word j of each lane (R209). -/
def Ex.putSpan (x : Ex) (d : Operand) (m : Word) (w : Nat) (f : Nat → Nat → Word) : Ex :=
  (List.range w).foldl (fun y j => y.put (opPlus d j) m (fun l => f l j)) x

/-- The target of a lane. -/
def targetOf (ts : List (Nat × Target)) (l : Nat) : Option Target := Tab.find ts l

/-- The lanes whose data is poisoned (R350). -/
def State.poisonLanes (s : State) (ts : List (Nat × Target)) (n : Nat) : Word :=
  maskOf (fun l => match targetOf ts l with | some t => t.ty != 5 && s.poisoned t.loc n | none => false)

/-- Results come to a destination of lanes: a lane whose data was poisoned dies and is not written, and with it the whole
group if the destination is scalar (R349). -/
def Ex.deliver (x : Ex) (f : RForm) (m bad : Word) (w : Nat) (vals : Nat → Nat → Word) : State :=
  match f.d with
  | .vreg _ =>
    let y := x.killLanes bad
    let good := m &&& ~~~ bad
    let y1 := if f.nw then y else y.putSpan f.d good w vals
    (y1.latch (fun l => if Word.has good l then vals l 0 else 0)).next.save
  | _ =>
    if bad ≠ 0 then x.killShared
    else (if f.nw ∨ m = 0 then x else x.putSpan f.d m w vals).next.save

/-- What the MCC's read of poisoned data comes to: it kills no lane, and takes a trap (R330, R350). -/
def Ex.poisonTrap (x : Ex) (bad : Word) (addr : Nat → Nat) : Option Trap :=
  if x.g.mcc && bad != 0 then some (.at .poison (addr ((lowest bad).getD 0))) else none

/-- A load of `w` words a lane (R209-R211). -/
def Ex.loads (x : Ex) (inSpad : Bool) (w : Nat) (f : RForm) : Except Trap State :=
  let a : Access := { inSpad := inSpad, bytes := 4 * w, use := .load (4 * w), kind := .read, ordered := false }
  let m := x.memLanes f.d.isVreg
  let addr := fun (l : Nat) => if inSpad then x.offsetAt f l else x.addrAt f l
  match x.lookAll a m addr with
  | .trap t => .error t
  | .wait wt => .ok (x.waitFor wt).save
  | .all ts =>
    let s1 := ts.foldl (fun (s : State) t => s.arrive (.core x.gid) x.cluster t.2.loc a.bytes) x.s
    let y := ts.foldl (fun (y : Ex) t => y.mark x.tester a (addr t.1) t.2) { x with s := s1 }
    let vals := fun (l j : Nat) => match targetOf ts l with | some t => s1.loadWord t j | none => 0
    match x.poisonTrap (s1.poisonLanes ts a.bytes) addr with
    | some t => .error t
    | none => .ok (y.deliver f m (s1.poisonLanes ts a.bytes) w vals)

/-- The machine as if every RECOVERING peer were LIVE: where a store that has to be held will lie (R377). -/
def State.asLive (s : State) : State :=
  { s with map := s.map.map (fun (e : Nat × Word) => if 0x6000 ≤ e.1 ∧ e.1 < 0x6100 ∧ e.2.toNat % 4 = 2 then (e.1, e.2 - 1) else e) }

/-- The checks of a store: one to a RECOVERING peer is posted, and does not wait (R377). -/
def Ex.lookStore (x : Ex) (a : Access) (m : Word) (addr : Nat → Nat) : Looked :=
  match x.lookAll a m addr with
  | .wait (.peer _) => ({ x with s := x.s.asLive } : Ex).lookAll a m addr
  | r => r

/-- One lane's data stored; for a peer that is RECOVERING it is held (R184, R192, R377; log 113, DEDUCED, unsafe). -/
def Ex.putStore (x : Ex) (t : Target) (addr : Nat) (bs : List Byte) : State :=
  if t.ty = 5 then x.s
  else if t.ty = 3 ∧ x.s.peerState t.node = 2 then
    { x.s with posted := x.s.posted ++ [{ gid := x.gid, ctx := x.ctxId, fate := none, node := t.node, loc := t.loc, bytes := bs, addr := addr }] }
  else ((x.s.arrive (.core x.gid) x.cluster t.loc bs.length).endRels t.loc bs.length).storeBytes t.loc bs

/-- A store of `w` words a lane (R209-R211): lanes in ascending order (R182); it ends release sequences (R184). Writes of
hub registers act last. -/
def Ex.stores (x : Ex) (inSpad : Bool) (w : Nat) (f : RForm) : Except Trap State :=
  let a : Access := { inSpad := inSpad, bytes := 4 * w, use := .store (4 * w), kind := .write, ordered := false }
  let m := x.memLanes (anyVec [f.d, f.a, f.b])
  let addr := fun (l : Nat) => if inSpad then x.offsetAt f l else x.addrAt f l
  match x.lookStore a m addr with
  | .trap t => .error t
  | .wait wt => .ok (x.waitFor wt).save
  | .all ts =>
    let data := fun (l : Nat) => (List.range w).flatMap (fun j => bytesLE 4 (x.rd (opPlus f.d j) l).toNat)
    let y := ts.foldl (fun (y : Ex) t =>
      ({ y with s := y.putStore t.2 (addr t.1) (data t.1) } : Ex).mark x.tester a (addr t.1) t.2) x
    .ok (ts.foldl (fun (s : State) t =>
      if t.2.ty = 5 then s.hubWrite (t.2.loc - 5 * 2 ^ 72) (x.rd f.d t.1) else s) y.next.save)

/-- `LDS.32` (R210). -/
def execLds32 (f : RForm) (s : State) : Host.Outcome State Fault Refusal := issueWith (.lds32 f) s (fun x => x.loads true 1 f)

/-- `LDS.64` (R210). -/
def execLds64 (f : RForm) (s : State) : Host.Outcome State Fault Refusal := issueWith (.lds64 f) s (fun x => x.loads true 2 f)

/-- `LDS.128` (R210). -/
def execLds128 (f : RForm) (s : State) : Host.Outcome State Fault Refusal := issueWith (.lds128 f) s (fun x => x.loads true 4 f)

/-- `STS.32` (R210). -/
def execSts32 (f : RForm) (s : State) : Host.Outcome State Fault Refusal := issueWith (.sts32 f) s (fun x => x.stores true 1 f)

/-- `STS.64` (R210). -/
def execSts64 (f : RForm) (s : State) : Host.Outcome State Fault Refusal := issueWith (.sts64 f) s (fun x => x.stores true 2 f)

/-- `STS.128` (R210). -/
def execSts128 (f : RForm) (s : State) : Host.Outcome State Fault Refusal := issueWith (.sts128 f) s (fun x => x.stores true 4 f)

/-- `LDG.32` (R211). -/
def execLdg32 (f : RForm) (s : State) : Host.Outcome State Fault Refusal := issueWith (.ldg32 f) s (fun x => x.loads false 1 f)

/-- `LDG.64` (R211). -/
def execLdg64 (f : RForm) (s : State) : Host.Outcome State Fault Refusal := issueWith (.ldg64 f) s (fun x => x.loads false 2 f)

/-- `LDG.128` (R211). -/
def execLdg128 (f : RForm) (s : State) : Host.Outcome State Fault Refusal := issueWith (.ldg128 f) s (fun x => x.loads false 4 f)

/-- `STG.32` (R211). -/
def execStg32 (f : RForm) (s : State) : Host.Outcome State Fault Refusal := issueWith (.stg32 f) s (fun x => x.stores false 1 f)

/-- `STG.64` (R211). -/
def execStg64 (f : RForm) (s : State) : Host.Outcome State Fault Refusal := issueWith (.stg64 f) s (fun x => x.stores false 2 f)

/-- `STG.128` (R211). -/
def execStg128 (f : RForm) (s : State) : Host.Outcome State Fault Refusal := issueWith (.stg128 f) s (fun x => x.stores false 4 f)

/-- The operand of an atomic in a lane, and its compare value (R212). -/
def Ex.atmArgs (x : Ex) (use : AtmUse) (op : AtmOp) (f : RForm) (l : Nat) : Word × Word :=
  if use = .com then (x.rd f.b l, 0)
  else if op = .cas then (x.rd (opPlus f.d 1) l, x.rd f.d l)
  else (x.rd f.d l, 0)

/-- The party as it performs the lanes of an atomic: the values returned, and the releases read. -/
structure AtmRun where
  x : Ex
  vals : Tab Word
  seen : List Release
deriving DecidableEq, Repr

/-- The step of one lane at its location (R192-R194, R213, R214): `out` are the releases that its write is. A `qnt` operation returns
the value before its own update (log 138, DESIGN CHOICE, unsafe). -/
def AtmRun.lane (r : AtmRun) (who : Tester) (use : AtmUse) (op : AtmOp) (a : Access) (v c : Word) (addr l : Nat) (t : Target)
    (out : List Release) : AtmRun :=
  let x := r.x
  let ty := field x.mode 8 4
  let rnd := field x.mode 11 9
  let u : ComUpdate := { party := .core x.gid, loc := t.loc, op := op, ty := ty, round := rnd, v := v }
  match use with
  | .com => { r with x := ({ x with s := { x.s with coms := x.s.coms ++ [u] } } : Ex).mark { who with stamp := who.stamp.pending } a addr t }
  | .qnt =>
    let s0 := performComs (fun w => w.party == .core x.gid && w.loc == t.loc) x.s.coms.length x.s
    { r with x := ({ x with s := s0.qntAdd x.cluster u } : Ex).mark who a addr t,
             vals := Tab.put r.vals l (word (s0.qntRead x.cluster t.loc)) }
  | _ =>
    let s0 := x.s.arrive (.core x.gid) x.cluster t.loc 4
    let old := s0.word32 t.loc
    let fails := use = .spc ∧ op = .cas ∧ (old ≠ c.toNat ∨ Config.freeBool s0.freeCtr)
    let b : Access := if fails then { a with use := .load 4, kind := .atomicRead } else a
    let rels := s0.relsAt t.loc
    let s1 := if use = .spc ∧ op = .cas then s0.draw else s0
    let s2 := if fails then s1 else out.foldl (fun s q => s.addRel t.loc q) (s1.setWord32 t.loc (atmWord op ty rnd old v.toNat c.toNat))
    { x := ({ x with s := s2 } : Ex).mark who b addr t, vals := Tab.put r.vals l (word old), seen := r.seen ++ rels }

/-- An atomic (R212-R214). A lane that would read a poisoned word performs nothing and dies (R349, log 27, DEDUCED, unsafe). One of use
`ar` releases before it acquires (R198, log 156, DESIGN CHOICE, unsafe). -/
def Ex.atomic (x : Ex) (use : AtmUse) (op : AtmOp) (f : RForm) : Except Trap State :=
  let a : Access := { inSpad := false, bytes := 4, use := .atomic, kind := if use.combines then .combining else .atomic,
                      ordered := use.acquires || use.releases }
  let m := x.memLanes (if use = .com then anyVec [f.a, f.b] else f.d.isVreg)
  let addr := fun (l : Nat) => if use = .com then x.pair f.a l else x.addrAt f l
  match x.lookAll a m addr with
  | .trap t => .error t
  | .wait w => .ok (x.waitFor w).save
  | .all ts =>
    let rel := if use.releases && m != 0 then let r := x.release x.scope; (r.1, [r.2])
      else if use = .spc && m != 0 then x.fencedAll else (x, [])
    let bad := if use = .com then 0 else x.s.poisonLanes ts 4
    match x.poisonTrap bad addr with
    | some t => .error t
    | none =>
    let run := ts.foldl (fun (r : AtmRun) t =>
      if Word.has bad t.1 then r
      else
        let vc := x.atmArgs use op f t.1
        r.lane x.tester use op a vc.1 vc.2 (addr t.1) t.1 t.2 rel.2) ⟨rel.1, [], []⟩
    let y := if use.acquires then run.x.acquire x.scope run.seen
      else if use = .spc then { run.x with g := { run.x.g with seen := (run.x.g.seen ++ run.seen).eraseDups } } else run.x
    if use = .com then
      .ok ((if anyVec [f.a, f.b] then y.latch (fun _ => 0) else y).next.save)
    else .ok (y.deliver f m bad 1 (fun l _ => Tab.read run.vals l 0))

/-- `ATM.op.unp` (R214). -/
def execAtmUnp (op : AtmOp) (f : RForm) (s : State) : Host.Outcome State Fault Refusal :=
  issueWith (.atmUnp op f) s (fun x => x.atomic .unp op f)

/-- `ATM.op.com` (R192). -/
def execAtmCom (op : AtmOp) (f : RForm) (s : State) : Host.Outcome State Fault Refusal :=
  issueWith (.atmCom op f) s (fun x => x.atomic .com op f)

/-- `ATM.op.nor` (R214). -/
def execAtmNor (op : AtmOp) (f : RForm) (s : State) : Host.Outcome State Fault Refusal :=
  issueWith (.atmNor op f) s (fun x => x.atomic .nor op f)

/-- `ATM.op.qnt` (R193). -/
def execAtmQnt (op : AtmOp) (f : RForm) (s : State) : Host.Outcome State Fault Refusal :=
  issueWith (.atmQnt op f) s (fun x => x.atomic .qnt op f)

/-- `ATM.op.spc` (R194). -/
def execAtmSpc (op : AtmOp) (f : RForm) (s : State) : Host.Outcome State Fault Refusal :=
  issueWith (.atmSpc op f) s (fun x => x.atomic .spc op f)

/-- `ATM.op.acq` (R214). -/
def execAtmAcq (op : AtmOp) (f : RForm) (s : State) : Host.Outcome State Fault Refusal :=
  issueWith (.atmAcq op f) s (fun x => x.atomic .acq op f)

/-- `ATM.op.rel` (R214). -/
def execAtmRel (op : AtmOp) (f : RForm) (s : State) : Host.Outcome State Fault Refusal :=
  issueWith (.atmRel op f) s (fun x => x.atomic .rel op f)

/-- `ATM.op.ar` (R214). -/
def execAtmAr (op : AtmOp) (f : RForm) (s : State) : Host.Outcome State Fault Refusal :=
  issueWith (.atmAr op f) s (fun x => x.atomic .ar op f)

/-- A release fence: the writes of the `spc` atomics that follow are releases at its scope (R185). A later fence at a scope
stands for the earlier ones there. -/
def Ex.fenceRel (x : Ex) : Ex :=
  let r := x.release x.scope
  { r.1 with g := { r.1.g with fences := r.1.g.fences.filter (fun q => q.scope != x.scope) ++ [r.2] } }

/-- An acquire fence: the reads of the `spc` atomics before it are acquires at its scope (R185). -/
def Ex.fenceAcq (x : Ex) : Ex := x.acquire x.scope x.g.seen

/-- `FENCE.acq` (R215). -/
def execFenceAcq (f : RForm) (s : State) : Host.Outcome State Fault Refusal :=
  issueEx (.fenceAcq f) s (fun x => .ok (if x.go then x.fenceAcq else x))

/-- `FENCE.rel` (R215). -/
def execFenceRel (f : RForm) (s : State) : Host.Outcome State Fault Refusal :=
  issueEx (.fenceRel f) s (fun x => .ok (if x.go then x.fenceRel else x))

/-- `FENCE.ar` (R215). -/
def execFenceAr (f : RForm) (s : State) : Host.Outcome State Fault Refusal :=
  issueEx (.fenceAr f) s (fun x => .ok (if x.go then x.fenceAcq.fenceRel else x))

/-- `FLUSHQ` (R216). -/
def execFlushq (f : RForm) (s : State) : Host.Outcome State Fault Refusal :=
  issueEx (.flushq f) s (fun x => .ok (if x.go then { x with s := x.s.flushQnt x.cluster } else x))

end Sys2Proof.Machine
end

