-- ==== Sys2Proof/Machine/Sync.lean ====
section
/-! DEFINITION. Named barriers (R217-R219), the team barrier (R220) and the tray instructions (R221-R229). -/
namespace Sys2Proof.Machine

/-- The object that an operand names by its sync address word: goes on with its location, or traps, or waits (R205). -/
def Ex.withObject (x : Ex) (o : Operand) (size : Nat) (view : Bool) (k : Nat → Except Trap State) : Except Trap State :=
  match x.s.object x.walker x.allot (x.syncWord o) size size view with
  | .fault c a => .error (.at c a)
  | .wait w => .ok (x.waitFor w).save
  | .at loc => k loc

/-- The entries of an object's page that an instruction at it uses are marked and cached, and its gang is a user of the object (R150,
R154, R358). -/
def Ex.touchObject (x : Ex) (o : Operand) (write : Bool) : Ex :=
  let w := x.syncWord o
  if bit w 0 then x
  else
    match x.s.translate x.walker .object (w / 4 * 4) 4 with
    | .ok t => { x with s := (x.s.touchWalk x.walker (w / 4 * 4) t write).useObject x.g.gang t.loc }
    | _ => x

/-- The releases that the arrivals of a generation of a named barrier make (R184). -/
def barKey (loc gen : Nat) : Nat := 2 ^ 90 * (2 ^ 41 + gen % 2 ^ 32) + loc

/-- The fields of a barrier word (R217). -/
def State.barExpected (s : State) (loc : Nat) : Nat := field (s.word32 loc) 23 0
def State.barArrived (s : State) (loc : Nat) : Nat := field (s.word32 (loc + 4)) 23 0
def State.barGen (s : State) (loc : Nat) : Nat := s.word32 (loc + 8)

/-- A ticket is complete when the generation is 1 to 2^31 - 1 past it (R219). -/
def State.barDone (s : State) (loc t : Nat) : Bool :=
  let d := sub32 (s.barGen loc) t
  decide (1 ≤ d) && decide (d < 2 ^ 31)

/-- The state of a barrier word that the instructions other than `BARI` need (R219). -/
def Ex.barOk (x : Ex) (loc : Nat) : Bool := Tab.find x.s.bars loc == some x.part

/-- `BARI` (R219): goes on only where no arrival is pending, and the count is in range. -/
def Ex.initBar (x : Ex) (o : Operand) (n loc : Nat) : Except Trap State :=
  let own := Tab.find x.s.bars loc
  if (own.isSome && own != some x.part) || n == 0 || decide (0xFFFFFF < n) || (own.isSome && x.s.barArrived loc != 0) then
    .error (.of .barState)
  else
    let y := x.touchObject o true
    let s1 := y.s.storeBytes loc (bytesLE 4 (n + x.part % 16 * 2 ^ 24 + 2 ^ 31) ++ List.replicate 28 0)
    .ok { y with s := { s1 with bars := Tab.put s1.bars loc x.part, sync := addNew s1.sync (loc / 32),
                                rels := s1.rels.filter (fun e => e.1 % 2 ^ 90 != loc || decide (e.1 < 2 ^ 131)) } }.next.save
where
  addNew (l : List Nat) (n : Nat) : List Nat := if l.contains n then l else l ++ [n]

/-- An arrival: a release at `MODE.scope`; the last one completes the generation (R219). -/
def Ex.arriveBar (x : Ex) (o : Operand) (loc : Nat) : Ex :=
  let t := x.s.barGen loc
  let r := (x.touchObject o true).release x.scope
  let s1 := r.1.s.addRel (barKey loc t) r.2
  let n := s1.barArrived loc + 1
  let s2 := if n = s1.barExpected loc then (s1.setHdr loc 4 0).setHdr loc 8 ((t + 1) % 2 ^ 32) else s1.setHdr loc 4 n
  { r.1 with s := s2 }

/-- A wait for a ticket that has come to its end, or goes on (R219). -/
def Ex.awaitBar (x : Ex) (loc t : Nat) : Ex :=
  if x.s.barDone loc t then (x.acquire x.scope (x.s.relsAt (barKey loc t))).doneWaiting.next
  else x.waitFor (.bar loc (word t))

/-- `BARI` (R219). -/
def execBari (f : RForm) (s : State) : Host.Outcome State Fault Refusal :=
  issueWith (.bari f) s (fun x =>
    if x.go then x.withObject f.a 32 false (x.initBar f.a (x.rdU f.b).toNat) else .ok x.next.save)

/-- `BARA` (R219). -/
def execBara (f : RForm) (s : State) : Host.Outcome State Fault Refusal :=
  issueWith (.bara f) s (fun x =>
    if x.go then
      x.withObject f.a 32 false (fun loc =>
        if x.barOk loc then .ok ((x.arriveBar f.a loc).wr f.nw f.d (word (x.s.barGen loc))).next.save
        else .error (.of .barState))
    else .ok x.next.save)

/-- `BARW` (R219). -/
def execBarw (f : RForm) (s : State) : Host.Outcome State Fault Refusal :=
  issueWith (.barw f) s (fun x =>
    if x.go then
      x.withObject f.a 32 false (fun loc =>
        if x.barOk loc then .ok ((x.touchObject f.a false).awaitBar loc (x.rdU f.b).toNat).save
        else .error (.of .barState))
    else .ok x.next.save)

/-- `BARAW` (R219): one that has arrived already issues again as its wait alone. -/
def execBaraw (f : RForm) (s : State) : Host.Outcome State Fault Refusal :=
  issueWith (.baraw f) s (fun x =>
    if x.go || x.sp.ticket.isSome then
      x.withObject f.a 32 false (fun loc =>
        if !x.barOk loc then .error (.of .barState)
        else
          match x.sp.ticket with
          | some t => .ok (x.awaitBar loc t.toNat).save
          | none =>
            let t := x.s.barGen loc
            let y := x.arriveBar f.a loc
            .ok ({ y with sp := { y.sp with ticket := some (word t) } }.awaitBar loc t).save)
    else .ok x.next.save)

/-- `TBAR` (R207, R220): the split waits for the generation at which it came; the group arrives once all its splits
wait. -/
def Ex.teamBarrier (x : Ex) : Ex :=
  match x.sp.ticket with
  | some t =>
    if t.toNat < x.team.barGen then (x.acquire 0 (x.s.relsAt (tbarKey x.teamId t.toNat))).doneWaiting.next
    else x.waitFor (.tbar t.toNat)
  | none => { x with sp := { x.sp with ticket := some (word x.team.barGen) } }.waitFor (.tbar x.team.barGen)

/-- `TBAR` (R220). -/
def execTbar (f : RForm) (s : State) : Host.Outcome State Fault Refusal :=
  issueWith (.tbar f) s (fun x =>
    .ok (if x.g.mcc || !(x.go || x.sp.ticket.isSome) then x.next.save else x.teamBarrier.save))

/-- An initialised tray that the party may use: goes on with its header's location, or traps, or waits (R221). -/
def Ex.withTray (x : Ex) (o : Operand) (view : Bool) (k : Nat → Except Trap State) : Except Trap State :=
  x.withObject o 64 view (fun h => if x.s.trayOk h x.part then k h else .error (.of .trayState))

/-- The header that a list's or copy's tray word names, if it does (R205). -/
def State.trayLoc (s : State) (k ctx gang team tray : Nat) : Option Nat :=
  match s.object (engineWalker s k ctx) (s.teamAllot gang team) tray 64 64 false with
  | .at h => some h
  | _ => none

/-- The parked commands of a team at a tray, with their engines (R157, R229). -/
def State.parkedAt (s : State) (gang team h : Nat) : List (Nat × Job) :=
  s.engines.flatMap (fun e =>
    ((e.2.lists.filter (fun l => l.park.isSome && l.gang == gang && l.team == team && s.trayLoc e.1 l.ctx gang team l.tray == some h)).map
        (fun l => (e.1, Job.list l)))
      ++ ((e.2.copies.filter (fun c => c.park.isSome && c.gang == gang && c.team == team && s.trayLoc e.1 c.ctx gang team c.tray == some h)).map
        (fun c => (e.1, Job.copy c))))

/-- The park of a job. -/
def Job.park : Job → Option Park
  | .list l => l.park
  | .copy c => c.park

/-- A job with its park changed. -/
def State.setPark (s : State) (k : Nat) (j : Job) (p : Option Park) : State :=
  match j with
  | .list l => s.setList k { l with park := p }
  | .copy c => s.setCopy k { c with park := p }

/-- The report of a park that no waiting instruction took, at the issue of a `TRC` or `TRW` (R157, R226). -/
def Ex.reportAt (x : Ex) (h : Nat) : Option State :=
  (x.s.parkedAt x.g.gang x.g.team h).findSome? (fun e =>
    match e.2.park with
    | some p =>
      if p.reported then none
      else
        let serial := match e.2 with | .list l => l.serial % 2 ^ 16 | .copy _ => 0xFFFF
        some (Ex.takeTrap { x with s := x.s.setPark e.1 e.2 (some { p with reported := true }) } (parkTrap p.cause p.addr serial))
    | none => none)

/-- An operation of a cluster's matrix queue waits on a tray (R178, R261, R268). -/
def State.queueAtTray (s : State) (h c : Nat) (m : Mcc) : Bool :=
  match s.group (gidOf c 64) with
  | none => false
  | some g => m.queue.any (fun q => q.waiting && (match q.tray with
      | some w => s.object (queueWalker s c (s.grid (s.gang g.gang).grid).ctx) none w 64 64 false == .at h
      | none => false))

/-- Some party waits on a tray (R223). -/
def State.trayAwaited (s : State) (h : Nat) : Bool :=
  s.groups.any (fun e => e.2.splits.any (fun p => p.atTray h))
    || s.engines.any (fun e => e.2.lists.any (fun l =>
          (l.wait == some .claim || l.wait == some .consume) && s.trayLoc e.1 l.ctx l.gang l.team l.tray == some h)
        || e.2.copies.any (fun c => c.wait.isSome && s.trayLoc e.1 c.ctx c.gang c.team c.tray == some h))
    || s.mccs.any (fun e => s.queueAtTray h e.1 e.2)

/-- A tray descriptor (R222). -/
structure TrayDesc where
  count : Nat
  window : Nat
  size : Nat
  hold : Bool
  final : Bool
  checked : Bool
  holder : Nat
  base : Nat
  /-- the reserved bits are 0 and the attributes obey R165 -/
  ok : Bool
deriving DecidableEq, Repr

/-- Reads a descriptor; `loc` is the header's location bit. -/
def trayDesc (ws : List Word) (loc : Bool) : TrayDesc :=
  let w := fun (j : Nat) => (ws.getD j 0).toNat
  let b := w 2 + 2 ^ 32 * w 3
  let count := field (w 0) 7 0
  let win := field (w 0) 14 8
  let size := field (w 0) 31 16
  let hold := bit (w 1) 0
  let fin := bit (w 1) 1
  { count := count, window := win, size := size, hold := hold, final := fin, checked := bit (w 1) 2, holder := field (w 1) 15 12,
    base := b / 4 * 4,
    ok := !bit (w 0) 15 && decide (1 ≤ win) && decide (win ≤ 64) && decide (win ≤ count + 1) && decide (1 ≤ size) && decide (size ≤ 32768)
      && (!fin || hold) && field (w 1) 11 3 == 0 && field (w 1) 31 16 == 0 && bit b 0 == loc && !bit b 1 && b / 4 * 4 % 64 == 0 }

/-- The bytes of a tray's slot area. -/
def TrayDesc.span (d : TrayDesc) : Nat := (d.count + 1) * d.size * 64

/-- The first slot page of a tray in global memory that is not of types 0-3, with what it comes to (R223). -/
def Ex.slotFailure (x : Ex) (d : TrayDesc) : Option (Nat × Xlat) :=
  (pagesOf d.base d.span).findSome? (fun va =>
    match x.s.translate x.walker .probe (max va d.base % 2 ^ 64) 1 with
    | .ok t => if 4 ≤ t.ty then some (va, .fault .targetType) else none
    | r => some (va, r))

/-- The header that `TRI` writes (R165). -/
def trayHeader (d : TrayDesc) (part : Nat) (loc : Bool) : List Byte :=
  bytesLE 4 0 ++ bytesLE 4 0 ++ bytesLE 4 0 ++ bytesLE 4 0 ++ bytesLE 4 (d.count + d.window * 2 ^ 8) ++ bytesLE 4 d.size
    ++ bytesLE 4 (b2n d.hold + b2n d.final * 2 + b2n d.checked * 4 + b2n loc * 8 + part % 16 * 2 ^ 8 + d.holder % 16 * 2 ^ 12)
    ++ bytesLE 4 0 ++ bytesLE 4 d.base ++ bytesLE 4 (field d.base 56 32) ++ List.replicate 24 0

/-- Initialises a tray (R223): the device forgets what it kept of an earlier one. -/
def Ex.writeTray (x : Ex) (d : TrayDesc) (loc : Bool) (h : Nat) : Ex :=
  let s1 := x.s.storeBytes h (trayHeader d x.part loc)
  let add := fun (l : List Nat) (n : Nat) => if l.contains n then l else l ++ [n]
  { x with s := { s1 with
      trays := add s1.trays h, sync := add (add s1.sync (h / 32)) (h / 32 + 1)
      fills := s1.fills.filter (fun e => e.1 != h), proofed := s1.proofed.filter (fun e => e.1 != h)
      vetoed := s1.vetoed.filter (fun e => e.1 != h)
      rels := s1.rels.filter (fun e => e.1 % 2 ^ 90 != h)
      checkedAreas := s1.checkedAreas.filter (fun e => e.1 != h) ++ (if d.checked && !loc then [(h, x.ctxId)] else []) } }

/-- What `TRI` does once its header is found: the checks in their order, then the header (R223); a tray that is there must be one of
the party's partition (R221). -/
def Ex.initTray (x : Ex) (f : RForm) (loc : Bool) (ty h : Nat) (inside : Bool) : Except Trap State :=
  let d := trayDesc (x.run4 f.b) loc
  if inside && x.s.trays.contains h && (!x.s.trayOk h x.part || x.s.trClaimed h != x.s.trReleased h || x.s.trayAwaited h) then
    .error (.of .trayState)
  else if !d.ok then .error (.of .trayState)
  else if loc && !inside then .error (.at .spadBounds (x.syncWord f.a / 4 * 4 % 2 ^ 32))
  else if loc && (match x.allot with | some t => decide (t.rows * 2048 < d.base + d.span) | none => true) then
    .error (.at .spadBounds (d.base % 2 ^ 32))
  else if d.holder ≠ x.part ∧ (loc || !x.s.holds x.part d.holder) then .error (.of .trayState)
  else if loc then .ok ((x.writeTray d loc h).next.save)
  else if ty ≠ 6 then .error (.at .targetType (x.syncWord f.a / 4 * 4))
  else
    match x.slotFailure d with
    | some (a, .fault c) => .error (.at c a)
    | some (_, .wait w) => .ok (x.waitFor w).save
    | _ => .ok (((x.touchObject f.a true).writeTray d loc h).next.save)

/-- `TRI` (R223): of a misaligned header R165 says what `TRI` raises (log 60, DEDUCED, unsafe). -/
def execTri (f : RForm) (s : State) : Host.Outcome State Fault Refusal :=
  issueWith (.tri f) s (fun x =>
    if x.go then
      let w := x.syncWord f.a
      let a := w / 4 * 4
      if bit w 1 then .error (.at .misaligned a)
      else if a % 64 ≠ 0 then .error (.at .trayState a)
      else if bit w 0 then
        match x.allot with
        | some t =>
          let inside := decide (w < 2 ^ 32) && decide (a + 64 ≤ t.rows * 2048)
          x.initTray f true 4 (t.loc a) inside
        | none => x.initTray f true 4 0 false
      else
        match x.s.translate x.walker .probe a 4 with
        | .fault c => .error (.at c a)
        | .wait wt => .ok (x.waitFor wt).save
        | .ok t => x.initTray f false t.ty t.loc true
    else .ok x.next.save)

/-- The party's scope is too low for the slot of an index (R180). -/
def Ex.slotLow (x : Ex) (h i : Nat) : Bool := x.s.slotScopeLow x.walker h i x.scope

/-- `SCOPE` at the slot of an index (R180). -/
def Ex.slotTrap (x : Ex) (h i : Nat) : Trap := .at .scope (x.s.slotAt h i % 2 ^ 64)

/-- `TRC` on an initialised tray (R167, R224). -/
def Ex.claimTray (x : Ex) (f : RForm) (h : Nat) : Except Trap State :=
  match x.reportAt h with
  | some s => .ok s
  | none =>
    if x.s.trHold h && x.s.trOwner h != x.part then .error (.of .trayState)
    else
      match x.s.claim h with
      | none => .ok (x.waitFor (.claim h)).save
      | some (i, s1) =>
        if x.slotLow h i then .error (x.slotTrap h i)
        else
        let y := ({ x with s := s1 } : Ex).touchObject f.a true
        .ok (((y.acquire x.scope (s1.relsAt (roomKey h))).wr f.nw f.d (word i)).doneWaiting.next.save)

/-- `TRC` (R224). -/
def execTrc (f : RForm) (s : State) : Host.Outcome State Fault Refusal :=
  issueWith (.trc f) s (fun x => if x.go then x.withTray f.a false (x.claimTray f) else .ok x.next.save)

/-- `TRF` on an initialised tray (R168, R225). -/
def Ex.fillTray (x : Ex) (f : RForm) (h : Nat) : Except Trap State :=
  let i := (x.rdU f.b).toNat
  if x.s.trState h i ≠ slotClaimed then .error (.of .trayState)
  else if x.slotLow h i then .error (x.slotTrap h i)
  else
    let r := (x.touchObject f.a true).release x.scope
    .ok ({ r.1 with s := r.1.s.fillSlot h i x.cluster r.2 }.next.save)

/-- `TRF` (R225). -/
def execTrf (f : RForm) (s : State) : Host.Outcome State Fault Refusal :=
  issueWith (.trf f) s (fun x => if x.go then x.withTray f.a false (x.fillTray f) else .ok x.next.save)

/-- `TRW` on an initialised tray (R169, R226). -/
def Ex.waitTray (x : Ex) (f : RForm) (h : Nat) : Except Trap State :=
  let view := bit (x.syncWord f.a) 1
  let i := (x.rdU f.b).toNat
  if view && !(x.s.trHold h && x.s.trHolder h == x.part) then .error (.of .trayState)
  else
    match x.reportAt h with
    | some s => .ok s
    | none =>
      if !x.s.trBehind h i && x.slotLow h i then .error (x.slotTrap h i)
      else if x.s.waitDone h i view then
        let c := x.s.waitCode h i
        let y := x.touchObject f.a false
        let z := if c = 0 then y else y.acquire x.scope (x.s.relsAt (fillKey h i))
        .ok ((z.wr f.nw f.d (word c)).doneWaiting.next.save)
      else .ok (x.waitFor (.fill h (word i) view)).save

/-- `TRW` (R226). -/
def execTrw (f : RForm) (s : State) : Host.Outcome State Fault Refusal :=
  issueWith (.trw f) s (fun x => if x.go then x.withTray f.a true (x.waitTray f) else .ok x.next.save)

/-- `TRR` on an initialised tray (R170, R227). -/
def Ex.releaseTray (x : Ex) (f : RForm) (h : Nat) : Except Trap State :=
  let i := (x.rdU f.b).toNat
  if !x.s.canRelease h i || x.s.egressOn h then .error (.of .trayState)
  else if x.slotLow h i then .error (x.slotTrap h i)
  else
    let r := (x.touchObject f.a true).release x.scope
    .ok ({ r.1 with s := r.1.s.releaseSlot h i r.2 }.next.save)

/-- `TRR` (R227). -/
def execTrr (f : RForm) (s : State) : Host.Outcome State Fault Refusal :=
  issueWith (.trr f) s (fun x => if x.go then x.withTray f.a false (x.releaseTray f) else .ok x.next.save)

/-- A decision on an index: HELD becomes `code`, and resolution runs (R171, R228). -/
def Ex.decideTray (x : Ex) (f : RForm) (code h : Nat) : Except Trap State :=
  let i := (x.rdU f.b).toNat
  if x.s.trHold h && x.s.trHolder h == x.part && x.s.trBelow h i (x.s.trFilled h) && x.s.trState h i == slotHeld then
    if x.slotLow h i then .error (x.slotTrap h i)
    else
    let y := x.touchObject f.a true
    .ok ({ y with s := resolveTray h 65 (y.s.setTrState h i code) }.next.save)
  else .error (.of .trayState)

/-- `TRO` (R228). -/
def execTro (f : RForm) (s : State) : Host.Outcome State Fault Refusal :=
  issueWith (.tro f) s (fun x => if x.go then x.withTray f.a false (x.decideTray f slotHeldOpen) else .ok x.next.save)

/-- `TRV` (R228). -/
def execTrv (f : RForm) (s : State) : Host.Outcome State Fault Refusal :=
  issueWith (.trv f) s (fun x => if x.go then x.withTray f.a false (x.decideTray f slotHeldVeto) else .ok x.next.save)

/-- The header word that `TRQ` reads, by selector (R229). -/
def trqOffset (k : Nat) : Nat := [0x00, 0x04, 0x08, 0x0C, 0x1C, 0x10, 0x14, 0x18].getD k 0

/-- `TRQ` on an initialised tray (R229, R245). -/
def Ex.queryTray (x : Ex) (f : RForm) (h : Nat) : Except Trap State :=
  let k := (x.rdU f.b).toNat
  let js := x.s.parkedAt x.g.gang x.g.team h
  if k < 8 then .ok (((x.touchObject f.a false).wr f.nw f.d (word (x.s.hdr h (trqOffset k)))).next.save)
  else if k = 8 then
    let s1 := js.foldl (fun s e => s.setPark e.1 e.2 none) x.s
    .ok ((({ x with s := s1 } : Ex).wr f.nw f.d (word js.length)).next.save)
  else if k = 9 then
    let s1 := js.foldl (fun (s : State) e => match e.2 with | .list l => s.abandonList e.1 l | .copy c => s.abandonCopy e.1 c) x.s
    .ok ((({ x with s := s1 } : Ex).wr f.nw f.d (word js.length)).next.save)
  else .error (.of .trayState)

/-- `TRQ` (R229). -/
def execTrq (f : RForm) (s : State) : Host.Outcome State Fault Refusal :=
  issueWith (.trq f) s (fun x => if x.go then x.withTray f.a false (x.queryTray f) else .ok x.next.save)

end Sys2Proof.Machine
end

