-- ==== Sys2Proof/Machine/Tensor.lean ====
section
/-! DEFINITION. The accesses of a stream engine or of the matrix queue to bytes, elements and block scales (R151, R176, R180,
R201, R350), and the tensor table's instructions (R159, R230). -/
namespace Sys2Proof.Machine

/-- What an access comes to. -/
inductive Acc (α : Type) where
  | ok (a : α)
  | fault (c : Cause) (addr : Nat)
  | wait (w : Wait)
deriving DecidableEq, Repr

/-- An access followed by another one. -/
def Acc.bind {α β : Type} (a : Acc α) (f : α → Acc β) : Acc β :=
  match a with
  | .ok x => f x
  | .fault c n => .fault c n
  | .wait w => .wait w

/-- A fault reported at another address. -/
def Acc.at {α : Type} (a : Acc α) (addr : Nat) : Acc α :=
  match a with
  | .fault c _ => .fault c addr
  | x => x

/-- Accesses one after another, each from the state that the last one left. -/
def Acc.fold {α σ : Type} (f : σ → α → Acc σ) : List α → σ → Acc σ
  | [], s => .ok s
  | a :: l, s => (f s a).bind (Acc.fold f l)

/-- A party that accesses memory for a command: its walker, the allotment that its offsets name, who it is in a race test,
and the scope that its locations must allow (R180). -/
structure Agent where
  w : Walker
  al : Option Allot
  who : Tester
  scope : Option Nat
deriving DecidableEq, Repr

/-- The check of an access of `len` bytes that lies in one 16-byte unit (R146, R151, R176, R180, R201). -/
def Agent.look (ag : Agent) (s : State) (inSpad : Bool) (addr len align : Nat) (write : Bool) (kind : AccKind) : Acc Target :=
  match s.access ag.w ag.al inSpad addr (if write then .engineWrite else .engineRead) align with
  | .fault c => .fault c addr
  | .wait w => .wait w
  | .ok t =>
    let sync := s.isSync t.loc len
    if inSpad && decide (t.run < len) then .fault .spadBounds addr
    else if write && sync then .fault .syncObjectStore addr
    else if (match ag.scope with | some sc => scopeLow t.ty sc | none => false) then .fault .scope addr
    else if sync then .ok t
    else
      match s.raceTest ag.who kind (s.isChecked t) t.loc len with
      | some c => .fault c addr
      | none => .ok t

/-- What an access leaves beside the data (R150, R154, R199). -/
def Agent.mark (ag : Agent) (s : State) (addr len : Nat) (t : Target) (write : Bool) (kind : AccKind) : State :=
  let s1 := s.touchWalk ag.w addr t write
  if s1.isSync t.loc len then s1 else s1.stampAccess ag.who kind (s1.isChecked t) t.loc len

/-- Reads `len` bytes that lie in one 16-byte unit; poisoned ones are a fault (R350). -/
def Agent.readAt (ag : Agent) (s : State) (inSpad : Bool) (addr len align : Nat) : Acc (List Byte × State) :=
  (ag.look s inSpad addr len align false .read).bind (fun t =>
    if s.poisoned t.loc len then .fault .poison addr
    else .ok (Memory.load s.mem t.loc len, ag.mark s addr len t false .read))

/-- Writes bytes that lie in one 16-byte unit, each a function of what the byte was; it ends release sequences (R184). -/
def Agent.writeAt (ag : Agent) (s : State) (inSpad : Bool) (addr align : Nat) (fs : List (Byte → Byte)) : Acc State :=
  let len := fs.length
  (ag.look s inSpad addr len align true .write).bind (fun t =>
    let bs := (fs.zip (Memory.load s.mem t.loc len)).map (fun e => e.1 e.2)
    .ok (ag.mark ((s.endRels t.loc len).storeBytes t.loc bs) addr len t true .write))

/-- Pieces of a range, none across a 16-byte boundary: address and length (R153: an access of 16 aligned bytes crosses no
row). -/
def pieces (addr n : Nat) : List (Nat × Nat) :=
  if n = 0 then []
  else (List.range ((addr + n - 1) / 16 + 1 - addr / 16)).map (fun j =>
    let lo := max addr ((addr / 16 + j) * 16)
    (lo, min (addr + n) ((addr / 16 + j + 1) * 16) - lo))

/-- Reads a range of bytes. -/
def Agent.readRange (ag : Agent) (s : State) (inSpad : Bool) (addr n : Nat) : Acc (List Byte × State) :=
  Acc.fold (fun (r : List Byte × State) p =>
    (ag.readAt r.2 inSpad p.1 p.2 1).bind (fun q => .ok (r.1 ++ q.1, q.2))) (pieces addr n) ([], s)

/-- Writes a range of bytes. -/
def Agent.writeRange (ag : Agent) (s : State) (inSpad : Bool) (addr : Nat) (fs : List (Byte → Byte)) : Acc State :=
  Acc.fold (fun (s : State) p => ag.writeAt s inSpad p.1 1 ((fs.drop (p.1 - addr)).take p.2)) (pieces addr fs.length) s

/-- Reads the bytes of an element or a scale byte. -/
def Agent.readElem (ag : Agent) (s : State) (t : Tensor) (a n : Nat) : Acc (Nat × State) :=
  ((ag.readAt s (t.cls == 0) (t.place a) n n).at a).bind (fun r => .ok (natLE r.1, r.2))

/-- An element as a box reads it, with its block scale (0 where the format has none): mirrored, or zero under
mirror-override (R96, R164). -/
def Agent.element (ag : Agent) (s : State) (t : Tensor) (past : Bool) (c : Coord) : Acc ((Nat × Nat) × State) :=
  if past && !t.has c then .ok ((fmtZero t.fmt, if fmtScaled t.fmt then 0x7F else 0), s)
  else
    let x := mirror t.rep c.x t.ext0
    let y := mirror t.rep c.y t.ext1
    let z := mirror t.rep c.z t.ext2
    let w := mirror t.rep c.w t.ext3
    (ag.readElem s t (t.addr x y z w) (fmtBytes t.fmt)).bind (fun r =>
      let v := if fmtBits t.fmt = 4 then r.1 / 2 ^ (4 * (x % 2)) % 16 else r.1
      if fmtScaled t.fmt then
        (ag.readElem r.2 t (t.scaleAddr x y z w) 1).bind (fun q => .ok ((v, q.1), q.2))
      else .ok ((v, 0), r.2))

/-- Writes an element; outside the extents nothing is written (R164). -/
def Agent.putElement (ag : Agent) (s : State) (t : Tensor) (c : Coord) (v : Nat) : Acc State :=
  if t.has c then
    let a := t.addr c.x.toNat c.y.toNat c.z.toNat c.w.toNat
    let fs : List (Byte → Byte) := if fmtBits t.fmt = 4 then
        [fun old => BitVec.ofNat 8 (setField old.toNat (4 * (c.x.toNat % 2) + 3) (4 * (c.x.toNat % 2)) v)]
      else (bytesLE (fmtBytes t.fmt) v).map (fun b _ => b)
    (ag.writeAt s (t.cls == 0) (t.place a) (fmtBytes t.fmt) fs).at a
  else .ok s

/-- Writes the scale byte of the block that holds an element; outside the extents nothing is written (R243). -/
def Agent.putScale (ag : Agent) (s : State) (t : Tensor) (c : Coord) (v : Nat) : Acc State :=
  if t.has c then
    let a := t.scaleAddr c.x.toNat c.y.toNat c.z.toNat c.w.toNat
    (ag.writeAt s (t.cls == 0) (t.place a) 1 [fun _ => BitVec.ofNat 8 v]).at a
  else .ok s

/-- The bits of a row of codes as a number, element 0 lowest. -/
def packBits (bits : Nat) : List Nat → Nat
  | [] => 0
  | v :: vs => v % 2 ^ bits + 2 ^ bits * packBits bits vs

/-- The byte changes that put `n` bits of `v` at bit `off` (0-7) of a range. -/
def bitBytes (off n v : Nat) : List (Byte → Byte) :=
  (List.range ((off + n + 7) / 8)).map (fun j old =>
    let lo := if j = 0 then off else 0
    let hi := min 8 (off + n - 8 * j)
    let x := if j = 0 then v * 2 ^ off else v / 2 ^ (8 * j - off)
    BitVec.ofNat 8 (setField old.toNat (hi - 1) lo (x % 256 / 2 ^ lo)))

/-- Row r of a box read from a tensor: codes and the scales of its elements. -/
def Agent.readRow (ag : Agent) (s : State) (t : Tensor) (past : Bool) (b : Box) (o : Coord) (r : Nat) :
    Acc (List (Nat × Nat) × State) :=
  Acc.fold (fun (q : List (Nat × Nat) × State) j =>
    (ag.element q.2 t past (b.coord o r j)).bind (fun e => .ok (q.1 ++ [e.1], e.2))) (List.range b.b0) ([], s)

/-- Writes row r of a box into a slot at `addr` (R235). -/
def Agent.slotPut (ag : Agent) (s : State) (inSpad : Bool) (addr f : Nat) (b : Box) (r : Nat) (es : List (Nat × Nat)) : Acc State :=
  let bits := fmtBits f
  let at_ := r * b.b0 * bits
  (ag.writeRange s inSpad (addr + at_ / 8) (bitBytes (at_ % 8) (b.b0 * bits) (packBits bits (es.map (·.1))))).bind (fun s1 =>
    if fmtScaled f then
      ag.writeRange s1 inSpad (addr + b.scaleAt f + r * b.blocks)
        ((List.range b.blocks).map (fun j _ => BitVec.ofNat 8 (es.getD (32 * j) (0, 0)).2))
    else .ok s1)

/-- Reads row r of a box from a slot: its codes, and the scale bytes of its blocks (R235). -/
def Agent.slotGet (ag : Agent) (s : State) (inSpad : Bool) (addr f : Nat) (b : Box) (r : Nat) : Acc ((List Nat × List Nat) × State) :=
  let bits := fmtBits f
  let at_ := r * b.b0 * bits
  (ag.readRange s inSpad (addr + at_ / 8) ((at_ % 8 + b.b0 * bits + 7) / 8)).bind (fun q =>
    let v := natLE q.1 / 2 ^ (at_ % 8)
    let codes := (List.range b.b0).map (fun j => v / 2 ^ (bits * j) % 2 ^ bits)
    if fmtScaled f then
      (ag.readRange q.2 inSpad (addr + b.scaleAt f + r * b.blocks) b.blocks).bind (fun p =>
        .ok ((codes, p.1.map (fun (x : Byte) => x.toNat)), p.2))
    else .ok ((codes, []), q.2))

/-- Whether `TSET` admits the words of an entry (R230). -/
def tsetOk (ws : List Word) : Bool :=
  let t := tensorOf ws
  let w := fun (j : Nat) => (ws.getD j 0).toNat
  t.fmt != 15 && decide (t.cls < 2) && t.ext0 != 0 && t.ext1 != 0 && t.ext2 != 0 && t.ext3 != 0
    && field (w 3) 30 14 == 0 && w 11 == 0 && !bit (w 8) 23
    && (if t.cls = 1 then canonical t.base && (!fmtScaled t.fmt || canonical t.scale)
        else !fmtScaled t.fmt || w 7 == 0)

/-- The words of an entry that `TSET` takes: an invalidation, whatever its other fields hold, or an entry that is good (R230). -/
def tsetAdmits (ws : List Word) : Bool := bit (ws.getD 3 0).toNat 31 || tsetOk ws

/-- A context's tensor table after the words of an entry were written (R230). -/
def Ctx.tset (c : Ctx) (ws : List Word) : Ctx :=
  { c with tensors := Tab.put c.tensors (field (ws.getD 3 0).toNat 7 0) (ws.take 11) }

/-- A template entry written as `TSET` would (R160): an invalidation takes the entry away. -/
def Ctx.template (c : Ctx) (ws : List Word) : Ctx :=
  if bit (ws.getD 3 0).toNat 31 then { c with tensors := Tab.del c.tensors (field (ws.getD 3 0).toNat 7 0) }
  else if tsetOk ws then c.tset ws
  else c

/-- `TSET` (R230). -/
def Ex.tset (x : Ex) (ws : List Word) : Except Trap Ex :=
  let tid := field (ws.getD 3 0).toNat 7 0
  if bit (ws.getD 3 0).toNat 31 then
    .ok { x with s := x.s.setCtx x.ctxId { x.ctx with tensors := Tab.del x.ctx.tensors tid } }
  else if tsetOk ws then .ok { x with s := x.s.setCtx x.ctxId (x.ctx.tset ws) }
  else .error (.of .tensorId)

/-- `TSET` (R230). -/
def execTset (f : RForm) (s : State) : Host.Outcome State Fault Refusal :=
  issueEx (.tset f) s (fun x => if x.go then x.tset (x.run4 f.d ++ x.run4 f.a ++ x.run4 f.b) else .ok x)

/-- A word of an entry as `TGET` reads it (R231). -/
def Ctx.tget (c : Ctx) (tid k : Nat) : Word :=
  match Tab.find c.tensors tid with
  | none => 0
  | some ws => if k = 3 then ws.getD 3 0 ||| 0x80000000 else ws.getD k 0

/-- `TGET` (R231). -/
def execTget (f : RForm) (s : State) : Host.Outcome State Fault Refusal :=
  issueEx (.tget f) s (fun x =>
    if !x.go then .ok x
    else if 11 < (x.rdU f.b).toNat then .error (.of .illegalOperand)
    else .ok (x.wr f.nw f.d (x.ctx.tget (field (x.rdU f.a).toNat 7 0) (x.rdU f.b).toNat)))

end Sys2Proof.Machine
end

