-- ==== Sys2Proof/WellFormed.lean ====
section
/-! DEFINITION. What makes an instruction word well formed: the operand rules of R54-R57, the immediates of R63, the
legal atomic pairs of R66 and the special-register rules of R70, as far as the word alone decides them. A word of the
program that is none of these is no gap of the decoder: the device gives it a trap (R67). A stream command is well
formed when its reserved bits are 0 (R242). -/
namespace Sys2Proof

/-- The atomic's pair of op and use is a legal one (R66). -/
def Instr.atmOk : Instr → Bool
  | .atmCom op _ => !atmIllegal op.code 1
  | .atmQnt op _ => !atmIllegal op.code 3
  | .atmSpc op _ => !atmIllegal op.code 4
  | _ => true

/-- The reserved bits of a stream command are 0 (R242). -/
def Instr.streamOk : Instr → Bool
  | .sfetch f => f.rsv == 0
  | .sstore f => f.rsv == 0
  | .sloop _ r => r == 0
  | .snext r => r == 0
  | .swaitf r => r == 0
  | .sacq r _ => r == 0
  | .srel r _ => r == 0
  | .sseq r => r == 0
  | .slink r _ _ => r == 0
  | .shalt r => r == 0
  | .sset _ r _ => r == 0
  | _ => true

/-- The fates of R67 stand for the words that have them, and for no other. -/
def Instr.fateOk : Instr → Bool
  | .illegalOpcode w => decode w == .illegalOpcode w
  | .streamWord w => decode w == .streamWord w
  | _ => true

/-- A well-formed instruction. -/
def Instr.wellFormed (i : Instr) : Bool := i.staticOk && i.atmOk && i.streamOk && i.fateOk

end Sys2Proof
end

