-- ==== Sys2Proof/Machine/Engines.lean ====
section
/-! DEFINITION. Bulk copies and stream lists: the instructions that start them (R232, R233, R236, R239-R241) and what the
engines do, one row of a box at a time (R234-R238, R242-R246). -/
namespace Sys2Proof.Machine

/-- The first failure of a sync address word at issue (R205): its alignment and view, and for location 1 its place in the
allotment (log 157, DESIGN CHOICE, unsafe). -/
def Ex.wordFault (x : Ex) (w align size : Nat) : Option (Cause × Nat) :=
  let a := w / 4 * 4
  if bit w 1 || a % align != 0 then some (.misaligned, a)
  else if !bit w 0 then none
  else
    match x.allot with
    | none => some (.spadBounds, a % 2 ^ 32)
    | some t => if 2 ^ 32 ≤ w ∨ t.rows * 2048 < a + size then some (.spadBounds, a % 2 ^ 32) else none

/-- The vectors that a party gives with a command (R198). -/
def Ex.given (x : Ex) : Vecs := { x.g.vecs with home := x.cluster }

/-- The tile of the issuing party. -/
def Ex.tile (x : Ex) : Nat := x.cluster / 18

/-- The copies of a team that are outstanding (R233). -/
def State.copiesOf (s : State) (gang team : Nat) : Nat :=
  (s.engines.flatMap (fun e => e.2.copies.filter (fun c => c.gang == gang && c.team == team))).length

/-- A number that no copy of an engine has. -/
def Engine.freshSerial (e : Engine) : Nat := e.copies.foldl (fun m c => max m c.serial) 0 + 1

/-- `TCOPY` and `TCOPYV` at issue (R232, R233). -/
def Ex.copy (x : Ex) (versioned : Bool) (f : RForm) : Except Trap Ex :=
  let d := x.run4 f.d
  let w := (d.getD 0 0).toNat
  let toSlot := bit w 19
  let tray := (d.getD 2 0).toNat + 2 ^ 32 * (d.getD 3 0).toNat
  let src := Tab.find x.ctx.tensors (field w 7 0)
  let dst := Tab.find x.ctx.tensors (field w 15 8)
  if w / 2 ^ 20 ≠ 0 ∨ src.isNone ∨ (versioned ∧ toSlot) ∨ (!toSlot ∧ dst.isNone) then .error (.of .tensorId)
  else
    match x.wordFault tray 64 64 with
    | some (c, a) => .error (.at c a)
    | none =>
      let share := x.s.share x.gridId x.tile
      if share.isEmpty ∨ 16 ≤ x.s.copiesOf x.g.gang x.g.team then .error (.of .engineFull)
      else
        let k := share.getD (Config.freeNat x.s.freeCtr % share.length) 0
        let y : Ex := { x with s := x.s.draw }
        let r := if bit w 16 then y.release y.scope
          else (y, { party := .core y.gid, scope := y.scope, team := y.teamId, vecs := y.given })
        let e := r.1.s.engine k
        let c : Copy := { serial := e.freshSerial, gang := x.g.gang, team := x.g.team, ctx := x.ctxId, versioned := versioned,
                          src := src.getD [], dst := dst.getD [], flags := w, box := d.getD 1 0, coords := x.run4 f.a,
                          dcoords := x.run4 f.b, tray := tray, scope := x.scope, vecs := x.given, rel := r.2, slot := none,
                          wait := none, park := none, row := 0, held := [], begun := false, compared := 0, ended := none,
                          closing := false, issuer := x.gid }
        .ok { r.1 with s := r.1.s.setEngine k { e with copies := e.copies ++ [c] } }

/-- `TCOPY` (R232). -/
def execTcopy (f : RForm) (s : State) : Host.Outcome State Fault Refusal :=
  issueEx (.tcopy f) s (fun x => if x.go then x.copy false f else .ok x)

/-- `TCOPYV` (R236). -/
def execTcopyv (f : RForm) (s : State) : Host.Outcome State Fault Refusal :=
  issueEx (.tcopyv f) s (fun x => if x.go then x.copy true f else .ok x)

/-- The engine that a list goes to (R239): the named one, or one of those of the share that hold the fewest lists. -/
def Ex.listEngine (x : Ex) (b : Nat) : Option Nat :=
  let share := x.s.share x.gridId x.tile
  let load := fun (k : Nat) => (x.s.engine k).lists.length
  let k := if bit b 4 then
      let least := share.foldl (fun m k => min m (load k)) 8
      let best := share.filter (fun k => load k == least)
      best[Config.freeNat x.s.freeCtr % best.length]?
    else if share.contains (16 * x.tile + field b 3 0) then some (16 * x.tile + field b 3 0) else none
  match k with
  | some k => if load k < 8 then some k else none
  | none => none

/-- `SLRUN` (R239): its release is the one that a later `SACQ` or acquire flag of the list pairs with (R183). -/
def Ex.runList (x : Ex) (f : RForm) : Except Trap State :=
  let r := x.run4 f.a
  let start := (r.getD 0 0).toNat + 2 ^ 32 * (r.getD 1 0).toNat
  let tray := (r.getD 2 0).toNat + 2 ^ 32 * (r.getD 3 0).toNat
  let b := (x.rdU f.b).toNat
  if field b 15 5 ≠ 0 ∨ (bit b 4 ∧ field b 3 0 ≠ 0) then .error (.of .illegalOperand)
  else
    match x.wordFault start 4 4 with
    | some (c, a) => .error (.at c a)
    | none =>
      match x.s.object x.walker x.allot tray 64 64 false with
      | .fault c a => .error (.at c a)
      | .wait w => .ok (x.waitFor w).save
      | .at h =>
        if !x.s.trayOk h x.part then .error (.of .trayState)
        else
          match x.listEngine b with
          | none => .error (.of .engineFull)
          | some k =>
            let rel := ({ x with s := x.s.draw } : Ex).release x.scope
            let y := rel.1
            let c := y.ctx
            let l : SList := { serial := c.serial, gang := x.g.gang, team := x.g.team, ctx := x.ctxId, loc := bit start 0,
                               addr := if bit start 0 then start / 4 * 4 % 2 ^ 32 else start / 4 * 4, p := 0, tail := field b 31 16,
                               c := [], loops := [], slot := none, consume := word (y.s.trReleased h), tray := tray, vecs := x.given,
                               rel := rel.2, srel := [], wait := none, park := none, closing := false, cur := none, named := none, tensor := none, row := 0,
                               issuer := x.gid }
            let e := y.s.engine k
            let s1 := (y.s.setEngine k (e.addList l)).setCtx y.ctxId { c with serial := c.serial + 1 }
            .ok ((({ y with s := s1 } : Ex).wr f.nw f.d (word (k % 16 + k / 16 * 2 ^ 4 + c.serial % 2 ^ 24 * 2 ^ 8))).next.save)

/-- `SLRUN` (R239). -/
def execSlrun (f : RForm) (s : State) : Host.Outcome State Fault Refusal :=
  issueWith (.slrun f) s (fun x => if x.go then x.runList f else .ok x.next.save)

/-- `STAIL` (R240): the issuing group's updates, on their way or in its cluster's buffers, are performed before the words can be read. -/
def Ex.moveTail (x : Ex) (h n : Nat) : Ex :=
  let k := field h 6 4 * 16 + field h 3 0
  let here := fun (l : SList) => l.ctx == x.ctxId && l.serial % 2 ^ 24 == h / 2 ^ 8
  if bit h 7 || !(x.s.engine k).lists.any here then x
  else
    let s1 := (x.s.performOf (.core x.gid)).flushOf (.core x.gid) x.cluster
    let e := s1.engine k
    { x with s := s1.setEngine k { e with lists := e.lists.map (fun l => if here l then { l with tail := l.tail + n } else l) } }

/-- `STAIL` (R240). -/
def execStail (f : RForm) (s : State) : Host.Outcome State Fault Refusal :=
  issueEx (.stail f) s (fun x => .ok (if x.go then x.moveTail (x.rdU f.a).toNat (x.rdU f.b).toNat else x))

/-- `SLSEQ` (R241). -/
def execSlseq (f : RForm) (s : State) : Host.Outcome State Fault Refusal :=
  issueWith (.slseq f) s (fun x =>
    if x.go then
      x.withTray f.a false (fun h => .ok (((x.touchObject f.a false).wr f.nw f.d (word (x.s.trSeq h))).next.save))
    else .ok x.next.save)

/-- An acquire by engine `k` in the work of a list or copy (R183, R195, R198): the machine and what is then given. -/
def State.engineAcquire (s : State) (k team scope : Nat) (given : Vecs) (rs : List Release) : State × Vecs :=
  let v := acquireAll (engineVecs s k given) (.engine k) team scope rs
  let e := s.engine k
  (s.setEngine k { e with vecs := { e.vecs with x := v.x, e := v.e } }, { given with l := v.l })

/-- The engine as an agent, with the scope that its locations must allow. -/
def engineAgent (s : State) (k ctx gang team : Nat) (given : Vecs) (scope : Option Nat) : Agent :=
  let w := engineWalker s k ctx
  { w := w, al := s.teamAllot gang team, who := testerEngine s w.part given.home k (engineVecs s k given), scope := scope }

/-- What the tray of a command comes to: the header, or a fault with its address, or a wait (R173, R205, R221). -/
def State.engineTray (s : State) (k ctx gang team tray : Nat) : Acc Nat :=
  let w := engineWalker s k ctx
  match s.object w (s.teamAllot gang team) tray 64 64 false with
  | .at h => if s.trayOk h w.part then .ok h else .fault .trayState (tray / 4 * 4)
  | .fault c a => .fault c a
  | .wait x => .wait x

/-- The claim of an engine, where its partition may make it (R167, R224). -/
def State.mayClaim (s : State) (h part : Nat) : Bool := !(s.trHold h && s.trOwner h != part)

/-- The list whose command is run, with its engine and its place there. -/
def runList (s : State) (act : Nat → Nat → SList → State) : Host.Outcome State Fault Refusal :=
  match s.turn with
  | .engine k =>
    match s.job k with
    | some (p, .list l) => .next (act k p l)
    | _ => .next s
  | _ => .next s

/-- A command of a list ends: the engine goes on to its next list or copy (R238), and the command is counted (R361). With it ends a
list whose teams have all retired (R246). -/
def State.endCommand (s : State) (k p : Nat) (l : SList) : State :=
  let s0 := (s.setList k { l with cur := none, named := none, tensor := none, row := 0, wait := none }).served k p
  let s1 := if l.closing then s0.setEngine k ((s0.engine k).dropList l) else s0
  s1.countAt (s.ctx l.ctx).part none (gidCluster l.issuer) 12 1

/-- A list waits at its command; one whose teams have all retired ends (R246). -/
def State.blockList (s : State) (k p : Nat) (l : SList) (w : EWait) : State :=
  if l.closing then s.setEngine k ((s.engine k).dropList l) else (s.setList k { l with wait := some w }).served k p

/-- A list parks at its command (R244). -/
def State.stopList (s : State) (k p : Nat) (l : SList) (c : Cause) (a : Nat) : State := (s.parkList k l c a).served k p

/-- A command of a list whose reserved bits are 0; others park it (R242). -/
def listCommand (i : Instr) (s : State) (act : Nat → Nat → SList → State) : Host.Outcome State Fault Refusal :=
  runList s (fun k p l => if i.streamOk then act k p l else s.stopList k p l .illegalOperand l.addr)

/-- A command that only changes its list. -/
def State.changeList (s : State) (k p : Nat) (l : SList) : State := s.endCommand k p l

/-- The team of a list, as releases name it. -/
def SList.teamId (l : SList) : Nat := teamKey l.gang l.team

/-- `SLOOP` (R243); a park reports the address past the command (log 158, DESIGN CHOICE, unsafe). -/
def execSloop (trips : BitVec 16) (rsv : BitVec 6) (s : State) : Host.Outcome State Fault Refusal :=
  listCommand (.sloop trips rsv) s (fun k p l =>
    if 4 ≤ l.loops.length then s.stopList k p l .loopOverflow l.addr
    else s.endCommand k p { l with loops := ⟨l.p, l.loc, l.addr, trips.toNat + 1, 1⟩ :: l.loops })

/-- `SNEXT` (R243); a park reports the address past the command (log 158, DESIGN CHOICE, unsafe). -/
def execSnext (rsv : BitVec 22) (s : State) : Host.Outcome State Fault Refusal :=
  listCommand (.snext rsv) s (fun k p l =>
    match l.loops with
    | [] => s.stopList k p l .stackUnderflow l.addr
    | e :: rest =>
      if e.begun < e.trips then
        s.endCommand k p { l with loops := { e with begun := e.begun + 1 } :: rest, p := e.start, loc := e.loc, addr := e.addr }
      else s.endCommand k p { l with loops := rest })

/-- `SADV` (R243). -/
def execSadv (c : BitVec 3) (stp : BitVec 19) (s : State) : Host.Outcome State Fault Refusal :=
  listCommand (.sadv c stp) s (fun k p l =>
    s.endCommand k p { l with c := Tab.put l.c c.toNat (Tab.read l.c c.toNat 0 + sext32 19 stp.toNat) })

/-- `SSET` (R243). -/
def execSset (c : BitVec 3) (rsv : BitVec 19) (v : Word) (s : State) : Host.Outcome State Fault Refusal :=
  listCommand (.sset c rsv v) s (fun k p l => s.endCommand k p { l with c := Tab.put l.c c.toNat v })

/-- `SWAITF` (R167, R180, R243): its acquire has the scope that the issuing group had (log 28, DEDUCED, unsafe). -/
def execSwaitf (rsv : BitVec 22) (s : State) : Host.Outcome State Fault Refusal :=
  listCommand (.swaitf rsv) s (fun k p l =>
    match s.engineTray k l.ctx l.gang l.team l.tray with
    | .fault c a => s.stopList k p l c a
    | .wait _ => s.served k p
    | .ok h =>
      if l.slot.isSome || !s.mayClaim h (s.ctx l.ctx).part then s.stopList k p l .trayState (l.tray / 4 * 4)
      else
        match s.claim h with
        | none => s.blockList k p l .claim
        | some (i, s1) =>
          if s.slotScopeLow (engineWalker s k l.ctx) h i l.rel.scope then s.stopList k p l .scope (s.slotAt h i % 2 ^ 64)
          else
          let r := s1.engineAcquire k l.teamId l.rel.scope l.vecs (s1.relsAt (roomKey h))
          (r.1.touchTray k l.ctx l.gang l.tray true).endCommand k p { l with slot := some (word i), vecs := r.2 })

/-- `SACQ` (R183, R195, R243). -/
def execSacq (rsv : BitVec 20) (scope : BitVec 2) (s : State) : Host.Outcome State Fault Refusal :=
  listCommand (.sacq rsv scope) s (fun k p l =>
    let r := s.engineAcquire k l.teamId scope.toNat l.vecs [l.rel]
    r.1.endCommand k p { l with vecs := r.2 })

/-- `SREL` (R183, R195, R243): whoever observes it through a later fill or release of the list pairs with it at its scope (log 125, DEDUCED, unsafe). -/
def execSrel (rsv : BitVec 20) (scope : BitVec 2) (s : State) : Host.Outcome State Fault Refusal :=
  listCommand (.srel rsv scope) s (fun k p l =>
    let r := engineRelease s k l.teamId scope.toNat (engineVecs s k l.vecs)
    (r.1.endCommand k p { l with srel := l.srel.filter (fun q => q.scope != scope.toNat) ++ [r.2] }).settleCheck)

/-- `SSEQ` (R243). -/
def execSseq (rsv : BitVec 22) (s : State) : Host.Outcome State Fault Refusal :=
  listCommand (.sseq rsv) s (fun k p l =>
    match s.engineTray k l.ctx l.gang l.team l.tray with
    | .fault c a => s.stopList k p l c a
    | .wait _ => s.served k p
    | .ok h => ((s.setHdr h 0x0C ((s.trSeq h + 1) % 2 ^ 32)).touchTray k l.ctx l.gang l.tray true).endCommand k p l)

/-- `SLINK` (R205, R243). -/
def execSlink (rsv : BitVec 22) (lo hi : Word) (s : State) : Host.Outcome State Fault Refusal :=
  listCommand (.slink rsv lo hi) s (fun k p l =>
    let w := lo.toNat + 2 ^ 32 * hi.toNat
    if bit w 1 then s.stopList k p l .misaligned (w / 4 * 4)
    else if bit w 0 ∧ hi ≠ 0 then s.stopList k p l .spadBounds (lo.toNat / 4 * 4)
    else s.endCommand k p { l with loc := bit w 0, addr := w / 4 * 4 })

/-- `SHALT` (R243). -/
def execShalt (rsv : BitVec 22) (s : State) : Host.Outcome State Fault Refusal :=
  listCommand (.shalt rsv) s (fun k p l =>
    let s1 := s.endCommand k p l
    s1.setEngine k ((s1.engine k).dropList l))

/-- The origin of a box: four registers of the list, signed (R243). -/
def SList.origin (l : SList) (quad : Bool) : Coord :=
  let c := fun (j : Nat) => (Tab.read l.c ((if quad then 4 else 0) + j) 0).toInt
  ⟨c 0, c 1, c 2, c 3⟩

/-- The agents of a box command: for the tensor's elements, whose locations count for `SCOPE` where the command is an acquire
or a release, and for the slot (R180, log 29, DEDUCED, unsafe). -/
def boxAgents (s : State) (k ctx gang team scope : Nat) (given : Vecs) (flagged : Bool) : Agent × Agent :=
  (engineAgent s k ctx gang team given (if flagged then some scope else none),
   engineAgent s k ctx gang team given (some scope))

/-- `SFETCH` begins: the tensor entry is read once (R208), the slot must hold the box (R235), and the acquire comes before
the first read (R195). A park reports the place of the tray (log 159, DESIGN CHOICE, unsafe). -/
def State.beginFetch (s : State) (k p : Nat) (l : SList) (f : BoxForm) (h : Nat) : State ⊕ (State × SList) :=
  match Tab.find (s.ctx l.ctx).tensors f.tid.toNat with
  | none => .inl (s.stopList k p l .tensorId (l.tray / 4 * 4))
  | some ws =>
    let t := tensorOf ws
    if !t.usable then .inl (s.stopList k p l .tensorId (l.tray / 4 * 4))
    else if l.slot.isNone ∨ s.trSize h < (boxOf f.box).bytes t.fmt then .inl (s.stopList k p l .trayState (l.tray / 4 * 4))
    else
      let r := if f.acq then s.engineAcquire k l.teamId f.scope.toNat l.vecs [l.rel] else (s, l.vecs)
      let l1 := { l with tensor := some ws, row := 0, vecs := r.2 }
      .inr (r.1.setList k l1, l1)

/-- One row of an `SFETCH`, and after the last its release and the fill (R243). -/
def State.fetchRow (s : State) (k p : Nat) (l : SList) (f : BoxForm) (h : Nat) : State :=
  let t := tensorOf (l.tensor.getD [])
  let b := boxOf f.box
  let ag := boxAgents s k l.ctx l.gang l.team f.scope.toNat l.vecs (f.acq || f.rel)
  let i := (l.slot.getD 0).toNat
  let row := (ag.1.readRow s t f.mirror b (l.origin f.quad) l.row).bind (fun r =>
    ag.2.slotPut r.2 (s.trLoc h) (s.slotAt h i) t.fmt b l.row r.1)
  match row with
  | .fault c a => s.stopList k p l c a
  | .wait _ => s
  | .ok s1 =>
    if l.row + 1 < b.rows then s1.setList k { l with row := l.row + 1 }
    else if s1.trState h i ≠ slotClaimed then s1.stopList k p l .trayState (l.tray / 4 * 4)
    else
      let s2 := if f.rel then (engineRelease s1 k l.teamId f.scope.toNat (engineVecs s1 k l.vecs)).1 else s1
      let r := engineRelease s2 k l.teamId f.scope.toNat (engineVecs s2 k l.vecs)
      (r.1.engineFill k l.ctx l.tray h i l.issuer l.srel r.2).endCommand k p { l with slot := none }

/-- `SFETCH` (R243). -/
def execSfetch (f : BoxForm) (s : State) : Host.Outcome State Fault Refusal :=
  listCommand (.sfetch f) s (fun k p l =>
    match s.engineTray k l.ctx l.gang l.team l.tray with
    | .fault c a => s.stopList k p l c a
    | .wait _ => s.served k p
    | .ok h =>
      if l.tensor.isSome then (s.fetchRow k p l f h).settleCheck
      else
        match s.beginFetch k p l f h with
        | .inl t => t
        | .inr (t, l1) => (t.fetchRow k p l1 f h).settleCheck)

/-- The consumed index of an `SSTORE` is released as `TRR` does, at the command's scope (R243, R373). -/
def State.endStore (s : State) (k p : Nat) (l : SList) (f : BoxForm) (h : Nat) : State :=
  let j := l.consume.toNat
  if !s.canRelease h j || s.egressOn h then s.stopList k p l .trayState (l.tray / 4 * 4)
  else if s.slotScopeLow (engineWalker s k l.ctx) h j f.scope.toNat then s.stopList k p l .scope (s.slotAt h j % 2 ^ 64)
  else
    let s1 := if f.rel then (engineRelease s k l.teamId f.scope.toNat (engineVecs s k l.vecs)).1 else s
    let r := engineRelease s1 k l.teamId f.scope.toNat (engineVecs s1 k l.vecs)
    let s2 := l.srel.foldl (fun s q => s.addRel (freeKey h j) q) (r.1.touchTray k l.ctx l.gang l.tray true)
    (s2.releaseSlot h j r.2).endCommand k p { l with consume := l.consume + 1 }

/-- One row of an `SSTORE` (R235, R243). -/
def State.storeRow (s : State) (k p : Nat) (l : SList) (f : BoxForm) (h : Nat) : State :=
  let t := tensorOf (l.tensor.getD [])
  let b := boxOf f.box
  let o := l.origin f.quad
  let ag := boxAgents s k l.ctx l.gang l.team f.scope.toNat l.vecs (f.acq || f.rel)
  let row := (ag.2.slotGet s (s.trLoc h) (s.slotAt h l.consume.toNat) t.fmt b l.row).bind (fun r =>
    (Acc.fold (fun (s : State) (e : Nat × Nat) => ag.1.putElement s t (b.coord o l.row e.1) e.2)
        ((List.range b.b0).zip r.1.1) r.2).bind (fun s1 =>
      Acc.fold (fun (s : State) (e : Nat × Nat) => ag.1.putScale s t (b.coord o l.row (32 * e.1)) e.2)
        ((List.range b.blocks).zip r.1.2) s1))
  match row with
  | .fault c a => s.stopList k p l c a
  | .wait _ => s
  | .ok s1 =>
    if l.row + 1 < b.rows then s1.setList k { l with row := l.row + 1 } else s1.endStore k p l f h

/-- `SSTORE`, which has read its tensor entry as it began (R208), goes on once its index is there: an acquire of the fill, and of the
issuer's release under the acquire bit (R183, R243). A scope too low for its slot parks it before it waits (R180). A VETOED slot is released
with nothing written. One that parks here begins anew when it is restarted (R244), and reports the place of the tray (log 159, DESIGN CHOICE, unsafe). -/
def State.beginStore (s : State) (k p : Nat) (l : SList) (f : BoxForm) (h : Nat) : State :=
  let j := l.consume.toNat
  let stop := fun (c : Cause) (a : Nat) => s.stopList k p { l with named := none } c a
  if !s.trBehind h j && s.slotScopeLow (engineWalker s k l.ctx) h j f.scope.toNat then stop .scope (s.slotAt h j % 2 ^ 64)
  else if !s.waitDone h j false then s.blockList k p l .consume
  else
    let code := s.waitCode h j
    let rs := (if code = 0 then [] else s.relsAt (fillKey h j)) ++ (if f.acq then [l.rel] else [])
    let r := (s.touchTray k l.ctx l.gang l.tray false).engineAcquire k l.teamId f.scope.toNat l.vecs rs
    let l1 := { l with vecs := r.2 }
    if code = slotVetoed then r.1.endStore k p l1 f h
    else if code ≠ slotFilled ∧ code ≠ slotOpen then stop .trayState (l.tray / 4 * 4)
    else
      match l.named with
      | none | some none => stop .tensorId (l.tray / 4 * 4)
      | some (some ws) =>
        let t := tensorOf ws
        if !t.usable then stop .tensorId (l.tray / 4 * 4)
        else if s.trSize h < (boxOf f.box).bytes t.fmt then stop .trayState (l.tray / 4 * 4)
        else
          let l2 := { l1 with tensor := some ws, row := 0 }
          (r.1.setList k l2).storeRow k p l2 f h

/-- `SSTORE` (R243). -/
def execSstore (f : BoxForm) (s : State) : Host.Outcome State Fault Refusal :=
  listCommand (.sstore f) s (fun k p l =>
    let l1 := { l with named := some (l.named.getD (Tab.find (s.ctx l.ctx).tensors f.tid.toNat)) }
    match s.engineTray k l.ctx l.gang l.team l.tray with
    | .fault c a => s.stopList k p l c a
    | .wait _ => (s.setList k l1).served k p
    | .ok h => (if l.tensor.isSome then s.storeRow k p l f h else s.beginStore k p l1 f h).settleCheck)

/-- The flags of a copy (R232). -/
def Copy.acq (c : Copy) : Bool := bit c.flags 16
def Copy.rels (c : Copy) : Bool := bit c.flags 17
def Copy.past (c : Copy) : Bool := bit c.flags 18
def Copy.toSlot (c : Copy) : Bool := bit c.flags 19

/-- The team of a copy, as releases name it. -/
def Copy.teamId (c : Copy) : Nat := teamKey c.gang c.team

/-- A copy stops at a fault (R244). -/
def State.stopCopy (s : State) (k p : Nat) (c : Copy) (cause : Cause) (a : Nat) : State := (s.parkCopy k c cause a).served k p

/-- The code that a copy writes for one that it read. The spec states no conversion between formats; where the elements
differ in width it states no value, and it is free (log 30, DESIGN CHOICE, safe). -/
def copyCode (s : State) (src dst v : Nat) : Nat :=
  if fmtBits src = fmtBits dst then v else Config.freeNat (s.freeCtr + v) % 2 ^ fmtBits dst

/-- Writes an element with its scale at a destination (R234). -/
def Agent.copyElem (ag : Agent) (s : State) (src dst : Tensor) (c : Coord) (e : Nat × Nat) : Acc State :=
  (ag.putElement s dst c (copyCode s src.fmt dst.fmt e.1)).bind (fun s1 =>
    if fmtScaled src.fmt && fmtScaled dst.fmt then ag.putScale s1 dst c e.2 else .ok s1)

/-- Writes row r of a box at a destination. -/
def Agent.copyRow (ag : Agent) (s : State) (src dst : Tensor) (b : Box) (o : Coord) (r : Nat) (es : List (Nat × Nat)) : Acc State :=
  Acc.fold (fun (s : State) (e : Nat × (Nat × Nat)) => ag.copyElem s src dst (b.coord o r e.1) e.2) ((List.range b.b0).zip es) s

/-- The version word of a destination (R236): its address, read as an atomic. -/
def Agent.version (ag : Agent) (s : State) (t : Tensor) : Acc (Nat × State) :=
  let base := if t.cls = 0 then t.sbase * 16 else t.base
  if base < 8 ∧ t.cls = 0 then .fault .spadBounds 0
  else
    let a := (base + 2 ^ 64 - 8) % 2 ^ 64
    (ag.look s (t.cls == 0) a 8 8 false .atomicRead).bind (fun g =>
      if s.poisoned g.loc 8 then .fault .poison a
      else .ok (natLE (Memory.load s.mem g.loc 8), ag.mark s a 8 g false .atomicRead))

/-- A copy ends, its elements written: its release, its status record where it has one, and the fill of its slot (R234, R237). -/
def State.endCopy (s : State) (k p : Nat) (c0 : Copy) (h status written version : Nat) : State :=
  let i := (c0.slot.getD 0).toNat
  let c := { c0 with compared := version, ended := some (status, written, version) }
  let s0 := if c0.ended.isSome then s else s.setCopy k c
  let s1 := if c.rels && c0.ended.isNone then (engineRelease s0 k c.teamId c.scope (engineVecs s0 k c.vecs)).1 else s0
  let ag := engineAgent s1 k c.ctx c.gang c.team c.vecs (some c.scope)
  let recorded := if c.toSlot then .ok s1
    else ag.writeRange s1 (s.trLoc h) (s.slotAt h i) ((statusRecord status written version).map (fun b _ => b))
  match recorded with
  | .fault cause a => s1.stopCopy k p c cause a
  | .wait _ => s1
  | .ok s2 =>
    if s2.trState h i ≠ slotClaimed then s2.stopCopy k p c .trayState (c.tray / 4 * 4)
    else
      let r := engineRelease s2 k c.teamId c.scope (engineVecs s2 k c.vecs)
      let s3 := r.1.engineFill k c.ctx c.tray h i c.issuer [] r.2
      (s3.setEngine k ((s3.engine k).dropCopy c)).countAt
        (s.ctx c.ctx).part none (gidCluster c.issuer) 12 1

/-- The commit of a versioned copy (R236): every write of the tile, or none. -/
def State.commitCopy (s : State) (k p : Nat) (c : Copy) (h : Nat) : State :=
  let ag := engineAgent s k c.ctx c.gang c.team c.vecs (if c.acq || c.rels then some c.scope else none)
  let dst := tensorOf c.dst
  let b := boxOf c.box
  let want := (c.dcoords.getD 2 0).toNat + 2 ^ 32 * (c.dcoords.getD 3 0).toNat
  match ag.version s dst with
  | .fault cause a => s.stopCopy k p c cause a
  | .wait _ => s
  | .ok (v, s1) =>
    if v ≠ want then s1.endCopy k p c h 1 0 v
    else
      let all := Acc.fold (fun (s : State) r =>
        ag.copyRow s (tensorOf c.src) dst b c.dest r ((c.held.drop (r * b.b0)).take b.b0)) (List.range b.rows) s1
      match all with
      | .fault cause a => s.stopCopy k p { c with compared := v } cause a
      | .wait _ => s
      | .ok s2 => s2.endCopy k p c h 0 (b.insideRows dst c.dest b.rows) v

/-- One row of a copy (R234), and its end after the last. -/
def State.copyStep (s : State) (k p : Nat) (c : Copy) (h : Nat) : State :=
  let flagged := c.acq || c.rels
  let ag := boxAgents s k c.ctx c.gang c.team c.scope c.vecs flagged
  let src := tensorOf c.src
  let dst := tensorOf c.dst
  let b := boxOf c.box
  let i := (c.slot.getD 0).toNat
  if c.ended.isSome then s.endCopy k p c h (c.ended.getD (0, 0, 0)).1 c.progress.1 c.progress.2
  else if !src.usable || (!c.toSlot && !dst.usable) then s.stopCopy k p c .tensorId (c.tray / 4 * 4)
  else if c.toSlot ∧ s.trSize h < b.bytes src.fmt then s.stopCopy k p c .trayState (c.tray / 4 * 4)
  else if b.rows ≤ c.row then
    if c.versioned then s.commitCopy k p c h else s.endCopy k p c h 0 (if c.toSlot then 0 else b.insideRows dst c.dest b.rows) 0
  else
    let row := (ag.1.readRow s src c.past b (coordOf c.coords) c.row).bind (fun r =>
      if c.versioned then .ok (r.2.setCopy k { c with row := c.row + 1, held := c.held ++ r.1 })
      else
        ((if c.toSlot then ag.2.slotPut r.2 (s.trLoc h) (s.slotAt h i) src.fmt b c.row r.1
          else ag.1.copyRow r.2 src dst b c.dest c.row r.1)).bind (fun s1 => .ok (s1.setCopy k { c with row := c.row + 1 })))
    match row with
    | .fault cause a => s.stopCopy k p c cause a
    | .wait _ => s
    | .ok s1 => s1

/-- A copy begins with its claim, at a scope that the slot admits, and its acquire before the first read (R167, R180, R195, R234). -/
def State.beginCopy (s : State) (k p : Nat) (c : Copy) (h : Nat) : State :=
  if !s.mayClaim h (s.ctx c.ctx).part then s.stopCopy k p c .trayState (c.tray / 4 * 4)
  else
    match s.claim h with
    | none => (s.setCopy k { c with wait := some .claim }).served k p
    | some (i, s1) =>
      if s.slotScopeLow (engineWalker s k c.ctx) h i c.scope then s.stopCopy k p c .scope (s.slotAt h i % 2 ^ 64)
      else
      let r := s1.engineAcquire k c.teamId c.scope c.vecs (s1.relsAt (roomKey h) ++ (if c.acq then [c.rel] else []))
      (r.1.touchTray k c.ctx c.gang c.tray true).setCopy k { c with slot := some (word i), begun := true, vecs := r.2 }

/-- `ENGINE_COPY`: an engine performs its copy, a row at a time (R234). -/
def execEngineCopy (k : Nat) (s : State) : Host.Outcome State Fault Refusal :=
  match s.job k with
  | some (p, .copy c) =>
    .next (match s.engineTray k c.ctx c.gang c.team c.tray with
      | .fault cause a => s.stopCopy k p c cause a
      | .wait _ => s.served k p
      | .ok h => (if c.begun then s.copyStep k p c h else s.beginCopy k p c h).settleCheck)
  | _ => .next s

/-- Whether what a list waits for has come (R240, R243). -/
def State.listReady (s : State) (k : Nat) (l : SList) : Bool :=
  match l.wait with
  | none => false
  | some .tail => decide (l.p < l.tail)
  | some w =>
    match s.engineTray k l.ctx l.gang l.team l.tray with
    | .ok h => if w = .claim then decide (sub32 (s.trClaimed h) (s.trReleased h) < s.trWindow h)
        else s.waitDone h l.consume.toNat false
    | _ => true

/-- `ENGINE_WAIT_END`: a list, by its serial number, or a copy that waits at a tail, a full window or a consume index goes on
(R174, R243). -/
def execEngineWaitEnd (k serial : Nat) (s : State) : Host.Outcome State Fault Refusal :=
  let e := s.engine k
  let go := fun (c : Copy) => c.wait.isSome &&
    (match s.engineTray k c.ctx c.gang c.team c.tray with
     | .ok h => decide (sub32 (s.trClaimed h) (s.trReleased h) < s.trWindow h)
     | _ => true)
  .next (s.setEngine k { e with
    lists := e.lists.map (fun l => if l.serial = serial ∧ s.listReady k l then { l with wait := none } else l)
    copies := e.copies.map (fun c => if c.serial = serial ∧ go c then { c with wait := none } else c) })

end Sys2Proof.Machine
end

