-- ==== Sys2Proof/Machine/Matrix.lean ====
section
/-! DEFINITION. The matrix engine: array shape and drain scale, the queue of the MCC with what each operation captures
(R250-R273), matrix arithmetic (R93), and the power controller's part in it (R254-R256, R382). -/
namespace Sys2Proof.Machine

/-- The matrix state of the MCC that issues. -/
def Ex.mcc (x : Ex) : Mcc := Tab.read x.s.mccs x.cluster (Mcc.start (x.s.liveBands x.cluster))

/-- The MCC with its matrix state changed. -/
def Ex.setMcc (x : Ex) (m : Mcc) : Ex := { x with s := { x.s with mccs := Tab.put x.s.mccs x.cluster m } }

/-- A mask holds only bands of another one. -/
def bandsIn (m live : Nat) : Bool := (m % 16) &&& live == m % 16

/-- `MSHAPE` (R264). -/
def execMshape (f : RForm) (s : State) : Host.Outcome State Fault Refusal :=
  issueEx (.mshape f) s (fun x =>
    let m := (x.rdU f.a).toNat
    if !x.go then .ok x
    else if 16 ≤ m ∨ m = 0 then .error (.of .matrixShape)
    else if !bandsIn m (x.s.liveBands x.cluster) then .error (.of .bandDown)
    else .ok (x.setMcc { x.mcc with mshp := m }))

/-- `MSCL` (R265). -/
def execMscl (f : RForm) (s : State) : Host.Outcome State Fault Refusal :=
  issueEx (.mscl f) s (fun x =>
    let w := x.rdU f.a
    if !x.go then .ok x
    else if 2 ^ 12 ≤ w.toNat ∨ 4 < field w.toNat 10 8 then .error (.of .matrixFormat)
    else .ok (x.setMcc { x.mcc with dscale := w }))

/-- The classes of R252. -/
inductive MatClass where
  | f16 | f8 | f4 | i8 | dy
deriving DecidableEq, Repr

/-- The class of a format code (R252). -/
def matClass (f : Nat) : Option MatClass :=
  match f with
  | 1 | 2 => some .f16
  | 3 | 4 | 13 | 14 => some .f8
  | 5 => some .f4
  | 7 | 8 => some .i8
  | 6 => some .dy
  | _ => none

/-- Twice the beat payload of a pairing of activation and weight formats; none where it is not admitted (R252). -/
def payload2 (a w : Nat) : Option Nat :=
  match matClass a, matClass w with
  | some .f16, some .i8 => none
  | some .f16, some _ => some 1
  | some .f8, some .f16 => some 1
  | some .f8, some .f8 => some 2
  | some .f8, some .f4 => some 2
  | some .f8, some .dy => some 4
  | some .f4, some .f16 => some 1
  | some .f4, some .f8 => some 2
  | some .f4, some .f4 => some 4
  | some .f4, some .dy => some 4
  | some .i8, some .i8 => some 2
  | some .i8, some .dy => some 4
  | _, _ => none

/-- The plane in use, and the other one. -/
def Mcc.plane (m : Mcc) : Plane := if m.active = 0 then m.plane0 else m.plane1
def Mcc.shadow (m : Mcc) : Plane := if m.active = 0 then m.plane1 else m.plane0
def Mcc.setShadow (m : Mcc) (p : Plane) : Mcc := if m.active = 0 then { m with plane1 := p } else { m with plane0 := p }

/-- The format that the active plane will hold when an operation issued now starts (R267): active and shadow formats after
the operations still outstanding. -/
def Mcc.tracked (m : Mcc) : Option Nat :=
  (m.queue.foldl (fun (t : Option Nat × Option Nat) q =>
    if q.kind = 1 then (t.1, some (tensorOf q.tensor).fmt)
    else if q.kind = 5 ∧ !q.started then (t.2, t.1)
    else t) (m.plane.fmt, m.shadow.fmt)).1

/-- An operation with nothing captured yet. -/
def QOp.base (kind tile : Nat) : QOp :=
  { kind := kind, tile := tile, mask := 0, scale := 0, scope := 0, tensor := [], tid := 0, run := [], count := 0, first := 0,
    tray := none, rps := 1, site := 0, vecs := .zero, epoch := 0, kcount := 0, started := false, cursor := 0, second := false,
    index := none, owed := 0, tail := 0, seq := 0, waited := 0, waiting := false }

/-- A queued operation issues (R257): it captures what it needs and enters the queue, or waits for a place. What the MCC
accessed before is performed before it (R261). -/
def Ex.enqueue (x : Ex) (q : QOp) : State :=
  let m := x.mcc
  if 8 ≤ m.queue.length then (x.waitFor .place).save
  else
    let y : Ex := { x with s := x.s.beforeRelease x.gid 1 }
    let q1 := { q with mask := m.mshp, scale := m.dscale, scope := x.scope, site := x.sp.pc, vecs := x.given,
                       epoch := y.s.epochOf x.gid, kcount := (y.s.cluster x.cluster).kcount, seq := m.issued + 1 }
    ((y.setMcc { m with queue := m.queue ++ [q1], issued := m.issued + 1 }).doneWaiting.next).save

/-- A tensor that a matrix instruction names: valid and of class 1 (R263). -/
def Ex.matTensor (x : Ex) (tid : Nat) : Option (List Word) :=
  match Tab.find x.ctx.tensors tid with
  | some ws => if (tensorOf ws).cls = 1 then some ws else none
  | none => none

/-- The format of a tensor-table entry is block-scaled, where the entry is valid. -/
def Ex.tidScaled (x : Ex) (tid : Nat) : Bool :=
  match Tab.find x.ctx.tensors tid with
  | some ws => fmtScaled (tensorOf ws).fmt
  | none => false

/-- `MWL` at issue (R266). -/
def Ex.mwl (x : Ex) (r : List Word) : Except Trap State :=
  let w := (r.getD 0 0).toNat
  let tid := field w 7 0
  if w / 2 ^ 9 ≠ 0 ∨ (x.tidScaled tid ∧ (r.getD 1 0).toInt % 32 ≠ 0) then .error (.of .matrixShape)
  else
    match x.matTensor tid with
    | none => .error (.of .tensorId)
    | some ws =>
      if (matClass (tensorOf ws).fmt).isNone then .error (.of .matrixFormat)
      else .ok (x.enqueue { QOp.base 1 0 with tensor := ws, tid := tid, run := r, count := 256 })

/-- `MWL` (R266). -/
def execMwl (f : RForm) (s : State) : Host.Outcome State Fault Refusal :=
  issueWith (.mwl f) s (fun x => if x.go then x.mwl (x.run4 f.a) else .ok x.next.save)

/-- `MSWAP` (R267): its limit counts from its issue. -/
def execMswap (f : RForm) (s : State) : Host.Outcome State Fault Refusal :=
  issueWith (.mswap f) s (fun x =>
    .ok (if x.go then x.enqueue { QOp.base 5 0 with waiting := true } else x.next.save))

/-- The tray word of a run of four. -/
def runTray (r : List Word) : Nat := (r.getD 2 0).toNat + 2 ^ 32 * (r.getD 3 0).toNat

/-- The reserved bits and shapes that `MSTR` and `MDRN` refuse (R268, R269). -/
def shapeBad (drain : Bool) (r : List Word) (b : Nat) (scaled : Bool) : Bool :=
  let w := (r.getD 0 0).toNat
  let x := r.getD 1 0
  let tray := bit w 8
  let count := field b 6 0 + 1
  b / 2 ^ 15 != 0 || bit b 7 || w / 2 ^ (if drain then 9 else 10) != 0
    || (tray && (x.toNat / 2 ^ 8 != 0 || count % (field x.toNat 7 0 + 1) != 0))
    || (!drain && tray && bit w 9) || (!drain && !tray && scaled && x.toInt % 32 != 0)

/-- The formats that `MDRN` writes (R269). -/
def drainFormat (f : Nat) : Bool := decide (f ≤ 4) || (decide (7 ≤ f) && decide (f ≤ 12))

/-- `MSTR` and `MDRN` at issue: the checks in the order of R263. -/
def Ex.stream (x : Ex) (drain : Bool) (tile : Nat) (r : List Word) (b : Nat) : Except Trap State :=
  let w := (r.getD 0 0).toNat
  let tid := field w 7 0
  let tray := bit w 8
  let m := x.mcc
  if shapeBad drain r b (x.tidScaled tid) then .error (.of .matrixShape)
  else if 128 < field b 14 8 + (field b 6 0 + 1) then .error (.of .accTile)
  else
    match x.matTensor tid with
    | none => .error (.of .tensorId)
    | some ws =>
      let f := (tensorOf ws).fmt
      let okFmt := if drain then drainFormat f
        else match m.tracked with | some wf => (payload2 f wf).isSome && f != 6 | none => false
      if !okFmt then .error (.of .matrixFormat)
      else if !drain && !bandsIn m.mshp (x.s.liveBands x.cluster) then .error (.of .bandDown)
      else
        match (if tray then x.wordFault (runTray r) 64 64 else none) with
        | some (c, a) => .error (.at c a)
        | none =>
          .ok (x.enqueue { QOp.base (if drain then 3 else 2) tile with
            tensor := ws, tid := tid, run := r, count := field b 6 0 + 1, first := field b 14 8,
            tray := if tray then some (runTray r) else none,
            rps := if tray then field (r.getD 1 0).toNat 7 0 + 1 else 1 })

/-- The tile number of a `d` field (R263). -/
def tileOf (o : Operand) : Nat := o.toNat % 8

/-- `MSTR` (R268). -/
def execMstr (f : RForm) (s : State) : Host.Outcome State Fault Refusal :=
  issueWith (.mstr f) s (fun x =>
    if x.go then x.stream false (tileOf f.d) (x.run4 f.a) (x.rdU f.b).toNat else .ok x.next.save)

/-- `MDRN` (R269). -/
def execMdrn (f : RForm) (s : State) : Host.Outcome State Fault Refusal :=
  issueWith (.mdrn f) s (fun x =>
    if x.go then x.stream true (tileOf f.d) (x.run4 f.a) (x.rdU f.b).toNat else .ok x.next.save)

/-- `MCLR` (R270). -/
def execMclr (f : RForm) (s : State) : Host.Outcome State Fault Refusal :=
  issueWith (.mclr f) s (fun x =>
    if !x.go then .ok x.next.save
    else if !bandsIn x.mcc.mshp (x.s.liveBands x.cluster) then .error (.of .bandDown)
    else .ok (x.enqueue { QOp.base 4 (tileOf f.d) with count := 128 }))

/-- Some operation that `MWAIT` of `n` waits for is outstanding (R271). -/
def Mcc.awaits (m : Mcc) (n : Nat) : Bool := decide (n < 8) && m.queue.any (fun q => decide (q.seq + n ≤ m.issued))

/-- The MCC's vectors with what completed operations acquired (R261). -/
def Ex.takeLanded (x : Ex) : Ex :=
  let m := x.mcc
  let v := x.given
  let y := x.setMcc { m with landed := .zero }
  { y with g := { y.g with vecs := { v with l := mergeTab v.l m.landed.l, x := mergeTab v.x m.landed.x, e := mergeTab v.e m.landed.e } } }

/-- `MWAIT` (R271). -/
def execMwait (f : RForm) (s : State) : Host.Outcome State Fault Refusal :=
  issueWith (.mwait f) s (fun x =>
    let n := (x.rdU f.a).toNat
    if !x.go then .ok x.next.save
    else if x.mcc.awaits n then .ok (x.waitFor (.mwait n)).save
    else .ok x.takeLanded.doneWaiting.next.save)

/-- The conflicts of R258: `q` waits for the earlier operation `e`. -/
def QOp.conflicts (q e : QOp) : Bool :=
  let same := q.tile == e.tile
  if e.kind = 5 then true
  else
    match q.kind with
    | 1 => e.kind == 1
    | 2 => same && (e.kind == 3 || e.kind == 4)
    | 3 => e.kind == 3 || (same && (e.kind == 2 || e.kind == 4))
    | 4 => same && (e.kind == 2 || e.kind == 3 || e.kind == 4)
    | _ => true

/-- The array's input is free for an `MSTR`: every earlier one has streamed all its rows (R258). -/
def Mcc.inputFree (m : Mcc) (i : Nat) (q : QOp) : Bool := q.kind != 2 || (m.queue.take i).all (fun e => e.kind != 2 || e.streamed)

/-- Operation `i` may start (R258, R259). An `MSTR` starts when the array's input is free, since it takes its tray's index then. -/
def Mcc.canStart (m : Mcc) (i : Nat) (q : QOp) : Bool :=
  !q.started && m.qf.isNone && m.inputFree i q && (m.queue.take i).all (fun e => e.started && !q.conflicts e)

/-- An element's value with its block scale (R82, R85). -/
def matValue (f code scale : Nat) : Num :=
  let v := match f with
    | 0 => Fmt.f32.decode code
    | 1 => Fmt.bf16.decode code
    | 2 => Fmt.f16.decode code
    | 3 | 13 => Fmt.e4m3.decode code
    | 4 | 14 => Fmt.e5m2.decode code
    | 5 => Fmt.e2m1.decode code
    | 6 => dyadDecode code
    | 7 => (Ety.int 8 true).decode code
    | 8 => (Ety.int 8 false).decode code
    | 9 => (Ety.int 16 true).decode code
    | 10 => (Ety.int 16 false).decode code
    | 11 => (Ety.int 32 true).decode code
    | _ => (Ety.int 32 false).decode code
  if fmtScaled f then
    match e8m0 scale, v with
    | none, _ => .nan false
    | some e, .fin n m x => .fin n m (x + e)
    | some _, v => v
  else v

/-- The exact sum of the products of one group of 32 (R93). -/
def groupSum (a w : Nat → Num) (g : Nat) : Num :=
  (List.range 32).foldl (fun acc j => (Num.add 0 acc (Num.mul (a (32 * g + j)) (w (32 * g + j))).1).1) (.fin false 0 0)

/-- The binary32 that a group sum rounds to; an exact zero is +0 (R93). -/
def roundSum (n : Num) : Nat := if n.isZero then 0 else (Fmt.f32.encode .rne n).1

/-- An accumulator element after one row has streamed past it: eight groups in ascending order (R93). -/
def accumulate (a w : Nat → Num) (acc : Word) : Word :=
  word ((List.range 8).foldl (fun v g =>
    (Fmt.f32.encode .rne (Num.add 0 (Fmt.f32.decode v) (Fmt.f32.decode (roundSum (groupSum a w g)))).1).1) acc.toNat)

/-- The value of a weight (R250). -/
def Plane.value (p : Plane) (n k : Nat) : Num :=
  matValue (p.fmt.getD 0) (Tab.read p.w (512 * k + n) 0) (Tab.read p.sc (512 * (k / 32) + n) 0x7F)

/-- The key of an accumulator element. -/
def accKey (tile row n : Nat) : Nat := 65536 * tile + 512 * row + n

/-- One activation row accumulated into the selected columns of a tile's row, each element with its own scale (R93, R251, log 155, DESIGN CHOICE, unsafe). -/
def Mcc.streamRow (m : Mcc) (q : QOp) (f : Nat) (es : List (Nat × Nat)) : Mcc :=
  let a := fun (k : Nat) => let e := es.getD k (0, 0x7F); matValue f e.1 e.2
  let cols := (List.range 512).filter (fun n => bit q.mask (n / 128))
  { m with acc := cols.foldl (fun (t : Tab Word) n =>
      let k := accKey q.tile (q.first + q.cursor) n
      Tab.put t k (accumulate a (m.plane.value n) (Tab.read t k 0))) m.acc }

/-- An accumulator element as `MDRN` converts it (R92, R269). -/
def drainValue (f : Nat) (scale v : Word) : Nat :=
  let e : Int := (field scale.toNat 7 0 : Nat) - 127
  let x := match Fmt.f32.decode v.toNat with
    | .fin n m x => .fin n m (x + e)
    | y => y
  let r : Rnd := ⟨field scale.toNat 10 8, bit scale.toNat 11, 0⟩
  match f with
  | 0 => (Fmt.f32.encode r x).1
  | 1 => (Fmt.bf16.encode r x).1
  | 2 => (Fmt.f16.encode r x).1
  | 3 => (Fmt.e4m3.encode r x).1
  | 4 => (Fmt.e5m2.encode r x).1
  | 7 => (floatToInt r 8 true x).1
  | 8 => (floatToInt r 8 false x).1
  | 9 => (floatToInt r 16 true x).1
  | 10 => (floatToInt r 16 false x).1
  | 11 => (floatToInt r 32 true x).1
  | _ => (floatToInt r 32 false x).1

/-- The context of a cluster's MCC. -/
def State.mccCtx (s : State) (c : Nat) : Nat :=
  match s.group (gidOf c 64) with
  | some g => s.ctxOf g
  | none => 0

/-- The team by which releases name a cluster's MCC. -/
def State.mccTeam (s : State) (c : Nat) : Nat :=
  match s.group (gidOf c 64) with
  | some g => teamKey g.gang 255
  | none => teamKey 0 255

/-- A queued operation as an agent: the MCC, with what it captured (R261). -/
def queueAgent (s : State) (c : Nat) (q : QOp) (scope : Option Nat) : Agent :=
  let w := queueWalker s c (s.mccCtx c)
  { w := w, al := none, scope := scope,
    who := { part := w.part, home := c, slot := some 64, vecs := { q.vecs with home := c },
             stamp := .core w.part c 64 q.epoch q.kcount } }

/-- The origin of a tensor operation (R266). -/
def QOp.origin (q : QOp) : Coord :=
  let zw := (q.run.getD 3 0).toNat
  ⟨(q.run.getD 1 0).toInt, (q.run.getD 2 0).toInt, signed 16 zw, signed 16 (zw / 2 ^ 16)⟩

/-- The queue of a cluster's MCC with operation `i` changed. -/
def State.setOp (s : State) (c i : Nat) (q : QOp) : State :=
  { s with mccs := Tab.upd s.mccs c (fun m => { m with queue := (m.queue.take i) ++ q :: m.queue.drop (i + 1) }) }

/-- What the attempt at one row comes to: its cause and address, where it faults. -/
inductive RowEnd where
  | ok (q : QOp) (s : State)
  /-- it waits for a slot -/
  | wait (s : State)
  /-- it waits for a page or a peer (R152, R377) -/
  | stall (s : State)
  /-- it faults in the state given -/
  | fault (c : Cause) (addr : Option Nat) (q : QOp) (s : State)
deriving DecidableEq, Repr

/-- A memory access of a row, and what follows it. -/
def Acc.row {α : Type} (a : Acc α) (q : QOp) (s : State) (f : α → RowEnd) : RowEnd :=
  match a with
  | .ok x => f x
  | .fault c n => .fault c (if c = .trayState then none else some n) q s
  | .wait _ => .stall s

/-- The gang that an MCC serves. -/
def State.gangAtMcc (s : State) (c : Nat) : Nat := match s.group (gidOf c 64) with | some g => g.gang | none => 0

/-- The entries of a tray header's page that an operation of the queue on the tray uses are marked and cached, and its gang is a user of
the tray (R150, R154, R358). -/
def State.touchQueueTray (s : State) (c w : Nat) (write : Bool) : State :=
  let k := queueWalker s c (s.mccCtx c)
  match s.translate k .object (w / 4 * 4) 4 with
  | .ok t => (s.touchWalk k (w / 4 * 4) t write).useObject (s.gangAtMcc c) t.loc
  | _ => s

/-- The tray of an operation (R173, R221). -/
def State.queueTray (s : State) (c w : Nat) : Acc Nat :=
  let k := queueWalker s c (s.mccCtx c)
  match s.object k none w 64 64 false with
  | .at h => if s.trayOk h k.part then .ok h else .fault .trayState 0
  | .fault x a => .fault x a
  | .wait x => .wait x

/-- One K-row of an `MWL` (R266): 512 weights, and their scales, of which those of a group's last row stay (log 154, DESIGN CHOICE, unsafe). -/
def State.loadRow (s : State) (c : Nat) (q : QOp) : RowEnd :=
  let t := tensorOf q.tensor
  let ag := queueAgent s c q none
  let o := q.origin
  let k := q.cursor
  let row := Acc.fold (fun (r : List (Nat × Nat) × State) n =>
    (ag.element r.2 t (bit (q.run.getD 0 0).toNat 8) ⟨o.x + k, o.y + (n : Nat), o.z, o.w⟩).bind (fun e => .ok (r.1 ++ [e.1], e.2)))
    (List.range 512) ([], s)
  row.row q s (fun r =>
    let put := fun (m : Mcc) =>
      let p := m.shadow
      let es : List (Nat × Nat × Nat) := (List.range 512).zip r.1
      let plane := 1 - m.active
      let whole := m.bad.filter (fun b => match b with | .weight p a => p != plane || a / 512 != k | .acc _ => true)
      Mcc.setShadow { m with bad := whole }
                  { fmt := if k = 255 then some t.fmt else p.fmt
                    w := es.foldl (fun w e => Tab.put w (512 * k + e.1) e.2.1) p.w
                    sc := if fmtScaled t.fmt then es.foldl (fun w e => Tab.put w (512 * (k / 32) + e.1) e.2.2) p.sc else p.sc }
    .ok { q with cursor := k + 1 } { r.2 with mccs := Tab.upd r.2.mccs c put })

/-- A row of an `MSTR` or `MCLR` has been passed: the next one, or the second pass of narrowed mode, or, of an `MSTR`, the way to the end of
the array (R254, R256). -/
def QOp.landRow (q : QOp) (narrow : Bool) : QOp :=
  let owe := !q.second && narrow && q.mask % 4 != 0 && q.mask / 4 % 4 != 0
  let q1 := { q with cursor := q.cursor + 1, owed := q.owed + b2n owe }
  if q1.cursor < q.count then q1
  else if q1.owed ≠ 0 then { q1 with second := true, cursor := q.count - q1.owed, owed := 0 }
  else { q1 with tail := if q.kind = 2 then 264 else 0 }

/-- The elements of a row of a tray slot, with the scale of each (R235). -/
def slotElems (r : List Nat × List Nat) : List (Nat × Nat) :=
  ((List.range r.1.length).zip r.1).map (fun e => (e.2, r.2.getD (e.1 / 32) 0x7F))

/-- One row of an `MSTR` from a tray (R268): the wait for its slot, the row, and the release after the slot's last. -/
def State.streamSlot (s : State) (c : Nat) (q : QOp) (w : Nat) : RowEnd :=
  let f := (tensorOf q.tensor).fmt
  let b : Box := ⟨256, q.rps, 1, 1⟩
  (s.queueTray c w).row q s (fun h =>
    let j := match q.index with | some i => i.toNat | none => s.trReleased h
    let off := q.cursor % q.rps
    if s.trHold h || decide (s.trSize h < b.bytes f) then .fault .trayState none q s
    else if off = 0 ∧ !s.trBehind h j ∧ s.slotScopeLow (queueWalker s c (s.mccCtx c)) h j q.scope then .fault .scope (some (s.slotAt h j % 2 ^ 64)) q s
    else if off = 0 ∧ !s.waitDone h j false then .wait s
    else
      let q0 := { q with index := some (word j) }
      let q1 := if off = 0 ∧ s.waitCode h j ≠ 0 then
          { q0 with vecs := acquireAll { q.vecs with home := c } (.core (gidOf c 64)) (s.mccTeam c) q.scope (s.relsAt (fillKey h j)) }
        else q0
      let s := if off = 0 then s.touchQueueTray c w false else s
      ((queueAgent s c q1 (some q1.scope)).slotGet s (s.trLoc h) (s.slotAt h j) f b off).row q s (fun r =>
        let s1 := { r.2 with mccs := Tab.upd r.2.mccs c (fun m => m.streamRow q1 f (slotElems r.1)) }
        if off + 1 < q.rps then .ok (q1.landRow (s.cluster c).narrow) s1
        else if !s1.canRelease h j then .fault .trayState none q s
        else
          let rl := releaseBy (s1.beforeRelease (gidOf c 64) q.scope) (gidOf c 64) (s.mccTeam c) q.scope q1.vecs
          .ok { q1.landRow (s.cluster c).narrow with index := some (word (j + 1)) } ((rl.1.touchQueueTray c w true).releaseSlot h j rl.2)))

/-- One row of an `MSTR` from a tensor (R268). -/
def State.streamTensor (s : State) (c : Nat) (q : QOp) : RowEnd :=
  let t := tensorOf q.tensor
  let o := q.origin
  ((queueAgent s c q none).readRow s t (bit (q.run.getD 0 0).toNat 9) ⟨256, 1, 1, 1⟩ ⟨o.x, o.y + (q.cursor : Nat), o.z, o.w⟩ 0).row q s
    (fun r => .ok (q.landRow (s.cluster c).narrow)
      { r.2 with mccs := Tab.upd r.2.mccs c (fun m => m.streamRow q t.fmt r.1) })

/-- One row of an `MSTR`. Its selected columns are all computed as it enters; a second pass of narrowed mode brings nothing but
its count of rows, since no column is read before the operation completes (R256, R258). -/
def State.streamOne (s : State) (c : Nat) (q : QOp) : RowEnd :=
  if q.second then .ok (q.landRow (s.cluster c).narrow) s
  else
    match q.tray with
    | some w => s.streamSlot c q w
    | none => s.streamTensor c q

/-- The converted row of a tile (R269). -/
def Mcc.drained (m : Mcc) (q : QOp) (f : Nat) : List Nat :=
  (List.range 512).map (fun n => drainValue f q.scale (Tab.read m.acc (accKey q.tile (q.first + q.cursor) n) 0))

/-- One row of an `MDRN` into a tray (R269): the claim of a slot, the row, and the fill after the slot's last. -/
def State.drainSlot (s : State) (c : Nat) (q : QOp) (w : Nat) (codes : List Nat) : RowEnd :=
  let f := (tensorOf q.tensor).fmt
  let b : Box := ⟨512, q.rps, 1, 1⟩
  let gid := gidOf c 64
  let off := q.cursor % q.rps
  (s.queueTray c w).row q s (fun h =>
    let go := fun (q : QOp) (s : State) (i : Word) =>
      if s.trSize h < b.bytes f then RowEnd.fault .trayState none q s
      else
        ((queueAgent s c q (some q.scope)).slotPut s (s.trLoc h) (s.slotAt h i.toNat) f b off (codes.map (fun v => (v, 0)))).row q s
          (fun s1 =>
            let q1 := { q with cursor := q.cursor + 1 }
            if off + 1 < q.rps then .ok q1 s1
            else if s1.trState h i.toNat ≠ slotClaimed then .fault .trayState none q s
            else
              let r := releaseBy (s1.beforeRelease gid q.scope) gid (s.mccTeam c) q.scope q.vecs
              .ok { q1 with index := none } ((r.1.touchQueueTray c w true).fillSlot h i.toNat c r.2))
    match q.index with
    | some i => go q s i
    | none =>
      if !s.mayClaim h (queueWalker s c (s.mccCtx c)).part then .fault .trayState none q s
      else
        match s.claim h with
        | none => .wait s
        | some (i, s1) =>
          if s.slotScopeLow (queueWalker s c (s.mccCtx c)) h i q.scope then .fault .scope (some (s.slotAt h i % 2 ^ 64)) q s
          else
          let v := acquireAll { q.vecs with home := c } (.core gid) (s.mccTeam c) q.scope (s1.relsAt (roomKey h))
          let q1 := { q with index := some (word i), vecs := v }
          go q1 (s1.touchQueueTray c w true) (word i))

/-- One row of an `MDRN` into a tensor (R164, R269). -/
def State.drainTensor (s : State) (c : Nat) (q : QOp) (codes : List Nat) : RowEnd :=
  let t := tensorOf q.tensor
  let o := q.origin
  let ag := queueAgent s c q none
  (Acc.fold (fun (s : State) (e : Nat × Nat) => ag.putElement s t ⟨o.x + (e.1 : Nat), o.y + (q.cursor : Nat), o.z, o.w⟩ e.2)
    ((List.range 512).zip codes) s).row q s (fun s1 => .ok { q with cursor := q.cursor + 1 } s1)

/-- One row of an `MDRN`. -/
def State.drainOne (s : State) (c : Nat) (q : QOp) : RowEnd :=
  let m := Tab.read s.mccs c (Mcc.start 15)
  let codes := m.drained q (tensorOf q.tensor).fmt
  match q.tray with
  | some w => s.drainSlot c q w codes
  | none => s.drainTensor c q codes

/-- The elements that a row of an operation reads in the matrix engine: the weights and the accumulator row of an `MSTR`'s selected
columns, and the accumulator row of an `MDRN`. -/
def QOp.meets (q : QOp) (active : Nat) (b : MatrixCell) : Bool :=
  let here := fun (a : Nat) => a / 512 == 128 * q.tile + q.first + q.cursor
  match q.kind, b with
  | 2, .weight p a => p == active && bit q.mask (a % 512 / 128) && !q.second
  | 2, .acc a => here a && bit q.mask (a % 512 / 128) && !q.second
  | 3, .acc a => here a
  | _, _ => false

/-- A row of an operation meets an uncorrectable element (R350). -/
def State.badRow (s : State) (c : Nat) (q : QOp) : Bool :=
  match Tab.find s.mccs c with
  | some m => m.bad.any (q.meets m.active)
  | none => false

/-- One row of a queued operation that has started. An `MCLR`, like an `MSTR`, changes all its columns in the first pass of a row, and a second
pass of narrowed mode brings its count of rows alone (R256, R258, log 70, DEDUCED, unsafe). -/
def State.rowOf (s : State) (c : Nat) (q : QOp) : RowEnd :=
  if s.badRow c q then .fault .poison none q s
  else
  match q.kind with
  | 1 => s.loadRow c q
  | 2 => s.streamOne c q
  | 3 => s.drainOne c q
  | 4 => .ok (q.landRow (s.cluster c).narrow)
      (if q.second then s else { s with mccs := Tab.upd s.mccs c (fun m => m.clearRow q.tile q.mask q.cursor) })
  | _ => .ok q s

/-- The MCC takes a pending queue fault at once where it waits in `MWAIT` or on a full queue (R259). -/
def State.wakeFault (s : State) (c : Nat) (t : Trap) : State :=
  let gid := gidOf c 64
  match s.group gid with
  | none => s
  | some g =>
    match g.splits.find? (fun p => match p.wait with | some (.mwait _) => true | some .place => true | _ => false) with
    | some p => if g.run = .running then (Ex.markFault ⟨s, gid, g, { p with wait := none }, none⟩).takeTrap t else s
    | none => s

/-- A queue fault (R259): the first stands, no operation starts from then on, and a `LIMIT_WAIT` voids the quote. One that
comes after the MCC has ended abandons the queue (R260). -/
def State.raiseFault (s : State) (c i : Nat) (cause : Cause) (addr : Option Nat) : State :=
  match Tab.find s.mccs c, s.group (gidOf c 64) with
  | some m, some g =>
    if m.qf.isSome then s
    else
      let grid := (s.gang g.gang).grid
      let s := s.cacheWalks (queueWalker s c (s.mccCtx c)) addr.toList
      let s0 := if cause = .limitWait then s.voidQuote grid blameCaller 0 cause false false else s
      let m1 := { m with qf := some (cause, addr, i), qfTaken := false }
      let s1 := { s0 with mccs := Tab.put s0.mccs c m1 }
      if g.run = .ended then (s1.setGrid grid ((s1.grid grid).note 3 cause)).abandonQueue c g.gang (s1.grid grid).ctx m1
      else (s1.wakeFault c { Trap.of cause with addr := addr }).settleCheck
  | _, _ => s

/-- The beats that begin with a row of an `MSTR`: two, one, or one for each two rows that are left, by the beat payload (R252, R254,
R361). -/
def State.countBeats (s : State) (c : Nat) (q : QOp) : State :=
  match Tab.find s.mccs c, s.group (gidOf c 64) with
  | some m, some g =>
    let p := (if m.active = 0 then m.plane0 else m.plane1).fmt.bind (fun f => payload2 (tensorOf q.tensor).fmt f)
    let n := match p with
      | some 1 => 2
      | some 4 => (q.count - q.cursor) % 2
      | _ => 1
    if q.kind = 2 then s.count (s.ctx (s.ctxOf g)).part (gidOf c 64) 11 n else s
  | _, _ => s

/-- Up to `n` rows of an operation in progress: each comes from the state that the one before it left. -/
def State.runOp (s : State) (c i : Nat) : Nat → State
  | 0 => s
  | n + 1 =>
    match Tab.find s.mccs c with
    | none => s
    | some m =>
      match m.queue[i]? with
      | none => s
      | some q =>
        let faulted := match m.qf with | some (_, _, p) => p == i | none => false
        if !q.started || q.streamed || q.tail != 0 || faulted || !m.inputFree i q then s
        else
          match s.rowOf c q with
          | .ok q1 s1 => ((s1.countBeats c q).setOp c i { q1 with waiting := false }).runOp c i n
          | .wait s1 => s1.setOp c i { q with waiting := true }
          | .stall s1 => s1.setOp c i { q with waiting := false }
          | .fault cause a q1 s1 => (s1.setOp c i q1).raiseFault c i cause a

/-- An `MSTR` or `MCLR` wakes the bands that it uses, and its first beat waits for them (R255). -/
def State.wakeBands (s : State) (c : Nat) (q : QOp) : State × QOp :=
  if q.kind = 2 ∨ q.kind = 4 then
    let cl := s.cluster c
    let need := bandsUsed cl.narrow q.mask
    (s.setCluster c { cl with awake := cl.awake ||| need }, { q with tail := if bandsIn need cl.awake then 0 else 96 })
  else (s, q)

/-- An operation starts (R258): an `MSWAP` exchanges the planes (R267), and an `MSTR` from a tray takes the index that is
released then (R268). -/
def State.startOp (s : State) (c i : Nat) (q : QOp) : State :=
  let r := s.wakeBands c q
  let q1 := { r.2 with started := true }
  let s1 := r.1
  match q.kind, q.tray with
  | 5, _ => ({ s1 with mccs := Tab.upd s1.mccs c (fun m => { m with active := 1 - m.active }) }).setOp c i q1
  | 2, some w =>
    match s1.queueTray c w with
    | .ok h => s1.setOp c i { q1 with index := some (word (s1.trReleased h)) }
    | .fault cause a => (s1.setOp c i q1).raiseFault c i cause (if cause = .trayState then none else some a)
    | .wait _ => s
  | _, _ => s1.setOp c i q1

/-- `QUEUE_START`: an operation starts, once it may, and brings in up to `rows` rows; one in progress goes on (R258). -/
def execQueueStart (c i rows : Nat) (s : State) : Host.Outcome State Fault Refusal :=
  match Tab.find s.mccs c with
  | none => .next s
  | some m =>
    match m.queue[i]? with
    | none => .next s
    | some q =>
      if q.started then .next (s.runOp c i rows)
      else if m.canStart i q then .next ((s.startOp c i q).runOp c i rows)
      else .next s

/-- The larger of two parties' vectors, entry by entry. -/
def Vecs.join (v w : Vecs) : Vecs := { v with l := mergeTab v.l w.l, x := mergeTab v.x w.x, e := mergeTab v.e w.e }

/-- `QUEUE_COMPLETE`: an operation whose rows have all landed or been written leaves the queue (R254, R257). -/
def execQueueComplete (c i : Nat) (s : State) : Host.Outcome State Fault Refusal :=
  match Tab.find s.mccs c with
  | none => .next s
  | some m =>
    match m.queue[i]? with
    | none => .next s
    | some q =>
      if q.started && q.streamed && q.tail == 0 then
        let m1 := { m.without (fun e => e == q) with landed := m.landed.join q.vecs }
        .next (({ s with mccs := Tab.put s.mccs c m1 }).restBands c (s.busyBands c))
      else .next s

/-- `QUEUE_FAULT`: the next row of a running operation faults (R259); a row that does not fault is not brought in. -/
def execQueueFault (c i : Nat) (s : State) : Host.Outcome State Fault Refusal :=
  match Tab.find s.mccs c with
  | none => .next s
  | some m =>
    match m.queue[i]? with
    | none => .next s
    | some q =>
      if q.started && !q.streamed && q.tail == 0 && m.inputFree i q && m.qf.isNone then
        match s.rowOf c q with
        | .fault cause a q1 s1 => .next ((s1.setOp c i q1).raiseFault c i cause a)
        | _ => .next s
      else .next s

/-- `BAND_GATE`: a band that has been idle for longer than its timeout is gated; a timeout of 0 gates none (R20, R255). -/
def execBandGate (c band : Nat) (s : State) : Host.Outcome State Fault Refusal :=
  let cl := s.cluster c
  let busy := match Tab.find s.mccs c with | some m => m.busy cl.narrow band | none => false
  let lim := Tab.read cl.idleLimit band 4096
  if band < 4 ∧ !busy ∧ lim ≠ 0 ∧ lim < Tab.read cl.idle band 0 then
    .next (s.setCluster c { cl with awake := cl.awake - cl.awake / 2 ^ band % 2 * 2 ^ band })
  else .next s

/-- `CADENCE_CHANGE`: the power controller writes `MCAD`, between 1 and 16 and never above the ceiling of a reservation that holds the
cluster (R11, R254, R311). -/
def execCadenceChange (c cad : Nat) (s : State) : Host.Outcome State Fault Refusal :=
  let bound := s.reservations.any (fun r => r.2.clusters.contains c && decide (r.2.ceil < cad))
  if 1 ≤ cad ∧ cad ≤ 16 ∧ !bound then .next (s.setCluster c { s.cluster c with cadence := cad }) else .next s

/-- `BALLAST_ROW`: dummy beats into bands that no queued operation selects change nothing but the energy charged to
`DEVNRG`, by an amount that the spec does not state (R382). -/
def execBallastRow (c bands : Nat) (s : State) : Host.Outcome State Fault Refusal :=
  let taken := match Tab.find s.mccs c with | some m => m.queue.any (fun q => q.mask &&& bands != 0) | none => false
  if taken then .next s else .next { s.draw with devnrg := s.devnrg + Config.freeWord s.freeCtr }

end Sys2Proof.Machine
end

