-- ==== Sys2Proof/Machine/Supervisor.lean ====
section
/-! DEFINITION. The instructions of a handler: its end (R339, R343), first-touch mapping (R340), invalidation (R341) and the
error log (R342). -/
namespace Sys2Proof.Machine

/-- A queue fault that the MCC has taken is over: the faulted operation may go on, and its wait counts from 0 (R259). -/
def Mcc.clearFault (m : Mcc) : Mcc :=
  match m.qf with
  | some (_, _, i) =>
    if m.qfTaken then
      { m with qf := none, qfTaken := false,
               queue := ((List.range m.queue.length).zip m.queue).map (fun e => if e.1 = i then { e.2 with waited := 0 } else e.2) }
    else m
  | none => m

/-- A queue fault whose handler ends without a `RTT` stays: the MCC takes it again before its next matrix instruction (R259, log 121, DEDUCED, unsafe). -/
def Mcc.keepFault (m : Mcc) : Mcc := { m with qfTaken := false }

/-- The group out of its handler, at `TRAPPC` (R339); `q` is what becomes of a queue fault that the MCC has taken. -/
def Ex.leaveHandler (x : Ex) (q : Mcc → Mcc) : State :=
  let s1 := match x.g.saved with
    | some sv => x.s.quitHandler x.gid x.home sv
    | none => x.save
  if x.g.mcc then { s1 with mccs := Tab.upd s1.mccs x.cluster q } else s1

/-- The cause that the handler handles. -/
def Ex.handled (x : Ex) : Cause := causeOf (x.g.trapc.toNat % 128)

/-- `KILL` mode 1 (R343). -/
def Ex.killWhole (x : Ex) : State := ((x.save).logTrap x.ctxId x.gid x.g x.g.trappc).killGroup x.gid x.handled

/-- `KILL` mode 0 (R343): the lanes of the trapped split leave; on the MCC it ends the MCC. -/
def Ex.killSplit (x : Ex) : State :=
  if x.g.mcc then x.killWhole
  else
    let s1 := x.s.logTrap x.ctxId x.gid x.g x.g.trappc
    let s2 := s1.setGrid x.gridId ((s1.grid x.gridId).note 1 x.handled)
    ({ x with s := s2, sp := { x.sp with lanes := 0 } } : Ex).endOwn

/-- `KILL` mode 3 (R156, R343): the group leaves its handler and is suspended; its record names an escalated page fault, or
`KILL` mode 3 for every other cause (R367, log 32, DEDUCED, unsafe). -/
def Ex.killEscalate (x : Ex) : State :=
  (x.leaveHandler Mcc.keepFault).escalate x.gid (if x.g.trapc.toNat % 128 = Cause.pageNotPresent.code then 0 else 1)

/-- After a `RTT` from a queue fault of cause `POISON` the queue is abandoned in place of going on (R350). -/
def Ex.abandonPoison (x : Ex) (s : State) : State :=
  match Tab.find x.s.mccs x.cluster with
  | none => s
  | some m =>
    match m.qf with
    | some (.poison, _, _) => if x.g.mcc && m.qfTaken then s.abandonQueue x.cluster x.g.gang x.ctxId m else s
    | _ => s

/-- `RTT` (R339); after `HOST_ABORT` it is `KILL` mode 1 (R348). -/
def execRtt (f : RForm) (s : State) : Host.Outcome State Fault Refusal :=
  issueWith (.rtt f) s (fun x =>
    .ok (if !x.go then x.next.save
         else if x.g.trapc.toNat % 128 = Cause.hostAbort.code then x.killWhole
         else (x.abandonPoison (x.leaveHandler Mcc.clearFault)).afterHandler x.gid (some x.sp.entry)))

/-- `KILL` (R343). -/
def execKill (f : RForm) (s : State) : Host.Outcome State Fault Refusal :=
  issueWith (.kill f) s (fun x =>
    if !x.go then .ok x.next.save
    else
      match (x.rdU f.a).toNat with
      | 0 => .ok x.killSplit
      | 1 => .ok x.killWhole
      | 2 => .ok (((x.save).logTrap x.ctxId x.gid x.g x.g.trappc).terminateContext x.ctxId x.handled)
      | 3 => .ok x.killEscalate
      | _ => .error (.of .illegalOperand))

/-- What lies on the way to the level-1 entry of an address (R149, R150): the entry's location; a leaf above it; or the
location of the first missing table pointer with the number of tables missing. -/
inductive Descent where
  | entry (loc : Nat)
  | leaf
  | missing (loc lvl : Nat)
deriving DecidableEq, Repr

/-- The way down from a table (R149, R150). A leaf or tile leaf where its level admits none reads as not present. -/
def State.wayDown (s : State) (va : Nat) : Nat → Nat → Descent
  | 0, _ => .leaf
  | lvl + 1, b =>
    let idx := va / 2 ^ (12 + 9 * lvl) % 512
    let loc := hbmLoc (b + 8 * idx)
    let kind := fun (l : Nat) => natLE (Memory.load s.mem l 8) % 4
    if lvl = 0 then .entry loc
    else if (kind loc = 2 ∧ lvl < 3) ∨ (lvl = 1 ∧ (kind loc = 3 ∨ (idx % 2 = 1 ∧ kind (loc - 8) = 3))) then .leaf
    else if kind loc = 1 then
      if s.hbmOk (field (natLE (Memory.load s.mem loc 8)) 51 12 * 2 ^ 12) then
        s.wayDown va lvl (field (natLE (Memory.load s.mem loc 8)) 51 12 * 2 ^ 12)
      else .leaf
    else .missing loc lvl

/-- A page of the pool, zeroed and without stamps (R200, R340). -/
def State.freshPage (s : State) (p : Nat) : State := (s.zeroBytes (hbmLoc p) 4096).forget (hbmLoc p) 4096

/-- Writes a page-table entry in one step. -/
def State.setPte (s : State) (loc v : Nat) : State := s.storeBytes loc (bytesLE 8 v)

/-- Writes the table pointers that are missing from level `lvl` down and then the leaf, from the pages given (R340). -/
def State.mapDown (s : State) (va leaf : Nat) : Nat → Nat → List Nat → State
  | _, _, [] => s
  | 0, loc, p :: _ => (s.freshPage p).setPte loc (2 + leaf + p)
  | lvl + 1, loc, p :: ps =>
    ((s.freshPage p).setPte loc (1 + p)).mapDown va leaf lvl (hbmLoc (p + 8 * (va / 2 ^ (12 + 9 * lvl) % 512))) ps

/-- `PFMAP` (R340): the result, and the machine after it. -/
def Ex.firstTouch (x : Ex) (va b : Nat) : State × Nat :=
  let leaf := field b 3 0 * 2 ^ 5 + field b 5 4 * 2 ^ 52
  let pool := x.ctx.pool
  let go := fun (lvl loc : Nat) =>
    if pool.length < lvl + 1 then (x.s, 1)
    else
      let s1 := x.s.mapDown va leaf lvl loc (pool.take (lvl + 1))
      (s1.setCtx x.ctxId { s1.ctx x.ctxId with pool := pool.drop (lvl + 1) }, 0)
  if !canonical va || !x.s.hbmOk x.ctx.root then (x.s, 3)
  else
    match x.s.wayDown va 5 x.ctx.root with
    | .leaf => (x.s, 3)
    | .entry loc => if natLE (Memory.load x.s.mem loc 8) % 4 = 2 then (x.s, 2) else go 0 loc
    | .missing loc lvl => go lvl loc

/-- `PFMAP` (R340). -/
def execPfmap (f : RForm) (s : State) : Host.Outcome State Fault Refusal :=
  issueEx (.pfmap f) s (fun x =>
    let b := (x.rdU f.b).toNat
    if !x.go then .ok x
    else if b / 2 ^ 6 ≠ 0 then .error (.of .illegalOperand)
    else
      let r := x.firstTouch (x.pair f.a x.lead) b
      .ok (({ x with s := r.1 } : Ex).wr f.nw f.d (word r.2)))

/-- A cached entry covers a page of the range of `n` pages from page `p` (R341). -/
def TlbEntry.covers (e : TlbEntry) (p n : Nat) : Bool :=
  let span := 2 ^ (9 * e.lvl)
  let base := e.va / span * span
  decide (base < p + n) && decide (p < base + span)

/-- The context's cached entries of a range, or all of them, removed from every TLB (R341). -/
def State.invalidate (s : State) (ctx p n : Nat) : State :=
  { s with tlb := s.tlb.filter (fun e => e.ctx != ctx || (n != 0 && !e.covers p n)) }

/-- `TLBI` (R341). -/
def execTlbi (f : RForm) (s : State) : Host.Outcome State Fault Refusal :=
  issueEx (.tlbi f) s (fun x =>
    .ok (if x.go then { x with s := x.s.invalidate x.ctxId (x.pair f.a x.lead / 4096) (x.rdU f.b).toNat } else x))

/-- A word of a log entry (R342). -/
def Ctx.logWord (c : Ctx) (e w : Nat) : Word :=
  match Tab.find c.log e with
  | some l => l.words.getD w 0
  | none => 0

/-- `ERRRD` (R342): a read of word 0 marks the entry read. -/
def execErrrd (f : RForm) (s : State) : Host.Outcome State Fault Refusal :=
  issueEx (.errrd f) s (fun x =>
    let k := (x.rdU f.a).toNat
    if !x.go then .ok x
    else if k / 2 ^ 9 ≠ 0 then .error (.of .illegalOperand)
    else
      let c := x.ctx
      let e := field k 8 3
      let c1 := if field k 2 0 = 0 then { c with log := Tab.upd c.log e (fun l => { l with read := true }) } else c
      .ok (({ x with s := x.s.setCtx x.ctxId c1 } : Ex).wr f.nw f.d (c.logWord e (field k 2 0))))

end Sys2Proof.Machine
end

