-- ==== Sys2Proof/Machine/Grids.lean ====
section
/-! DEFINITION. Launch blocks (R325), buckets (R302, R322), the creation of a grid (R26-R29, R323), and the instructions that
launch a child grid and wait for it (R312, R326, R327). -/
namespace Sys2Proof.Machine

/-- A launch block (R325). -/
structure Block where
  kernel : Nat
  argc : Nat
  record : Bool
  p : Nat
  f : Nat
  groups : Nat
  seed : Word
  up : Nat
  a : Nat
  w : Nat
  b : Int
  steward : Option (Nat × Nat)
  shapes : List Word
  counts : List Nat
  args : List Word
  /-- no reserved field is set, and argc is at most 32 (R326) -/
  ok : Bool
deriving DecidableEq, Repr

/-- A block's fields, from its 256 bytes. -/
def blockOf (bs : List Byte) : Block :=
  let w := fun (off : Nat) => natLE ((bs.drop off).take 4)
  let h := fun (off : Nat) => natLE ((bs.drop off).take 2)
  let argc := field (w 0) 13 8
  let zeros := fun (lo n : Nat) => ((bs.drop lo).take n).all (· == 0)
  { kernel := field (w 0) 7 0, argc := argc, record := bit (w 0) 14, p := field (w 0) 19 16, f := field (w 0) 23 20, groups := field (w 0) 28 24,
    seed := word (w 4), up := w 8, a := h 0x0C, w := h 0x0E, b := signed 32 (w 0x10),
    steward := if bit (w 0x14) 25 then none else some (field (w 0x14) 20 0, field (w 0x14) 24 21),
    shapes := (List.range 4).map (fun j => word (w (0x20 + 4 * j))), counts := (List.range 16).map (fun j => h (0x30 + 2 * j)),
    args := (List.range (min argc 32)).map (fun j => word (w (0x80 + 4 * j))),
    ok := decide (argc ≤ 32) && !bit (w 0) 15 && field (w 0) 31 29 == 0 && field (w 0x14) 31 26 == 0 && zeros 0x18 8 && zeros 0x50 0x30 }

/-- The team counts that a block gives a kernel's stages; none where a stage beyond them has teams (R325). -/
def Block.stages (b : Block) (k : Kernel) : Option (List Nat) :=
  if (b.counts.drop k.stages).all (· == 0) then some (b.counts.take k.stages) else none

/-- Whether a block's shape is that of a quote's request (R26); a sentence uses no gang sizes (R276). -/
def Block.fits (b : Block) (r : QuoteReq) : Bool :=
  b.kernel == r.kernel.idx && b.stages r.kernel == some r.counts && b.groups == r.groups
    && (r.kernel.sentence || (b.p == r.p && b.f == r.f))

/-- A bucket's ranges hold the shapes (R302). -/
def Bucket.holds (k : Bucket) (shapes : List Word) : Bool :=
  (k.ranges.zip shapes).all (fun e => decide (e.1.1 ≤ e.2.toNat) && decide (e.2.toNat ≤ e.1.2))

/-- The bucket of lowest number whose ranges hold the shapes (R322). -/
def Kernel.bucketFor (k : Kernel) (shapes : List Word) : Option Bucket :=
  (k.buckets.filter (fun b => b.holds shapes)).foldl (fun a b => match a with
    | none => some b
    | some c => if b.n < c.n then some b else a) none

/-- The teams that downstream team `i` needs of an upstream grid of `n` teams (R323). -/
def Dep.window (d : Dep) (i n : Nat) : List Nat :=
  (List.range n).filter (fun (u : Nat) => decide ((d.a : Int) * i + d.b ≤ u) && decide ((u : Int) < d.a * i + d.b + d.w))

/-- The bytes of a quote record (R309). -/
def State.quoteBytes (s : State) (qid : Nat) (q : Quote) : List Byte :=
  let r := (Tab.find s.reservations q.res).getD ⟨[], [], [], 0⟩
  let pcg := r.pcgs.foldl (fun m b => m ||| 2 ^ b) 0
  bytesLE 4 qid ++ bytesLE 4 q.mapv ++ bytesLE 8 q.budget ++ bytesLE 8 q.bound ++ bytesLE 4 q.energy
    ++ bytesLE 4 (r.clusters.length % 256 + (s.ctx q.req.ctx).part * 2 ^ 8 + r.engines.length % 256 * 2 ^ 16 + r.ceil * 2 ^ 24)
    ++ bytesLE 8 pcg ++ bytesLE 4 (800 + q.bucket * 2 ^ 16 + q.req.kernel.idx * 2 ^ 24) ++ bytesLE 4 1000000
    ++ bytesLE 4 (q.rows + q.waves * 2 ^ 16) ++ bytesLE 4 q.parent ++ ((q.req.digest ++ List.replicate 4 0).take 4) ++ bytesLE 4 0

/-- The header of a replay log (R356), in the order in which the rule names its contents (log 33, DESIGN CHOICE, unsafe). -/
def State.replayHeader (s : State) (qid : Nat) (q : Quote) (b : Block) (bucket : Nat) : List Byte :=
  q.req.digest ++ bytesLE 4 q.req.kernel.idx
    ++ ((b.args ++ List.replicate 32 0).take 32).flatMap (fun (w : Word) => bytesLE 4 w.toNat)
    ++ b.shapes.flatMap (fun (w : Word) => bytesLE 4 w.toNat) ++ bytesLE 4 bucket ++ bytesLE 4 b.seed.toNat ++ bytesLE 4 s.mapv
    ++ s.quoteBytes qid q ++ bytesLE 4 b.groups ++ bytesLE 4 b.p ++ bytesLE 4 b.f
    ++ b.counts.flatMap (fun (n : Nat) => bytesLE 2 n)

/-- The releases of the completed grids of a function, whose COMPLETE records the host has read when it submits a packet (R183,
log 31, DESIGN CHOICE, unsafe). -/
def State.knownReleases (s : State) (fn : Nat) : List Release :=
  (s.grids.filter (fun e => e.2.complete && (s.ctx e.2.ctx).fn == fn)).flatMap (fun e => e.2.releases.map (·.2))

/-- A new grid on a quote, in a context (R26, R29, R323, R356): its handle. The kernel's tensor templates are loaded into the
context's table (R299). An upstream handle that names no running grid of the context blocks nothing (log 34, DEDUCED, unsafe). -/
def State.newGrid (s : State) (ctx qid : Nat) (q : Quote) (b : Block) (k : Bucket) (priority : Nat) (parent : Option (Nat × Nat))
    (inherits : List Release) (replay : Option (Nat × Nat)) : State × Nat :=
  let id := s.nextGrid
  let up := s.grid b.up
  let dep : Option Dep := if b.up ≠ 0 ∧ (Tab.find s.grids b.up).isSome ∧ up.ctx = ctx then some ⟨b.up, b.a, b.b, b.w⟩ else none
  let g : Grid := { Grid.empty with
    ctx := ctx, kernel := q.req.kernel, counts := q.req.counts, groups := q.req.groups, p := q.req.p, f := q.req.f, seed := b.seed,
    args := b.args, shapes := b.shapes, bucket := k.n, entry := word k.entry, pad := k.pad, quote := some qid, launchedOn := qid,
    priority := priority, dep := dep, steward := b.steward, parent := parent, boundLeft := q.bound, replay := replay,
    inherits := inherits }
  let c := s.ctx ctx
  let c1 := q.req.kernel.tensors.foldl Ctx.template c
  let s1 := { (s.setGrid id g).setCtx ctx c1 with nextGrid := id + 1 }
  let s2 := if q.parent = 0 then s1.setQuoteState qid .launched else s1
  ((if parent.isNone then s2.logReplay id (s.replayHeader qid q b k.n) else s2), id)

/-- The number of a link's word: 0-7 the tiles' UCIe words, 8-22 the ports (R12). -/
def linkNo (k : Nat) : Nat := if k < 0x4000 then (k - 0x1000) / 8 else 8 + (k - 0x4000)

/-- Whether a changed word names a unit of reservation `n` (R16, R19); the spec does not say which links a reservation uses, so that is
free for each reservation and link (log 2, DESIGN CHOICE, safe). -/
def resTouched (n : Nat) (r : Reservation) (u : Nat × Nat) : Bool :=
  let k := u.1
  let bits := u.2
  let link := Config.usesLink n (linkNo k)
  let onTile := fun (t : Nat) => r.clusters.any (fun c => c / 18 == t)
  let onStack := fun (t : Nat) => r.pcgs.any (fun g => g / 8 == t)
  if k = 1 then r.clusters.any (fun c => bit (bits % 256) (c / 18))
  else if 0x1000 ≤ k ∧ k < 0x1040 then
    let t := (k - 0x1000) / 8
    match k % 8 with
    | 0 => r.clusters.any (fun c => c / 18 == t && bit bits (c % 18))
    | 1 => onTile t
    | 2 => onStack t
    | 3 => r.engines.any (fun e => e / 16 == t && bit bits (e % 16))
    | _ => link
  else if 0x2000 ≤ k ∧ k < 0x2000 + 8 * 144 then r.clusters.contains ((k - 0x2000) / 8)
  else if 0x3000 ≤ k ∧ k < 0x3000 + 96 then
    let st := (k - 0x3000) / 12
    (List.range 32).any (fun b => bit bits b && r.pcgs.contains (8 * st + (32 * ((k - 0x3000) % 12) + b) / 48))
  else if 0x3100 ≤ k ∧ k < 0x3100 + 40 then onStack ((k - 0x3100) / 5)
  else if 0x4000 ≤ k ∧ k < 0x4000 + 15 then link
  else if 0x5000 ≤ k ∧ k < 0x5000 + 1152 then r.clusters.contains ((k - 0x5000) / 8)
  else false

/-- A quote is touched (R19, R319): it cites a version that has left the log, or a later degradation names a unit of its
reservation; one that waits to be accepted or launched and holds no reservation has lost it to such a change. -/
def State.quoteTouched (s : State) (q : Quote) : Bool :=
  decide (q.mapv + 63 < s.mapv)
    || (match Tab.find s.reservations q.res with
        | some r => s.mapLog.any (fun e => e.deg && decide (q.mapv < e.version) && e.units.any (resTouched q.res r))
        | none => q.state == .issued || q.state == .accepted)

/-- The quotes on which a grid runs or was launched, by the first of their requests. -/
def State.firstsOf (s : State) (g : Grid) : List Nat := ([g.launchedOn] ++ g.quote.toList).filterMap (fun k => (s.quote? k).map (·.first))

/-- The standing quote for a `LAUNCH` site, a block and the bucket that its shapes choose (R308, R326). A site is an offset in the code
section, or, on an MCC, in the section of its routine (log 82, DEDUCED, unsafe), so that a handler has none (R308, R366). -/
def Ex.standing (x : Ex) (b : Block) : Option (Nat × Quote × Bucket) :=
  let firsts := x.s.firstsOf x.grid
  let base := if x.g.mcc then x.grid.kernel.mccBase else x.grid.kernel.base
  if x.sup then none
  else x.s.quotes.findSome? (fun e =>
    let q := e.2
    if q.parent ≠ 0 ∧ firsts.contains q.parent ∧ q.site = base + x.sp.pc.toNat ∧ q.state = .accepted ∧ b.fits q.req then
      match q.req.kernel.bucketFor b.shapes with
      | some k => if k.n = q.bucket then some (e.1, q, k) else none
      | none => none
    else none)

/-- What the read of a launch block comes to: its bytes and the party after it, or a trap, or a wait (R326). -/
inductive BlockRead where
  | bytes (bs : List Byte) (x : Ex)
  | trap (t : Trap)
  | wait (w : Wait)
  /-- a word at an address is poisoned (R350) -/
  | poison (addr : Nat)
deriving DecidableEq, Repr

/-- Reads a launch block as a load by the party (R149, R151, R155, R176, R201, R326). -/
def Ex.readBlock (x : Ex) (addr : Nat) : BlockRead :=
  let a : Access := { inSpad := false, bytes := 16, use := .engineRead, kind := .read, ordered := false }
  if !canonical addr then .trap (.at .pageProtection addr)
  else if addr % 64 ≠ 0 then .trap (.at .misaligned addr)
  else
    (List.range 16).foldl (fun r j =>
      match r with
      | .bytes bs y =>
        let p := (addr + 16 * j) % 2 ^ 64
        match x.look a p with
        | .fault c => .trap (.at c p)
        | .wait w => .wait w
        | .ok t =>
          if y.s.poisoned t.loc 16 then .poison p
          else
            let s1 := y.s.arrive (.core x.gid) x.cluster t.loc 16
            .bytes (bs ++ Memory.load s1.mem t.loc 16) (({ y with s := s1 } : Ex).mark x.tester a p t)
      | r => r) (.bytes [] x)

/-- The lowest free entry of a team's child table (R326). -/
def Team.freeChild (t : Team) : Option Nat := (List.range 16).find? (fun e => (Tab.find t.children e).isNone)

/-- A standing quote that a degradation has touched is void with blame DEVICE when its launch comes, and a re-quote is offered (R318,
R319). -/
def Ex.voidStanding (x : Ex) (qid : Nat) (q : Quote) : Ex :=
  let s1 := x.s.endQuote qid .void
  let payload := [word qid, word (blameDevice + 8 * 2 ^ 16), word s1.mapv, 0, 0, 0]
  { x with s := { s1 with walks := s1.walks ++ [{ s1.beginWalk q.req.ctx 0 q.req 0 with requote := true, reports := [(2, 0, payload)] }] } }

/-- `LAUNCH` once its block at an address is read (R319, R326). -/
def Ex.launchChild (x : Ex) (f : RForm) (addr : Nat) (bs : List Byte) : Except Trap State :=
  let b := blockOf bs
  let t := x.team
  match x.standing b, t.freeChild with
  | some (qid, q, k), some e =>
    if x.s.quoteTouched q then .ok ((x.voidStanding qid q).takeTrap (.of .launchState))
    else
    let n := Tab.read t.launches x.sp.pc.toNat 0
    let past := match x.limit 4 x.sp.pc with | some l => decide (l.n ≤ n) | none => false
    if !b.ok then .error (.of .launchState)
    else if past then .error (.of .limitLaunch)
    else
      let r := x.release 2
      let replay := if b.record then r.1.grid.replay else none
      let g := r.1.s.newGrid r.1.ctxId qid q b k r.1.grid.priority (some (x.teamId, e)) [r.2] replay
      let t1 := { r.1.team with children := Tab.put r.1.team.children e ⟨t.serial, g.2⟩, serial := t.serial + 1,
                                launches := Tab.put t.launches x.sp.pc.toNat (n + 1) }
      let handle := e + 16 * (t.serial % 2 ^ 28)
      let s1 := (g.1.setTeam x.teamId t1).logReplay x.gridId (bytesLE 4 handle ++ bytesLE 8 addr ++ bytesLE 4 g.2)
      .ok ((({ r.1 with s := s1 } : Ex).wr f.nw f.d (word handle)).next.save)
  | _, _ => .error (.of .launchState)

/-- `LAUNCH` (R326). -/
def execLaunch (f : RForm) (s : State) : Host.Outcome State Fault Refusal :=
  issueWith (.launch f) s (fun x =>
    if !x.go then .ok x.next.save
    else
      let addr := (x.pair f.a x.lead + ((x.rdU f.b).signExtend 64).toNat) % 2 ^ 64
      match x.readBlock addr with
      | .trap t => .error t
      | .wait w => .ok (x.waitFor w).save
      | .poison p => if x.g.mcc then .error (.at .poison p) else .ok x.killShared
      | .bytes bs y => y.launchChild f addr bs)

/-- The outcome of a child grid that has completed (R327): terminated, or ended in part by a trap, or its quote void. -/
def State.childCode (s : State) (grid : Nat) : Nat :=
  let g := s.grid grid
  if g.status = 2 then 3
  else if g.status ≠ 0 then 1
  else if (s.quote? g.launchedOn).any (fun q => q.state == .void) then 2
  else 0

/-- `LWAIT` returns (R327): the acquire of the child's retirements, and the entry free. -/
def Ex.endChild (x : Ex) (f : RForm) (e grid code : Nat) : State :=
  let y := x.acquire 2 ((x.s.grid grid).releases.map (·.2))
  let t := y.team
  let mine := match Tab.find t.children e with | some c => c.grid == grid | none => false
  let s1 := if mine then y.s.setTeam y.teamId { t with children := Tab.del t.children e } else y.s
  ((({ y with s := s1 } : Ex).wr f.nw f.d (word code)).doneWaiting.next).save

/-- `LWAIT` (R327). A wait that has ended has left the child grid's handle with the split. -/
def execLwait (f : RForm) (s : State) : Host.Outcome State Fault Refusal :=
  issueWith (.lwait f) s (fun x =>
    let h := (x.rdU f.a).toNat
    let e := h % 16
    let none_ := ((x.wr f.nw f.d 0xF).doneWaiting.next).save
    match x.sp.ticket with
    | some t => .ok (x.endChild f e t.toNat (x.s.childCode t.toNat))
    | none =>
      if !x.go then .ok x.next.save
      else
        match Tab.find x.team.children e with
        | none => .ok none_
        | some c =>
          if c.serial % 2 ^ 28 ≠ h / 16 then .ok none_
          else if (x.s.grid c.grid).complete then .ok (x.endChild f e c.grid (x.s.childCode c.grid))
          else .ok (x.waitFor (.child c.grid)).save)

end Sys2Proof.Machine
end

