-- ==== Sys2Proof/Machine/Waits.lean ====
section
/-! DEFINITION. The end of waits (R41, R48), declared limits (R314, R342), the delivery of asynchronous traps (R333), the
watchdog of handlers (R347), and what follows when a timeout of the device runs out (R18, R310, R313, R316, R381). -/
namespace Sys2Proof.Machine

/-- `LINE_FILL`: the line that a split waits for is filled from the tile's code copy (R48). -/
def execLineFill (gid entry : Nat) (s : State) : Host.Outcome State Fault Refusal :=
  match Ex.of s gid entry with
  | some x =>
    if x.sp.wait = some .line then
      let st := touchLine x.storeSets (x.lineAt x.sp.pc) (Tab.read s.stores x.storeKey [])
      .next ({ x with s := { s with stores := Tab.put s.stores x.storeKey st }, sp := { x.sp with wait := none } } : Ex).save
    else .next s
  | none => .next s

/-- The frame at whose `JOIN` a split waits, by position, when its other splits have all reached it or ended (R37). -/
def Group.readyFrame (g : Group) (entry : Nat) : Option Nat := g.frames.findIdx? (fun f => f.ready && f.arrived.contains entry)

/-- The splits of a frame have all reached its `JOIN` or ended, and this split is among those that wait there (R37). -/
def Group.joinReady (g : Group) (entry : Nat) : Bool := (g.readyFrame entry).isSome

/-- The condition of a wait holds (R41). -/
def Ex.waitOver (x : Ex) (w : Wait) : Bool :=
  match w with
  | .line => x.hit
  | .xacq n => (Tab.find x.g.held n).isSome || (!x.team.free.isEmpty && (x.aheadAtPool n).isEmpty)
  | .join => x.g.joinReady x.sp.entry
  | .bar loc t => x.s.barDone loc t.toNat
  | .tbar gen => decide (gen < x.team.barGen)
  | .claim h => decide (sub32 (x.s.trClaimed h) (x.s.trReleased h) < x.s.trWindow h)
  | .fill h i view => x.s.waitDone h i.toNat view
  | .child g => (x.s.grid g).complete
  | .yield n => n == 0
  | .mwait n => !x.mcc.awaits n
  | .place => decide (x.mcc.queue.length < 8)
  | .migrate pte => !bit (x.s.word32 pte) 11
  | .peer n => x.s.peerState n != 2

/-- What a split keeps of a wait that has ended: a completed `YLD` issues as over, an `LWAIT` knows its child grid. -/
def Split.resumed (p : Split) (w : Wait) : Split :=
  match w with
  | .yield _ => { p with wait := none, ticket := some 0 }
  | .child g => { p with wait := none, ticket := some (word g) }
  | _ => { p with wait := none }

/-- A single step onto a wait ends when the wait returns and the instruction with it (R345). -/
def State.stepDone (s : State) (gid : Nat) : State :=
  match s.group gid with
  | none => s
  | some g =>
    match (if g.saved = none then g.stepping.bind g.split? else none) with
    | some p => if p.wait.isNone then (Ex.takeTrap ⟨s, gid, g, p, none⟩ (.of .step)).settleCheck else s
    | none => s

/-- `SPLIT_READY`: a waiting split whose condition holds is a candidate again (R41); the splits of a frame whose last other
split has ended re-gang (R37). -/
def execSplitReady (gid entry : Nat) (s : State) : Host.Outcome State Fault Refusal :=
  match Ex.of s gid entry with
  | none => .next s
  | some x =>
    match x.sp.wait with
    | none => .next s
    | some w =>
      if !x.waitOver w then .next s
      else if w = .join then
        match (x.g.readyFrame entry).bind (fun k => (x.g.frames[k]?).map (fun f => (k, f))) with
        | some (k, f) => .next ((x.putGroup (x.g.regang f (dropAt x.g.frames k))).stepDone gid)
        | none => .next s
      else .next ({ x with sp := x.sp.resumed w } : Ex).save

/-- The barrier word that the instruction at a split's PC names, as `TRAPADDR` would show it. -/
def Ex.barWord (x : Ex) : Nat :=
  match decode (x.wordAt x.sp.pc) with
  | .barw f => x.syncWord f.a / 4 * 4
  | .baraw f => x.syncWord f.a / 4 * 4
  | _ => 0

/-- A group waits at a named barrier (R342). -/
def Group.atBar (g : Group) (loc : Nat) : Bool :=
  g.splits.any (fun p => match p.wait with | some (.bar l _) => l == loc | _ => false)

/-- The diagnostic entries of a barrier (R342): the groups that do not wait there, and the state of each other group of the
team. `at_` says whether a group of the team waits; `gone` whether one that has retired counts as missing. -/
def Ex.barDiag (x : Ex) (at_ : Group → Bool) (gone : Bool) (addr expected arrived : Nat) : State :=
  let c := Cause.limitWait.code
  let ms := x.s.members x.g.gang x.g.team
  let others := (List.range 16).filterMap (fun k => if k = x.g.grp then none else ms.find? (fun e => e.2.grp == k))
  let missing := (List.range x.grid.groups).foldl (fun m k =>
    if k = x.g.grp then m
    else
      match ms.find? (fun e => e.2.grp == k) with
      | some e => if at_ e.2 then m else m + 2 ^ k
      | none => if gone then m + 2 ^ k else m) 0
  let s1 := x.s.logEntry x.ctxId c 2 (placeOf x.gid) x.sp.pc (word missing) addr (word expected) (word arrived)
  others.foldl (fun s e =>
    s.logEntry x.ctxId c 3 (placeOf e.1) (match e.2.first with | some p => p.pc | none => 0) 0 addr 0 (word (b2n (at_ e.2)))) s1

/-- What a `LIMIT_WAIT` at a barrier writes before its handler is entered (R342). -/
def Ex.diagnose (x : Ex) (w : Wait) : State :=
  match w with
  | .bar loc _ => if x.g.mcc then x.s.logEntry x.ctxId Cause.limitWait.code 2 (placeOf x.gid) x.sp.pc 0 x.barWord
        (word (x.s.barExpected loc)) (word (x.s.barArrived loc))
      else x.barDiag (fun g => g.atBar loc) true x.barWord (x.s.barExpected loc) (x.s.barArrived loc)
  | .tbar _ => x.barDiag (fun g => x.team.arrived.contains g.grp) false 0 (x.s.members x.g.gang x.g.team).length x.team.arrived.length
  | _ => x.s

/-- A split whose declared wait has passed its limit (R314): the wait is backed out; the next execution counts from 0, and an
arrival made stands (R219, R220), but for one at a `JOIN`, which has not been reached. -/
def Ex.overLimit (x : Ex) (w : Wait) : Ex :=
  let keep := match w with | .bar _ _ => true | .join => true | .tbar _ => x.team.arrived.contains x.g.grp | _ => false
  { x with g := if w = .join then x.g.unarrive x.sp.entry else x.g
           sp := { x.sp with wait := none, count := 0, ticket := if keep then x.sp.keptTicket else none } }

/-- A declared wait of a split is at its limit, and the next cycle would be chargeable (R314). -/
def Ex.atLimit (x : Ex) (w : Wait) : Bool :=
  w.declared && x.g.run == .running && !x.waitOver w && !x.s.frozen x.gridId && !x.s.onRecovering x.g w
    && (match x.s.waitLimit x.gid x.g x.sp with | some n => decide (n ≤ x.sp.count) | none => false)

/-- A split that waits takes a trap, its wait backed out; in a handler that ends the context (R332). -/
def State.trapWaiting (s : State) (gid entry : Nat) (t : Trap) : State :=
  match Ex.of s gid entry with
  | none => s
  | some x =>
    match x.sp.wait with
    | none => s
    | some w =>
      if x.admitsTrap then ((x.overLimit w).takeTrap t).settleCheck else s

/-- What waits declared on a node that has become LOST come to (R317): each traps with `REMOTE_UNREACHABLE`, a queued operation as a
queue fault (R259). -/
def State.losePeer (s : State) (node : Nat) : State :=
  let ws := s.groups.flatMap (fun e => (e.2.splits.filter (fun p => match p.wait with
    | some w => s.waitPeer e.2 w == some node
    | none => false)).map (fun p => (e.1, p.entry)))
  let qs := s.mccs.flatMap (fun e => ((List.range e.2.queue.length).zip e.2.queue).filterMap (fun q =>
    if q.2.waiting && s.queuePeer e.1 q.2 == some node then some (e.1, q.1) else none))
  let s1 := ws.foldl (fun s w => s.trapWaiting w.1 w.2 (.of .remoteUnreachable)) s
  qs.foldl (fun s q => s.raiseFault q.1 q.2 .remoteUnreachable none) s1

/-- `LIMIT_WAIT` of a split (R314, R315, R342). -/
def State.splitLimit (s : State) (gid entry : Nat) : State :=
  match Ex.of s gid entry with
  | none => s
  | some x =>
    match x.sp.wait with
    | none => s
    | some w =>
      if x.atLimit w && x.admitsTrap then (({ x.overLimit w with s := x.diagnose w } : Ex).takeTrap (.of .limitWait)).settleCheck else s

/-- `LIMIT_WAIT` of a queued operation that waits (R257, R259, R314). -/
def State.queueLimit (s : State) (c i : Nat) : State :=
  match Tab.find s.mccs c with
  | none => s
  | some m =>
    match m.queue[i]? with
    | none => s
    | some q =>
      let frozen := match s.group (gidOf c 64) with | some g => s.frozen (s.gang g.gang).grid | none => false
      let past := match s.queuedLimit c q with | some n => decide (n ≤ q.waited) | none => false
      if q.waiting && q.kind != 3 && past && !frozen && (s.queuePeer c q).isNone then s.raiseFault c i .limitWait none else s

/-- `LIMIT_WAIT`: a count that would pass its declared limit traps (R314). -/
def execLimitWait (w : Waiter) (s : State) : Host.Outcome State Fault Refusal :=
  match w with
  | .split gid entry => .next (s.splitLimit gid entry)
  | .queued c i => .next (s.queueLimit c i).settleCheck

/-- `ASYNC_TRAP_DELIVERY` (R18, R333). -/
def execAsyncTrapDelivery (gid : Nat) (s : State) : Host.Outcome State Fault Refusal :=
  .next (s.deliverAsync gid)

/-- A handler stopped by the watchdog: what its log entry shows, and its group suspended (R347). -/
def State.stopHandler (s : State) (gid : Nat) (g : Group) (sv : Saved) : State :=
  let c := s.ctxOf g
  let pc := match g.split? sv.entry with | some p => p.pc | none => 0
  let s1 := s.logEntry c Cause.watchdog.code 6 (placeOf gid) pc g.trapmask (g.trapaddrl.toNat + 2 ^ 32 * g.trapaddrh.toNat)
    g.trapc g.trappc
  (s1.quitHandler gid g sv).escalate gid 2

/-- `WATCHDOG` (R347): a handler that has run 2^20 cycles is stopped, and its group suspended as by `KILL` mode 3. -/
def execWatchdog (gid : Nat) (s : State) : Host.Outcome State Fault Refusal :=
  match s.group gid, (s.group gid).bind (·.saved) with
  | some g, some sv =>
    if g.run = .running ∧ handlerCycles ≤ sv.cycles then
      let t := s.stopHandler gid g sv
      .next (if g.mcc then { t with mccs := Tab.upd t.mccs (gidCluster gid) Mcc.keepFault } else t).settleCheck
    else .next s
  | _, _ => .next s

/-- The local cycles from one refresh of a party's `ENERGY` and `QNRG` to the next (R313, R336). -/
def refreshCycles : Nat := 65536

/-- `ENERGY_REFRESH` (R313, R336), due every 65,536 cycles of the party's cluster since its creation: `ENERGY` and `QNRG` show the
energy charged so far, by an amount that the spec does not state. -/
def execEnergyRefresh (gid steps : Nat) (s : State) : Host.Outcome State Fault Refusal :=
  match s.group gid with
  | none => .next s
  | some g =>
    let k := (s.gang g.gang).grid
    let gr := s.grid k
    if g.age < refreshCycles then .next s
    else
    let e := max gr.energy steps
    let left := match gr.quote.bind s.quote? with | some q => q.energy - (e - gr.waived) | none => 0
    .next ((s.setGrid k { gr with energy := e }).setGroup gid
      { g with energy := word (min e (2 ^ 32 - 1)), qnrg := word (min left (2 ^ 32 - 1)), age := g.age - refreshCycles })

/-- The codes of the budgets in a BREACH record (R321). -/
def breachCode : BreachKind → Nat
  | .team => 0
  | .energy => 1
  | .bound => 2

/-- A budget of a quote in force is exhausted (R316). -/
def State.spent (s : State) (g : Grid) (q : Quote) (gang team : Nat) (k : BreachKind) : Bool :=
  match k with
  | .team => decide (q.budget ≤ (s.team (teamKey gang team)).used)
  | .energy => decide (q.energy ≤ g.energy - g.waived)
  | .bound => g.boundLeft == 0 && !g.complete

/-- The gang and index of the team that a grid numbers `lin`, if it has formed (R323). -/
def State.teamAt (s : State) (grid lin : Nat) : Option (Nat × Nat) :=
  s.teams.findSome? (fun e =>
    let ga := s.gang e.2.gang
    if ga.grid = grid ∧ e.1 % 256 < 255 ∧ ga.linear (s.grid grid) e.2.idx = lin then some (e.2.gang, e.2.idx) else none)

/-- `BREACH` (R316, R321): one record for each kind of budget. `team` is the team's linear index; the cause is a code of R316. -/
def execBreach (grid team : Nat) (kind : BreachKind) (cause : Nat) (s : State) : Host.Outcome State Fault Refusal :=
  let g := s.grid grid
  match g.quote, g.quote.bind s.quote? with
  | some qid, some q =>
    let at_ := (s.teamAt grid team).getD (0, 0)
    let there := kind != .team || (s.teamAt grid team).isSome
    if there && !g.breaches.contains kind && decide (1 ≤ cause) && decide (cause ≤ 7) && s.spent g q at_.1 at_.2 kind then
      let blame := if cause = 6 then blameCaller else blameDevice
      let who := match kind with | .team => team % 2 ^ 21 | _ => 0x1FFFFF
      .next ((s.setGrid grid { g with breaches := g.breaches ++ [kind], deviceBreach := g.deviceBreach || cause != 6 }).record g.ctx 3 0
        [word qid, word (blame + breachCode kind * 2 ^ 4 + cause * 2 ^ 8), word s.mapv, word grid, word who])
    else .next s
  | _, _ => .next s

/-- The validity of a quote, in hub-die cycles (R309). -/
def quoteCycles : Nat := 1000000

/-- A quote's validity has ended (R310). -/
def State.expired (s : State) (q : Quote) : Bool := decide (quoteCycles ≤ (s.hub + 2 ^ 64 - q.issued) % 2 ^ 64)

/-- `QUOTE_LAPSE`: a quote that is not accepted expires, and an accepted one lapses, when its validity ends (R310). -/
def execQuoteLapse (qid : Nat) (s : State) : Host.Outcome State Fault Refusal :=
  match s.quote? qid with
  | none => .next s
  | some q =>
    if (q.state = .issued ∨ (q.state = .accepted ∧ q.parent = 0)) ∧ s.expired q then .next (s.endQuote qid .lapsed) else .next s

/-- `MAP_ACK_LATE` (R18, R318): a window of the context has run out; its grids are suspended, its quotes void with blame CALLER,
and none of them resumes before a host MAPACK of a current version and RESUME. -/
def execMapAckLate (ctx : Nat) (s : State) : Host.Outcome State Fault Refusal :=
  let c := s.ctx ctx
  if c.live && c.windows.any (fun w => decide (ackCycles ≤ w.cycles)) then
    let gs := s.gridsOf ctx
    let s1 := gs.foldl (fun s g => s.voidQuote g blameCaller 0 .mapAckLate false false) s
    let s2 := s1.voidIdle ctx blameCaller 0 .mapAckLate false
    let s3 := gs.foldl (fun s g => s.haltGrid g) s2
    .next (s3.setCtx ctx { s3.ctx ctx with late := true, windows := [] }).settleCheck
  else .next s

/-- The settle interval of a rail vote, in hub-die cycles (R381). -/
def settleCycles : Nat := 2 ^ 14

/-- `RAIL_VOTE_LAPSE` (R381): the vote of a partition that has no work and no reservation on a tile any more lapses. -/
def execRailVoteLapse (tile part : Nat) (s : State) : Host.Outcome State Fault Refusal :=
  let k := 8 * tile + part
  if part < 8 ∧ tile < 8 ∧ !s.worksOn part tile ∧ settleCycles ≤ Tab.read s.settle k 0 then
    .next { s with votes := Tab.del s.votes k, settle := Tab.del s.settle k }
  else .next s

end Sys2Proof.Machine
end

