-- ==== Sys2Proof/Machine/Gangs.lean ====
section
/-! DEFINITION. The distributor: where a gang or a sentence fits (R26-R28, R276, R311, R323, R324, R359), its creation (R29, R247,
R278), its pre-emption and resume (R49-R51, R273, R294, R357), the end of a grid (R47), and the arrival and admission of travelling
packets (R288, R289). -/
namespace Sys2Proof.Machine

/-- The teams that hold slots on a core. -/
def State.teamsOn (s : State) (core : Nat) : List Team :=
  (s.teams.filter (fun e => e.1 % 256 < 255 && e.2.core == core && !e.2.done && !e.2.slots.isEmpty)).map (·.2)

/-- Teams of a stage that no gang has taken yet (R27). -/
def Grid.unformed (g : Grid) (stage : Nat) : Nat := g.counts.getD stage 0 - Tab.read g.formed stage 0

/-- The first stage at or after the one whose turn it is that has teams to form (R27). -/
def Grid.nextStage (g : Grid) : Option Nat :=
  let n := g.counts.length
  ((List.range n).map (fun d => (g.turnStage + d) % n)).find? (fun k => decide (0 < g.unformed k))

/-- A grid has gangs to form or to resume. -/
def State.pending (s : State) (k : Nat) (g : Grid) : Bool :=
  !g.complete && !g.halted && (g.nextStage.isSome || s.gangs.any (fun e => e.2.grid == k && e.2.suspended && !e.2.done))

/-- A partition's capacity is idle: no unquoted grid of it waits for a place (R324). -/
def State.idle (s : State) (p : Nat) : Bool :=
  !s.grids.any (fun e => e.2.quote.isNone && (s.ctx e.2.ctx).part == p && s.pending e.1 e.2)

/-- Partition `q` lends what is idle of it to partition `p` (R324, R359). -/
def State.lends (s : State) (p q : Nat) : Bool := p != q && s.lend q && s.idle q

/-- The partitions on whose fixed ranges a grid may be placed. -/
def State.hosts (s : State) (p : Nat) (borrow : Bool) : List Nat :=
  p :: (if borrow then (List.range 8).filter (fun q => s.lends p q) else [])

/-- The reservation of a grid's quote in force. -/
def State.reservationOf (s : State) (g : Grid) : Option Reservation :=
  (g.quote.bind s.quote?).bind (fun q => Tab.find s.reservations q.res)

/-- Whether a cluster is reserved. -/
def State.reserved (s : State) (c : Nat) : Bool := s.reservations.any (fun r => r.2.clusters.contains c)

/-- A reserved cluster is lent to an unquoted grid of the same context while no gang that holds the reservation needs it
(R311). -/
def State.lentWithin (s : State) (ctx c : Nat) : Bool :=
  (s.reservations.filter (fun r => r.2.clusters.contains c)).all (fun r =>
    s.quotes.any (fun q => q.2.res == r.1 && q.2.req.ctx == ctx)
      && !s.grids.any (fun e => (match e.2.quote.bind s.quote? with | some q => q.res == r.1 | none => false) && s.pending e.1 e.2))

/-- A core may take a team of a grid: it is live, its cluster is not drained for a scan, and reservations admit it (R27, R311,
R352). -/
def State.coreFor (s : State) (g : Grid) (core : Nat) : Bool :=
  let c := core / 4
  s.coreLive core && !(s.cluster c).scanning
    && (match g.quote with
        | some _ => (match s.reservationOf g with | some r => r.clusters.contains c | none => false)
        | none => !s.reserved c || s.lentWithin g.ctx c)

/-- Whether a grid may use lent capacity on a cluster: it has no quote, and the cluster is not reserved (R311). -/
def State.borrows (s : State) (g : Grid) (c : Nat) : Bool := g.quote.isNone && !s.reserved c

/-- The rows of a core that teams hold, as first row and number. -/
def State.rowsHeld (s : State) (core : Nat) : List (Nat × Nat) := (s.teamsOn core).map (fun t => (t.row0, (s.gridOf t).span t.idx))

/-- A team's place fits beside what a core holds already and beside other places of the same gang (R27, R44, R145). -/
def State.placeFits (s : State) (g : Grid) (j blocks : Nat) (t : TeamPlace) (others : List (Nat × TeamPlace)) : Bool :=
  let hs := s.hosts (s.ctx g.ctx).part (s.borrows g (t.core / 4))
  let here := s.teamsOn t.core
  let near := others.filter (fun o => o.2.core == t.core)
  let n := g.span j
  s.coreFor g t.core
    && t.slots.length == g.groups && t.slots.eraseDups == t.slots && t.blocks.length == blocks && t.blocks.eraseDups == t.blocks
    && t.slots.all (fun k => hs.any (fun p => decide (s.slot0 p ≤ k) && decide (k < s.slot0 p + s.slotCount p))
        && here.all (fun u => !u.slots.contains k) && near.all (fun o => !o.2.slots.contains k))
    && t.blocks.all (fun b => hs.any (fun p => decide (s.xb0 p ≤ b) && decide (b < s.xb0 p + s.xbCount p))
        && here.all (fun u => !u.pool.contains b) && near.all (fun o => !o.2.blocks.contains b))
    && t.row0 % 2 == 0
    && hs.any (fun p => decide (s.partRow0 p ≤ t.row0) && decide (t.row0 + n ≤ s.partRow0 p + s.partRows p))
    && (s.rowsHeld t.core).all (fun r => !meets t.row0 n r.1 r.2)
    && near.all (fun o => !meets t.row0 n o.2.row0 (g.span o.1))

/-- The places of a gang fit together, by the numbers of their teams and the blocks of each. -/
def State.placesFit (s : State) (g : Grid) (blocks : Nat) : List (Nat × TeamPlace) → Bool
  | [] => true
  | t :: ts => s.placeFits g t.1 blocks t.2 ts && s.placesFit g blocks ts

/-- A cluster's MCC can take a gang: it is live and serves none, and its queue is empty (R247, R249). -/
def State.mccFree (s : State) (c : Nat) : Bool :=
  s.mccLive c
    && (match s.group (gidOf c 64) with
        | some g => g.run == .ended && (s.gang g.gang).done
        | none => true)
    && (match Tab.find s.mccs c with | some m => m.queue.isEmpty | none => true)

/-- The places of a gang lie on one tile; with an MCC, on different cores of one cluster whose MCC is free; the stations of a
sentence on different cores (R23, R25, R276). -/
def State.unitOk (s : State) (g : Grid) (p : List TeamPlace) : Bool :=
  match p with
  | [] => false
  | t :: _ =>
    let cores := p.map (·.core)
    let apart := cores.eraseDups == cores
    p.all (fun u => u.core / 72 == t.core / 72)
      && (g.kernel.mcc.isNone || (apart && p.all (fun u => u.core / 4 == t.core / 4) && s.mccFree (t.core / 4)))
      && (!g.kernel.sentence || apart)

/-- How many teams of `need` rows fit one after another from row `r` to row `hi`, beside what is held. -/
def packRows (held : List (Nat × Nat)) (need hi : Nat) : Nat → Nat → Nat
  | 0, _ => 0
  | fuel + 1, r =>
    if hi < r + need then 0
    else if held.all (fun e => !meets r need e.1 e.2) then 1 + packRows held need hi fuel (r + max 2 (need + need % 2))
    else packRows held need hi fuel (r + 2)

/-- How many teams of a grid a core can take at once (R27). -/
def State.coreRoom (s : State) (g : Grid) (core : Nat) : Nat :=
  if !s.coreFor g core then 0
  else
    let hs := s.hosts (s.ctx g.ctx).part (s.borrows g (core / 4))
    let here := s.teamsOn core
    let free := fun (lo n : State → Nat → Nat) (held : Team → List Nat) =>
      (hs.flatMap (fun p => (List.range (n s p)).map (lo s p + ·))).filter (fun k => here.all (fun u => !(held u).contains k))
    let slots := (free State.slot0 State.slotCount Team.slots).length / max 1 g.groups
    let blocks := if g.kernel.xblocks = 0 then slots else (free State.xb0 State.xbCount Team.pool).length / g.kernel.xblocks
    let rows := hs.foldl (fun n p =>
      n + packRows (s.rowsHeld core) (g.span 0) (s.partRow0 p + s.partRows p) 1024 (s.partRow0 p + s.partRow0 p % 2)) 0
    min slots (min blocks rows)

/-- Some placement of a gang of `n` teams exists now (R27). -/
def State.canPlace (s : State) (g : Grid) (n : Nat) : Bool :=
  if g.kernel.mcc.isSome then
    (List.range 144).any (fun c => s.mccFree c && decide (n ≤ ((List.range 4).filter (fun q => decide (0 < s.coreRoom g (4 * c + q)))).length))
  else
    (List.range 8).any (fun t => decide (n ≤ (List.range 72).foldl (fun m q => m + s.coreRoom g (72 * t + q)) 0))

/-- Every upstream team that the next `n` teams of a stage need has retired (R323). -/
def State.windowDone (s : State) (g : Grid) (stage n : Nat) : Bool :=
  match g.dep with
  | none => true
  | some d =>
    let u := s.grid d.grid
    u.complete || (List.range n).all (fun j =>
      (d.window (g.linear stage (Tab.read g.formed stage 0 + j)) u.teams).all u.retired.contains)

/-- The context of a grid may have work placed (R18, R343, R370). -/
def State.ctxRuns (s : State) (ctx : Nat) : Bool := (s.ctx ctx).live && !(s.ctx ctx).late && !(s.qi ctx).revoked

/-- A grid's turn among the unquoted grids of its partition: none of a higher priority, or as old and older, has a gang that
could be formed, or a sentence whole (R276, R324). -/
def State.servedNow (s : State) (k : Nat) (g : Grid) : Bool :=
  g.quote.isSome || !s.grids.any (fun e =>
    let h := e.2
    e.1 != k && h.quote.isNone && (s.ctx h.ctx).part == (s.ctx g.ctx).part && !h.complete && !h.halted && s.ctxRuns h.ctx
      && (decide (h.priority < g.priority) || (h.priority == g.priority && decide (e.1 < k)))
      && (match h.nextStage with | some st => s.windowDone h st (if h.kernel.sentence then h.unformed st else min h.f (h.unformed st)) | none => false))

/-- The size of a gang that a stage forms now (R27): the preferred one, or the fallback where that cannot be placed; a sentence is
whole (R276). -/
def State.sizeOk (s : State) (g : Grid) (stage n : Nat) : Bool :=
  let r := g.unformed stage
  if g.kernel.sentence then n == r && Tab.read g.formed stage 0 == 0
  else n == min g.p r || (n == min g.f r && !s.canPlace g (min g.p r))

/-- A gang may be formed with these places (R27, R276, R323, R324). -/
def State.formable (s : State) (k : Nat) (g : Grid) (stage : Nat) (p : List TeamPlace) : Bool :=
  !g.complete && !g.ended && !g.halted && s.ctxRuns g.ctx && g.nextStage == some stage && decide (0 < p.length)
    && s.sizeOk g stage p.length && s.windowDone g stage p.length && s.servedNow k g
    && s.unitOk g p && s.placesFit g g.kernel.xblocks ((List.range p.length).zip p)

/-- The vectors of whoever comes into a slot: the releases given, and those made earlier in the slot (R183, R198); L is kept
only within a cluster. -/
def State.startVecs (s : State) (gid : Nat) (rs : List Release) (v : Vecs) : Vecs :=
  let c := gidCluster gid
  mergeReleases { home := c, l := if v.home = c then v.l else [], x := v.x, e := v.e } (rs ++ Tab.read s.slotRel gid [])

/-- The seed of a generator (R29, R247). -/
def rngsSeed (seed : Word) (h : Nat) : Word :=
  let w := word (seed.toNat + 0x9E3779B9 * (h + 1))
  if w = 0 then 1 else w

/-- The argument words as scalar registers (R29). -/
def argRegs (args : List Word) : Tab Word := (List.range 32).foldl (fun t j => Tab.put t j (args.getD j 0)) []

/-- `QNRG` at creation (R313). -/
def State.nrgStart (s : State) (g : Grid) : Word :=
  match g.quote.bind s.quote? with | some q => word (min q.energy (2 ^ 32 - 1)) | none => 0

/-- A group is created in a slot of its team (R29, R322): `idx` is the team's grid index, or its replica. -/
def State.createGroup (s : State) (gang : Nat) (g : Grid) (stage : Nat) (t : Team) (k idx : Nat) (rs : List Release) : State :=
  let slot := t.slots.getD k 0
  let gid := gidOf (t.core / 4) (16 * (t.core % 4) + slot)
  let shape := (g.shapes.getD 0 0).toNat
  let grp := { Group.start gang t.idx k false with
    s := argRegs g.args
    exec := if g.pad then maskOf (fun l => decide (l + 32 * (k + g.groups * idx) < shape)) else 0xFFFFFFFF
    rngs := lanesOf (fun l => rngsSeed g.seed (l + 32 * k + 512 * idx + 2 ^ 25 * stage))
    splits := [Split.start slot g.entry 0xFFFFFFFF]
    qnrg := s.nrgStart g
    vecs := s.startVecs gid rs .zero }
  (s.riseEpoch gid).setGroup gid grp

/-- The MCC of a cluster starts its grid's routine (R247). -/
def State.createMcc (s : State) (gang : Nat) (g : Grid) (ga : Gang) : State :=
  let gid := gidOf ga.cluster 64
  let grp := { Group.start gang 255 0 true with
    s := argRegs g.args, exec := 1, splits := [Split.start 0 0 1], qnrg := s.nrgStart g
    rngs := lanesOf (fun _ => rngsSeed g.seed (2 ^ 29 + 2 ^ 25 * ga.stage + ga.ordinal))
    vecs := s.startVecs gid g.inherits .zero }
  let s1 := (s.riseEpoch gid).setGroup gid grp
  { s1 with mccs := Tab.put s1.mccs ga.cluster (Mcc.start (s.liveBands ga.cluster)) }

/-- A cluster works for a grid from now on (R353). -/
def State.worksFor (s : State) (grid c : Nat) : State :=
  let g := s.grid grid
  let cl := s.cluster c
  (s.setGrid grid { g with clusters := addNew g.clusters c }).setCluster c { cl with grids := addNew cl.grids grid }

/-- The releases of the upstream teams in a team's window (R183, R323). -/
def State.upstreamReleases (s : State) (g : Grid) (lin : Nat) : List Release :=
  match g.dep with
  | none => []
  | some d =>
    let u := s.grid d.grid
    let w := d.window lin u.teams
    (u.releases.filter (fun r => w.contains r.1)).map (·.2)

/-- A team takes its place and its groups start; a station other than those of the entry clause starts with none (R29, R278). -/
def State.startTeam (s : State) (gang : Nat) (ga : Gang) (g : Grid) (j : Nat) (t : TeamPlace) : State :=
  let team := { Team.empty with gang := gang, idx := j, core := t.core, slots := t.slots, row0 := t.row0, rows := g.kernel.rows,
                                pool := t.blocks, free := t.blocks }
  let a := team.allot
  let s1 := ((s.zeroBytes (a.loc 0) (a.rows * 2048)).forget (a.loc 0) (a.rows * 2048)).setTeam (teamKey gang j) team
  let s2 := s1.worksFor ga.grid (t.core / 4)
  let st := g.kernel.stationList[j]?
  let entered : Bool := match st with
    | some e => (g.kernel.clauseAt g.entry).any (fun c => c.n == e.1.n)
    | none => !g.kernel.sentence
  let idx := match st with | some e => e.2.1 | none => ga.base + j
  let rs := g.inherits ++ s2.upstreamReleases g (ga.linear g j)
  if entered then (List.range g.groups).foldl (fun s k => s.createGroup gang g ga.stage team k idx rs) s2 else s2

/-- A gang or a sentence is formed and starts (R27-R29, R247, R276, R278, R356). -/
def State.formGang (s : State) (k : Nat) (g : Grid) (stage : Nat) (p : List TeamPlace) : State :=
  let id := s.nextGang
  let n := p.length
  let base := Tab.read g.formed stage 0
  let ord := Tab.read g.gangs stage 0
  let cluster := (p.map (·.core)).headD 0 / 4
  let sts := g.kernel.stationList
  let ga : Gang := { Gang.empty with
    grid := k, stage := stage, ordinal := ord, base := base, size := n, tile := cluster / 18, cluster := cluster,
    usesMcc := g.kernel.mcc.isSome
    stations := ((List.range sts.length).zip sts).map (fun e =>
      (e.1, { Station.empty with clause := e.2.1.n, replica := e.2.2.1, spill := e.2.2.2 })) }
  let g1 := { g with formed := Tab.put g.formed stage (base + n), gangs := Tab.put g.gangs stage (ord + 1),
                     turnStage := (stage + 1) % max 1 g.counts.length }
  let s1 := { (s.setGrid k g1).setGang id ga with nextGang := id + 1 }
  let s2 := ((List.range n).zip p).foldl (fun s e => s.startTeam id ga g1 e.1 e.2) s1
  let s3 := if ga.usesMcc then (s2.worksFor k cluster).createMcc id g1 ga else s2
  let places := p.flatMap (fun t => bytesLE 4 (placeOf (gidOf (t.core / 4) (16 * (t.core % 4) + t.slots.headD 0))).toNat)
  (s3.logReplay k (bytesLE 4 ord ++ bytesLE 4 n ++ places)).revote.settleCheck

/-- `GANG_FORM`: the distributor forms a gang of a stage on the places that it has chosen (R27). -/
def execGangForm (grid stage : Nat) (p : List TeamPlace) (s : State) : Host.Outcome State Fault Refusal :=
  match Tab.find s.grids grid with
  | none => .next s
  | some g => if s.formable grid g stage p then .next (s.formGang grid g stage p) else .next s

/-- Whether a gang uses capacity outside its partition's ranges (R357). -/
def State.usesBorrowed (s : State) (gang : Nat) : Bool :=
  (s.gangTeams gang).any (fun e => !s.teamFits (s.ctx (s.gridOf e.2).ctx).part e.2)

/-- The grid whose priority pre-empts another (R324, R357): of the unquoted grids of the same partition with gangs to place and a higher
priority, the one served first. -/
def State.ahead (s : State) (g : Grid) : Option Nat :=
  (s.grids.filter (fun e => e.2.quote.isNone && (s.ctx e.2.ctx).part == (s.ctx g.ctx).part && s.pending e.1 e.2 && decide (e.2.priority < g.priority))).foldl
    (fun (m : Option Nat) e => match m with
      | none => some e.1
      | some k => if e.2.priority < (s.grid k).priority ∨ (e.2.priority = (s.grid k).priority ∧ e.1 < k) then some e.1 else some k) none

/-- A request for a pre-emption is one that R357 admits: a quoted gang is never pre-empted for a slice or a priority, a reclaim
suspends gangs that use borrowed capacity, a scan drains, a HALT is the host's, and a shrink takes gangs that fit no more. -/
def State.admits (s : State) (gang : Nat) (r : Requester) : Bool :=
  let ga := s.gang gang
  let g := s.grid ga.grid
  match r with
  | .slice => g.quote.isNone
  | .priority => g.quote.isNone && (s.ahead g).isSome
  | .reclaim | .shrink => s.usesBorrowed gang
  | .scan => (s.gangTeams gang).any (fun e => (s.cluster (e.2.core / 4)).scanning)
  | .halt => g.halted

/-- Changes every group that a suspended gang's place keeps, its MCC's among them unless that has ended. -/
def Gang.mapGroups (ga : Gang) (f : Group → Group) : Gang :=
  { ga with groups := ga.groups.map (fun (sg : SavedGroup) => { sg with group := f sg.group }),
            mcc := ga.mcc.map (fun (m : Group × Mcc) => (if m.1.run = .ended then m.1 else f m.1, m.2)) }

/-- The energy of a save or a restore, which the spec does not state, charged to the grid whose priority caused it, or to `DEVNRG`
(R382). -/
def State.chargeFor (s : State) (who : Option Nat) : State :=
  match who with
  | some k => (s.setGrid k { s.grid k with energy := (s.grid k).energy + Config.freeNat s.freeCtr }).draw
  | none => s.charge

/-- `PRE_EMPTION` (R49-R51, R357): the gang is suspended whole; what a priority causes is charged to the grid that has it (R382). -/
def execPreEmption (gang : Nat) (r : Requester) (s : State) : Host.Outcome State Fault Refusal :=
  let ga := s.gang gang
  if (Tab.find s.gangs gang).isSome ∧ !ga.done ∧ !ga.suspended ∧ s.admits gang r then
    let t := s.suspendGang gang (r == .halt || r == .shrink)
    let who := s.ahead (s.grid ga.grid)
    .next (if r = .priority then
        (({ t with devnrg := s.devnrg }).setGang gang { t.gang gang with savedFor := who }).chargeFor who
      else t).settleCheck
  else .next s

/-- The bands that a suspended MCC needs: those of `MSHP` and of every captured mask (R273). -/
def Mcc.bands (m : Mcc) : Nat := m.queue.foldl (fun b q => b ||| q.mask % 16) (m.mshp % 16)

/-- The entries of the splits of a suspended team that lie in a core's pool (R40, R50). -/
def Gang.poolEntries (ga : Gang) (team : Nat) : List Nat :=
  ((ga.groups.filter (fun e => e.team == team)).flatMap (fun e => e.group.splits.map (·.entry))).filter (fun e => decide (16 ≤ e))

/-- The buffer entries that the teams of a gang bring to their cores are free there (R50). -/
def State.entriesFit (s : State) (ga : Gang) (p : List (Nat × TeamPlace)) : Bool :=
  p.all (fun t =>
    let used := (s.groups.filter (fun e => !e.2.mcc && gidCore e.1 == t.2.core)).flatMap (fun e => e.2.splits.map (·.entry))
    let mine := ga.poolEntries t.1
    mine.all (fun e => !used.contains e)
      && p.all (fun u => u.1 == t.1 || u.2.core != t.2.core || (ga.poolEntries u.1).all (fun e => !mine.contains e)))

/-- A suspended gang may resume on these places: those of its teams that have not retired, in order (R27, R49, R273). -/
def State.resumable (s : State) (gang : Nat) (ga : Gang) (ts : List (Nat × Team)) (p : List TeamPlace) : Bool :=
  let g := s.grid ga.grid
  let ps := (ts.map (fun e => e.2.idx)).zip p
  ga.suspended && !ga.done && !g.complete && !g.halted && s.ctxRuns g.ctx && ts.length == p.length
    && s.unitOk g p && s.placesFit g g.kernel.xblocks ps && s.entriesFit ga ps
    && (match ga.mcc with | some m => bandsIn m.2.bands (s.liveBands ((p.map (·.core)).headD 0 / 4)) | none => true)
    && !(s.gang gang).done

/-- A block of a pool by its place in the pool that takes over. -/
def movedBlock (old new : List Nat) (b : Nat) : Nat := new.getD (old.findIdx (· == b)) b

/-- The leaves that mapped a suspended team's allotment, and still do, with their values for its new place (R50). -/
def State.remapped (s : State) (old new : Allot) (leaves : List Nat) : List (Nat × Nat) :=
  let mine := (s.leavesTo old).filter leaves.contains
  mine.map (fun loc =>
    let e := natLE (Memory.load s.mem loc 8)
    (loc, setField (setField e 21 12 (field e 21 12 - old.row0 / 2 + new.row0 / 2)) 31 22 new.core))

/-- Leaves take new values, all at once, and nothing stale is kept of them (R50). -/
def State.remap (s : State) (es : List (Nat × Nat)) : State :=
  let s1 := es.foldl (fun s e => s.storeBytes e.1 (bytesLE 8 e.2)) s
  { s1 with tlb := s1.tlb.filter (fun e => !es.any (fun r => r.1 == e.loc)) }

/-- A team at a new place. -/
def Team.at_ (t : Team) (p : TeamPlace) : Team :=
  { t with core := p.core, row0 := p.row0, slots := p.slots, pool := p.blocks, free := t.free.map (movedBlock t.pool p.blocks), leaves := [] }

/-- A team takes its new place, with the bytes of its allotment (R50, R200). -/
def State.moveTeam (s : State) (key : Nat) (t : Team) (p : TeamPlace) : State :=
  let t1 := t.at_ p
  ((s.relocate (parkLoc t.gang t.idx) (t1.allot.loc 0) (t.rows * 2048)).setTeam key t1).worksFor (s.gang t.gang).grid (p.core / 4)

/-- A gang's teams take their new places. The leaves of all of them are looked up before the first is rewritten, since one team's new place
may be another's old one (R50). -/
def State.moveTeams (s : State) (ps : List ((Nat × Team) × TeamPlace)) : State :=
  let es := ps.flatMap (fun e => s.remapped e.1.2.allot (e.1.2.at_ e.2).allot e.1.2.leaves)
  (ps.foldl (fun s e => s.moveTeam e.1.1 e.1.2 e.2) s).remap es

/-- A group comes into a slot of its team's new place under its new identity (R50, R198, R200). -/
def State.resumeGroup (s : State) (gang : Nat) (rs : List Release) (old : List Nat) (sg : SavedGroup) : State :=
  let t := s.team (teamKey gang sg.team)
  let gid := gidOf (t.core / 4) (16 * (t.core % 4) + t.slots.getD sg.grp 0)
  let g := { sg.group with held := sg.group.held.map (fun e => (e.1, movedBlock old t.pool e.2)), vecs := s.startVecs gid rs sg.group.vecs }
  ((s.riseEpoch gid).setGroup gid g).renameParty (awayId gang sg.team sg.grp) gid

/-- The MCC of a gang comes back on a cluster (R50, R273). -/
def State.resumeMcc (s : State) (gang c : Nat) (rs : List Release) (g : Group) (m : Mcc) : State :=
  let gid := gidOf c 64
  let v := s.startVecs gid rs g.vecs
  let s1 := ((s.riseEpoch gid).setGroup gid { g with vecs := v }).renameParty (awayId gang g.team g.grp) gid
  let woken := m.queue.foldl (fun (acc : State × List QOp) q =>
    let own : Vecs := { home := c, l := if q.vecs.home = c then q.vecs.l else [], x := q.vecs.x, e := q.vecs.e }
    let q1 := { q with vecs := own.join v, epoch := s1.epochOf gid, kcount := (s1.cluster c).kcount }
    if q1.started && !q1.streamed then let r := acc.1.wakeBands c q1; (r.1, acc.2 ++ [r.2]) else (acc.1, acc.2 ++ [q1])) (s1, [])
  { woken.1 with mccs := Tab.put woken.1.mccs c { m with queue := woken.2 } }

/-- A suspended gang resumes (R49-R51, R200, R273, R294). Its stations' packets came before any that comes now, whatever the cycles of its
new clusters (R288). -/
def State.resumeGang (s : State) (gang : Nat) (ga : Gang) (ts : List (Nat × Team)) (p : List TeamPlace) : State :=
  let rs := (s.grid ga.grid).inherits
  let c := (p.map (·.core)).headD 0 / 4
  let s0 := s.moveTeams (ts.zip p)
  let s1 := { s0 with packets := s0.packets.map (fun (e : Nat × Packet) => if e.2.gang = gang then (e.1, { e.2 with cycle := none }) else e) }
  let old := fun (team : Nat) => ((ts.find? (fun e => e.2.idx == team)).map (fun e => e.2.pool)).getD []
  let s2 := ga.groups.foldl (fun s sg => s.resumeGroup gang rs (old sg.team) sg) s1
  let s3 := match ga.mcc with
    | some m => (s2.worksFor ga.grid c).resumeMcc gang c rs m.1 m.2
    | none => s2
  ((s3.setGang gang { (s3.gang gang) with suspended := false, savedFor := none, byHost := false, groups := [], mcc := none, told := false, tile := c / 18,
                                          cluster := c }).chargeFor ga.savedFor).revote.settleCheck

/-- The host is told once that no live cluster of the device holds every band that a suspended gang needs (R273, R367). -/
def State.tellUnplaced (s : State) (gang : Nat) (ga : Gang) : State :=
  match ga.mcc with
  | some m =>
    let g := s.grid ga.grid
    let fits := (List.range 144).any (fun c => s.mccLive c && bandsIn m.2.bands (s.liveBands c))
    let first := (ga.groups.find? (fun e => e.team == 0 && e.grp == 0)).map (·.group)
    if ga.suspended ∧ !ga.done ∧ !ga.told ∧ !fits then
      (s.setGang gang { ga with told := true }).hostReq g.ctx ga.grid (ga.linear g 0) 0 3
        (match first with | some h => h.trappc | none => 0)
        (match first with | some h => h.trapaddrl.toNat + 2 ^ 32 * h.trapaddrh.toNat | none => 0) 0
    else s
  | none => s

/-- `GANG_RESUME`: a suspended gang or sentence resumes on the places chosen; with no place, the host hears of a gang that no
cluster can take (R49-R51, R273, R294). -/
def execGangResume (gang : Nat) (p : List TeamPlace) (s : State) : Host.Outcome State Fault Refusal :=
  match Tab.find s.gangs gang with
  | none => .next s
  | some ga =>
    let ts := s.gangTeams gang
    if p.isEmpty then .next (s.tellUnplaced gang ga)
    else if s.resumable gang ga ts p then .next (s.resumeGang gang ga ts p)
    else .next s

/-- Everything that a grid waits for before it completes (R47): its teams, its queues, its engine work and its children are the
host's. -/
def State.gridOver (s : State) (grid : Nat) (g : Grid) : Bool :=
  let mine := fun (k : Nat) => (s.gang k).grid == grid
  g.retired.length == g.teams
    && s.mccs.all (fun e => match s.group (gidOf e.1 64) with | some h => !mine h.gang || (h.run == .ended && e.2.queue.isEmpty) | none => true)
    && s.gangs.all (fun e => e.2.grid != grid || (match e.2.mcc with | some m => m.2.queue.isEmpty | none => true))
    && s.engines.all (fun e => e.2.lists.all (fun l => !mine l.gang) && e.2.copies.all (fun c => !mine c.gang))

/-- `GRID_COMPLETE` (R47): its ended MCCs are gone, and the grid completes. -/
def execGridComplete (grid : Nat) (s : State) : Host.Outcome State Fault Refusal :=
  match Tab.find s.grids grid with
  | none => .next s
  | some g =>
    if !g.complete && s.gridOver grid g then
      let cs := (s.groups.filter (fun e => e.2.mcc && (s.gang e.2.gang).grid == grid)).map (fun e => gidCluster e.1)
      let s1 := cs.foldl (fun s c => { s with groups := Tab.del s.groups (gidOf c 64), mccs := Tab.del s.mccs c }) s
      let s2 := { s1 with gangs := s1.gangs.map (fun (e : Nat × Gang) => if e.2.grid = grid then (e.1, { e.2 with done := true, suspended := false, mcc := none }) else e) }
      .next (s2.completeGrid grid)
    else .next s

/-- `PACKET_ARRIVAL` (R288). -/
def execPacketArrival (id : Nat) (s : State) : Host.Outcome State Fault Refusal :=
  match Tab.find s.packets id with
  | none => .next s
  | some p => if (s.gang p.gang).suspended then .next s else .next (s.landPacket id)

/-- The lowest free slot of a station team, and its lowest free group index (R289). -/
def State.freePlace (s : State) (gang station : Nat) (t : Team) : Option (Nat × Nat) :=
  let ms := s.members gang station
  let slot := (t.slots.foldl (fun (m : Option Nat) k =>
    if ms.any (fun e => gidSlot e.1 % 16 == k) then m
    else match m with | none => some k | some j => some (min j k)) none)
  let grp := (List.range 16).find? (fun k => ms.all (fun e => e.2.grp != k))
  match slot, grp with
  | some a, some b => if ms.length < t.slots.length then some (a, b) else none
  | _, _ => none

/-- The packet that a station admits next: the oldest return, or else the oldest (R289). -/
def State.nextPacketAt (s : State) (st : Station) : Option (Nat × Packet) :=
  let ps := st.waiting.filterMap (fun id => (Tab.find s.packets id).map (fun p => (id, p)))
  match ps.find? (fun e => e.2.isReturn) with
  | some e => some e
  | none => ps.head?

/-- The new group that a packet becomes (R289, R290). -/
def Packet.group (p : Packet) (grp : Nat) (slot : Nat) : Group :=
  let all := (List.range 32) ++ (List.range 32).map (64 + ·) ++ (List.range 7).map (100 + ·)
  { Group.start p.gang p.station grp false with
    v := p.v, s := p.s, p := p.p, mode := p.mode, exec := p.exec, dead := p.dead, fpx := p.fpx, rngs := p.rngs, live := p.live, ueLane := p.ueLane
    absent := all.filter (fun o => !p.present.contains o)
    splits := [{ Split.start slot p.dest p.lanes with loops := p.loops, rets := p.rets }] }

/-- `ADMISSION` (R289). -/
def execAdmission (gang station : Nat) (s : State) : Host.Outcome State Fault Refusal :=
  let ga := s.gang gang
  let t := s.team (teamKey gang station)
  match Tab.find ga.stations station with
  | none => .next s
  | some st =>
    if ga.suspended || ga.done then .next s
    else
      match s.freePlace gang station t, s.nextPacketAt st with
      | some (slot, grp), some (id, p) =>
        let c := t.core / 4
        let gid := gidOf c (16 * (t.core % 4) + slot)
        let g := s.grid ga.grid
        let h := { p.group grp slot with vecs := s.startVecs gid [p.release] .zero, qnrg := s.nrgStart g }
        let ga1 := { ga with stations := Tab.put ga.stations station { st with waiting := st.waiting.erase id } }
        let t1 := { t with arrived := t.arrived.filter (· != grp), retired := t.retired.filter (· != grp) }
        let s1 := { (s.setGang gang ga1).setTeam (teamKey gang station) t1 with packets := Tab.del s.packets id }
        .next ((((s1.riseEpoch gid).setGroup gid h).count (s.ctx g.ctx).part gid 10 1).settleCheck)
      | _, _ => .next s

end Sys2Proof.Machine
end

