-- ==== Sys2Proof/Machine/MapStore.lean ====
section
/-! DEFINITION. The construction map as the device changes it (R12-R19, R21): what a degradation is, whose reservations and
contexts it touches, what it delivers and voids (R318); and the events that change the map (R256, R351, R352-R355, R377). -/
namespace Sys2Proof.Machine

/-- Some bit of a mask goes out. -/
def loses (old new mask : Nat) : Bool := old &&& mask &&& new != old &&& mask

/-- How well a link in a state of word 0x4000 + n works: down, training, reduced, up (R12). -/
def portRank (st : Nat) : Nat :=
  match st with
  | 1 => 1
  | 3 => 2
  | 2 => 3
  | _ => 0

/-- The same for a UCIe link: absent or down, reduced, up (R12). -/
def ucieRank (st : Nat) : Nat :=
  match st with
  | 3 => 1
  | 2 => 2
  | _ => 0

/-- Whether a word of the map changes for the worse: it removes or slows something (R13, R16). -/
def wordWorse (k old new : Nat) : Bool :=
  if k = 1 then loses old new 0xFF || decide (field new 15 8 < field old 15 8)
  else if k = 2 then decide (field new 31 16 < field old 31 16)
  else if 0x1000 ≤ k ∧ k < 0x1040 then
    match k % 8 with
    | 0 => loses old new 0x3FFFF
    | 1 => decide (field new 31 16 < field old 31 16)
    | 2 => loses old new 1 || decide (field old 9 1 < field new 9 1)
    | 3 => loses old new 0xFFFF
    | _ => (List.range 5).any (fun j => decide (ucieRank (new / 4 ^ j % 4) < ucieRank (old / 4 ^ j % 4)))
  else if 0x2000 ≤ k ∧ k < 0x2000 + 8 * 144 then
    if k % 8 = 0 then loses old new 0x1FF || loses new old 0x200
    else (List.range 4).any (fun j => decide (old / 16 ^ j % 8 < new / 16 ^ j % 8))
  else if 0x3000 ≤ k ∧ k < 0x3000 + 96 then loses new old 0xFFFFFFFF
  else if 0x3100 ≤ k ∧ k < 0x3100 + 40 then loses new old 0x4040
  else if 0x4000 ≤ k ∧ k < 0x4000 + 15 then
    decide (portRank (new % 8) < portRank (old % 8)) || decide (field new 7 4 < field old 7 4) || decide (field new 23 8 < field old 23 8)
  else if 0x5000 ≤ k ∧ k < 0x5000 + 1152 then
    (field new 10 0 != 0x7FF && field new 10 0 != field old 10 0) || (field new 26 16 != 0x7FF && field new 26 16 != field old 26 16)
  else if 0x6000 ≤ k then (old % 4 == 1 && new % 4 != 1) || (old % 4 == 2 && new % 4 == 3)
  else false

/-- A context's reservations, with their numbers. -/
def State.ctxReservations (s : State) (ctx : Nat) : Tab Reservation :=
  s.reservations.filter (fun r => s.quotes.any (fun q => q.2.res == r.1 && q.2.req.ctx == ctx))

/-- A context's gangs that are in slots. -/
def State.residents (s : State) (ctx : Nat) : List (Nat × Gang) :=
  s.gangs.filter (fun e => !e.2.done && !e.2.suspended && (s.grid e.2.grid).ctx == ctx)

/-- A context has a team or an MCC on a cluster. -/
def State.residesOn (s : State) (ctx c : Nat) : Bool :=
  (s.residents ctx).any (fun e => (e.2.usesMcc && e.2.cluster == c) || (s.gangTeams e.1).any (fun t => t.2.core / 4 == c))

/-- A range of physical addresses meets those of a stack (R386). -/
def onStack (stack : Nat) (r : Nat × Nat) : Bool := meets r.1 r.2 (stack * 2 ^ 37) (80 * 2 ^ 30)

/-- A context has pages on a stack: its tables, or what its leaves of type 0 map, each row of a tile leaf by itself (R153, R386). -/
def State.pagesOn (s : State) (ctx stack : Nat) : Bool :=
  onStack stack ((s.ctx ctx).root, 4096) || (s.entriesBelow 5 (s.ctx ctx).root).any (fun e =>
    let v := e.2.2
    if field v 1 0 = 1 then onStack stack (field v 51 12 * 2 ^ 12, 4096)
    else field v 4 2 == 0 && (leafRanges e.1 v (natLE (Memory.load s.mem (e.2.1 + 8) 8))).any (onStack stack))

/-- Whether the change of a word is delivered to a context (R16). -/
def State.mapHits (s : State) (ctx : Nat) (u : Nat × Nat) : Bool :=
  let rs := s.ctxReservations ctx
  let k := u.1
  let touched := rs.any (fun r => resTouched r.1 r.2 u)
  let gs := s.gridsOf ctx
  if 0x1000 ≤ k ∧ k < 0x1040 then
    let t := (k - 0x1000) / 8
    match k % 8 with
    | 0 => touched || (List.range 18).any (fun c => bit u.2 c && s.residesOn ctx (18 * t + c))
    | 2 => touched || s.pagesOn ctx t
    | 3 => gs.any (fun g => !(s.share g t).isEmpty)
    | _ => touched
  else if 0x2000 ≤ k ∧ k < 0x2000 + 8 * 144 then
    let c := (k - 0x2000) / 8
    if k % 8 = 0 then touched || (u.2 % 512 != 0 && s.residesOn ctx c)
    else (s.residents ctx).any (fun e => (s.gangTeams e.1).any (fun t => t.2.core / 4 == c && u.2 / 16 ^ (t.2.core % 4) % 8 != 0))
  else if 0x3000 ≤ k ∧ k < 0x3000 + 96 then touched || s.pagesOn ctx ((k - 0x3000) / 12)
  else if 0x3100 ≤ k ∧ k < 0x3100 + 40 then touched || s.pagesOn ctx ((k - 0x3100) / 5)
  else if 0x5000 ≤ k ∧ k < 0x5000 + 1152 then
    (s.residents ctx).any (fun e => (s.gangTeams e.1).any (fun t => t.2.core == (k - 0x5000) / 2))
  else if 0x6000 ≤ k then
    (s.leaves ctx).any (fun e => field e.2.2 4 2 == 3 && field e.2.2 63 56 == k - 0x6000)
  else touched

/-- A grid's steward is there, in a slot or in a suspended gang's place (R17). -/
def State.hasSteward (s : State) (grid : Nat) : Bool :=
  (s.steward grid).isSome
    || (match (s.grid grid).steward with
        | some (lin, grp) => s.gangs.any (fun e => e.2.grid == grid && e.2.suspended
            && e.2.groups.any (fun sg => sg.grp == grp && e.2.linear (s.grid grid) sg.team == lin))
        | none => false)

/-- Delivers `MAP_CHANGED` of a version to a context: to the stewards of its grids, or in a MAP record (R17, log 38, DEDUCED, unsafe). -/
def State.deliverMap (s : State) (ctx v : Nat) : State :=
  let gs := (s.gridsOf ctx).filter s.hasSteward
  if gs.isEmpty then s.record ctx 8 0 [word v]
  else gs.foldl (fun s g => s.toSteward g .mapChanged v (fun t => t)) s

/-- The running grids whose quotes a change touches (R318, R319). -/
def State.touchedGrids (s : State) (us : List (Nat × Nat)) : List Nat :=
  (s.grids.filter (fun e => !e.2.complete &&
    (match e.2.quote.bind s.quote? with
     | some q => (match Tab.find s.reservations q.res with | some r => us.any (resTouched q.res r) | none => false)
     | none => false))).map (·.1)

/-- A word of the map once some words have changed. -/
def State.mapThen (s : State) (ws : List (Nat × Word)) (k : Nat) : Nat := (Tab.read ws k (word (s.mapWord k))).toNat

/-- The tile that link `j` of tile `t` reaches, in the order row −, row +, column −, column + (R6, R12). -/
def neighbour (t j : Nat) : Option Nat :=
  match j with
  | 0 => if 4 ≤ t then some (t - 4) else none
  | 1 => if t < 4 then some (t + 4) else none
  | 2 => if 0 < t % 4 then some (t - 1) else none
  | 3 => if t % 4 < 3 then some (t + 1) else none
  | _ => none

/-- The words that give a tile's UCIe links their states: a link that the arrangement does not have is absent, and the tile at the
other end of one that it has says the same of it (R6, R12). -/
def State.linkWords (s : State) (ws : List (Nat × Word)) (t w : Nat) : List (Nat × Word) :=
  let key := fun (u : Nat) => 0x1000 + 8 * u + 4
  let own := (List.range 4).foldl (fun v j => if (neighbour t j).isSome then v else setField v (2 * j + 1) (2 * j) 0) (w % 2 ^ 10)
  (List.range 4).foldl (fun ws j =>
    match neighbour t j with
    | some u => let o := j ^^^ 1; Tab.put ws (key u) (word (setField (s.mapThen ws (key u)) (2 * o + 1) (2 * o) (field own (2 * j + 1) (2 * j))))
    | none => ws) (Tab.put ws (key t) (word own))

/-- The retired rows of core `q` once some words have changed (R12). -/
def State.rowsRetired (s : State) (ws : List (Nat × Word)) (q : Nat) : List Nat :=
  ([0, 1].flatMap (fun j => let v := s.mapThen ws (0x5000 + 2 * q + j); [field v 10 0, field v 26 16])).filter (· != 0x7FF)

/-- A core's retired rows are at most four. Where the words of a change would put another row in the place of one that is retired,
so that the core needs a fifth, its rows stay as they are and its bit in the core live mask is cleared (R12). -/
def State.retireRows (s : State) (ws : List (Nat × Word)) : List (Nat × Word) :=
  (((ws.filter (fun w => decide (0x5000 ≤ w.1) && decide (w.1 < 0x5000 + 1152))).map (fun w => (w.1 - 0x5000) / 2)).eraseDups).foldl (fun ws q =>
    if (s.rowsRetired [] q ++ s.rowsRetired ws q).eraseDups.length ≤ 4 then ws
    else
      let k := 0x2000 + 8 * (q / 4)
      Tab.put (ws.filter (fun w => (w.1 - 0x5000) / 2 != q || decide (w.1 < 0x5000) || decide (0x5000 + 1152 ≤ w.1))) k
        (word (setField (s.mapThen ws k) (q % 4) (q % 4) 0))) ws

/-- The words that count what other words list: a cluster's retired rows and a stack's retired pseudo-channels (R12). -/
def State.countWords (s : State) (ws : List (Nat × Word)) : List (Nat × Word) :=
  let named := fun (lo n per : Nat) => (ws.filter (fun w => decide (lo ≤ w.1) && decide (w.1 < lo + n))).map (fun w => (w.1 - lo) / per)
  let clusters := (named 0x5000 1152 8 ++ named 0x2000 1152 8).eraseDups
  let ofStacks := (named 0x3000 96 12 ++ named 0x1000 64 8).eraseDups
  let rows := clusters.foldl (fun acc c =>
    Tab.put acc (0x2000 + 8 * c + 1)
      (word ((List.range 4).foldl (fun v q => v + ((s.rowsRetired ws (4 * c + q)).eraseDups).length * 2 ^ (4 * q)) 0))) ws
  ofStacks.foldl (fun acc t =>
    let k := 0x1000 + 8 * t + 2
    Tab.put acc k (word (setField (s.mapThen ws k) 9 1
      ((List.range 12).foldl (fun n i => n + popCount 32 (s.mapThen ws (0x3000 + 12 * t + i))) 0)))) rows

/-- The links of the map that reach a node after some words have changed, as a mask: those up or reduced (R12, R377). -/
def State.reaching (s : State) (ws : List (Nat × Word)) (node : Nat) : Nat :=
  (List.range 12).foldl (fun m n =>
    let w := (Tab.read ws (0x4000 + n) (word (s.mapWord (0x4000 + n)))).toNat
    if field w 31 24 = node ∧ 2 ≤ portRank (w % 8) then m + 2 ^ n else m) 0

/-- The word of a peer node after its links have changed (R377, R378): with a link up it is LIVE, unless it is LOST; without one, a
LIVE peer is RECOVERING. -/
def State.peerWord (s : State) (ws : List (Nat × Word)) (node : Nat) : Nat × Word :=
  let m := s.reaching ws node
  let st := s.peerState node
  let new := if st = 3 then 3 else if m ≠ 0 then 1 else if st = 1 then 2 else st
  (0x6000 + node, word (new + m * 2 ^ 4))

/-- The words of the peer nodes that a change names or whose links it changes: the mask of links that reach the node follows, and its state,
where the change does not give one (R12, R377). -/
def State.peerWords (s : State) (ws : List (Nat × Word)) : List (Nat × Word) :=
  let links := ws.filter (fun w => decide (0x4000 ≤ w.1) && decide (w.1 < 0x400C))
  let named := ws.filter (fun w => decide (0x6000 ≤ w.1) && decide (w.1 < 0x6100))
  let nodes := (links.flatMap (fun (w : Nat × Word) => [field (s.mapWord w.1) 31 24, field w.2.toNat 31 24]) ++ named.map (fun (w : Nat × Word) => w.1 - 0x6000)).eraseDups
  nodes.foldl (fun acc n =>
    Tab.put acc (0x6000 + n) (match Tab.find ws (0x6000 + n) with
      | some w => word (w.toNat % 4 + s.reaching ws n * 2 ^ 4)
      | none => (s.peerWord ws n).2)) ws

/-- A change of the map as it is published: both ends of a UCIe link agree, and the words follow that hold what other words say: the
links that reach a peer node, the counts of retired rows and pseudo-channels, the number of live clusters, that of known peers, the lowest floor and the highest
ceiling of the live tiles (R6, R12). -/
def State.derived (s : State) (ws0 : List (Nat × Word)) : List (Nat × Word) :=
  let links := ws0.filter (fun w => decide (0x1000 ≤ w.1) && decide (w.1 < 0x1040) && w.1 % 8 == 4)
  let ws := s.peerWords (s.countWords (links.foldl (fun ws w => s.linkWords ws ((w.1 - 0x1000) / 8) w.2.toNat) ws0))
  let w1 := s.mapThen ws 1
  let tile := fun (t : Nat) => s.mapThen ws (0x1000 + 8 * t)
  let live := (List.range 8).foldl (fun n t => if bit w1 t then n + popCount 18 (tile t) else n) 0
  let known := (s.knownPeers ws).2.toNat
  let w := setField (setField w1 15 8 live) 23 16 (field known 23 16)
  let clocks := ((List.range 8).filter (bit w1)).map (fun t => s.mapThen ws (0x1000 + 8 * t + 1))
  let floor := match clocks with | [] => 0 | m :: ms => ms.foldl (fun n v => min n (field v 15 0)) (field m 15 0)
  let ceiling := clocks.foldl (fun n v => max n (field v 31 16)) 0
  Tab.put (Tab.put ws 1 (word w)) 2 (word (floor + ceiling * 2 ^ 16))

/-- Live clusters of a tile once some words have changed. -/
def State.clustersThen (s : State) (ws : List (Nat × Word)) (t : Nat) : Nat :=
  if bit (s.mapThen ws 1) t then popCount 18 (s.mapThen ws (0x1000 + 8 * t)) else 0

/-- A change leaves each live tile at least 16 live clusters (R7), or as many as it had; a tile that goes out as a whole, and a cluster
that fails its scan (R355), are no matter of this (log 129, DEDUCED, unsafe). -/
def State.staffed (s : State) (ws : List (Nat × Word)) : Bool :=
  (List.range 8).all (fun t => !bit (s.mapThen ws 1) t || decide (16 ≤ s.clustersThen ws t)
    || (bit (s.mapWord 1) t && decide (s.clustersThen [] t ≤ s.clustersThen ws t)))

/-- A change leaves the floor of every tile that holds part of a reservation at 800 MHz or more (R8, R311). -/
def State.floorsKept (s : State) (ws : List (Nat × Word)) : Bool :=
  (List.range 8).all (fun t => decide (800 ≤ field (s.mapThen ws (0x1000 + 8 * t + 1)) 15 0)
    || !s.reservations.any (fun r => r.2.clusters.any (fun c => c / 18 == t)))

/-- The stores held for a node that is LIVE again are performed, in their order (R377). One that the peer refuses is not: its group, if it
is still there, takes `PAGE_PROTECTION` when it next orders the store (R376, log 113, DEDUCED, unsafe). -/
def State.performPosted (s : State) (node : Nat) : State :=
  let now := fun (p : Posted) => p.node == node && p.fate.isNone
  let refused := fun (p : Posted) => s.peerDenied.contains (node, (p.loc - peerLoc node 0) / 4096)
  if !s.posted.any now then s
  else (s.posted.filter (fun p => now p && !refused p)).foldl (fun (s : State) p => (s.endRels p.loc p.bytes.length).storeBytes p.loc p.bytes)
    { s with posted := (s.posted.filter (fun p => !now p || (refused p && p.gid != goneId))).map (fun p =>
        if now p then { p with fate := some .pageProtection } else p) }

/-- The stores held for a node that is LOST, or gone, will not be performed; those of groups that have gone are nobody's (R377). -/
def State.losePosted (s : State) (node : Nat) : State :=
  { s with posted := (s.posted.filter (fun p => p.node != node || p.gid != goneId)).map (fun p =>
      if p.node = node ∧ p.fate.isNone then { p with fate := some .remoteUnreachable } else p) }

/-- What the device keeps beside the map follows it: a narrowed cluster's bands 2 and 3 are gated, the bands that operations in
progress now run on are awake (R256, log 127, DEDUCED, unsafe), and a peer's time as
RECOVERING counts from when it became so (R377). -/
def State.followMap (s : State) (ws : List (Nat × Word)) : State :=
  ws.foldl (fun s w =>
    if 0x2000 ≤ w.1 ∧ w.1 < 0x2000 + 8 * 144 ∧ w.1 % 8 = 0 then
      let c := (w.1 - 0x2000) / 8
      let cl := s.cluster c
      let on := bit w.2.toNat 9
      if cl.narrow = on then s
      else
        let used := match Tab.find s.mccs c with
          | some m => (m.queue.filter (fun q => (q.kind == 2 || q.kind == 4) && q.started)).foldl (fun n q => n ||| bandsUsed on q.mask) 0
          | none => 0
        (s.setCluster c { cl with narrow := on, awake := (if on then cl.awake % 4 else cl.awake) ||| used }).restBands c (s.busyBands c)
    else if 0x6000 ≤ w.1 then
      let n := w.1 - 0x6000
      let s1 := if w.2.toNat % 4 = 1 then s.performPosted n else if w.2.toNat % 4 = 2 then s else s.losePosted n
      { s1 with recovering := if w.2.toNat % 4 = 2 then Tab.put s.recovering n 0 else Tab.del s.recovering n }
    else s) s

/-- The cost table with an entry raised, where the one given is dearer; there are 25 classes (R21, R304). -/
def raiseCost (t : Tab (Nat × Nat)) (e : Nat × Word × Word) : Tab (Nat × Nat) :=
  let o := Tab.read t e.1 (0, 0)
  let n := (max o.1 e.2.1.toNat, max o.2 e.2.2.toNat)
  if 25 ≤ e.1 ∨ n = o then t else Tab.put t e.1 n

/-- Publishes a change of the map (R13-R19, R21, R318): the words and `MAPV` change together; a degradation may raise cost
entries with it, is delivered to the contexts that it concerns, and voids the quotes of the running grids that it touches. A
change of nothing is no change. Bits of a word that R12 assigns to no field are stored as they come (log 149, DESIGN CHOICE, unsafe). -/
def State.publish (s : State) (ws0 : List (Nat × Word)) (costs : List (Nat × Word × Word)) : State :=
  let ws := (s.derived ws0).filter (fun w => w.2.toNat != s.mapWord w.1)
  if ws.isEmpty || s.checked then s
  else
    let us := ws.map (fun w => (w.1, (word (s.mapWord w.1) ^^^ w.2).toNat))
    let deg := ws.any (fun w => wordWorse w.1 (s.mapWord w.1) w.2.toNat)
    let bad := us.filter (fun u => wordWorse u.1 (s.mapWord u.1) ((Tab.read ws u.1 0).toNat))
    let hits := (s.ctxs.filter (fun e => e.2.live && bad.any (s.mapHits e.1))).map (·.1)
    let touched := s.touchedGrids us
    let s1 := s.mapWrite ws deg
    if s1.checked || !deg then (s1.followMap ws).settleCheck
    else
      let raised := costs.foldl raiseCost s1.costs
      let s2 := if raised = s1.costs then s1 else { s1 with costv := s1.mapv, costs := raised }
      let s3 := (s2.followMap ws)
      let s4 := hits.foldl (fun s c => s.deliverMap c s.mapv) s3
      touched.foldl (fun s g => s.voidQuote g blameDevice 8 .none true true) s4

/-- What a degradation takes away is out of use by every context (R15): a cluster is drained for a scan, a core has no team, an
MCC no operation, its bands no operation or shape while its cluster is drained for a scan (R251), an engine no work, and a stack no
page. -/
def State.outOfUse (s : State) (k old new : Nat) : Bool :=
  let gone := fun (b : Nat) => bit old b && !bit new b
  let teams := fun (core : Nat) => !(s.teamsOn core).isEmpty
  if k = 1 then (List.range 8).all (fun t => !gone t || (List.range 18).all (fun c => !s.clusterLive (18 * t + c) || (s.cluster (18 * t + c)).scanning))
  else if 0x1000 ≤ k ∧ k < 0x1040 then
    let t := (k - 0x1000) / 8
    match k % 8 with
    | 0 => (List.range 18).all (fun c => !gone c || (s.cluster (18 * t + c)).scanning)
    | 2 => !gone 0 || s.ctxs.all (fun e => !e.2.live || !s.pagesOn e.1 t)
    | 3 => (List.range 16).all (fun j => !gone j || ((s.engine (16 * t + j)).lists.isEmpty && (s.engine (16 * t + j)).copies.isEmpty))
    | _ => true
  else if 0x2000 ≤ k ∧ k < 0x2000 + 8 * 144 ∧ k % 8 = 0 then
    let c := (k - 0x2000) / 8
    let used := match Tab.find s.mccs c with | some m => m.bands | none => 0
    (List.range 4).all (fun q => !gone q || !teams (4 * c + q)) && (List.range 4).all (fun b => !gone (4 + b) || (!bit used b && (s.cluster c).scanning))
      && (!gone 8 || (Tab.find s.mccs c).isNone)
  else true

/-- `MAP_PUBLISH`: a degradation or a restoration becomes visible (R13), its elements out of use (R15). -/
def execMapPublish (m : MapChange) (s : State) : Host.Outcome State Fault Refusal :=
  let ws := s.retireRows m.writes
  let ok := ws.all (fun w => mapListed w.1 && w.1 != 0 && w.1 != 3 && s.outOfUse w.1 (s.mapWord w.1) w.2.toNat)
  if ok && s.staffed ws && s.floorsKept ws && 0 < s.mapv then .next (s.publish ws m.costs) else .next s

/-- `NARROWED_MODE`: a power alarm forces narrowed mode on a cluster, or it ends (R13, R256). -/
def execNarrowedMode (c : Nat) (on : Bool) (s : State) : Host.Outcome State Fault Refusal :=
  if c < 144 ∧ s.clusterLive c then
    .next (s.publish [(0x2000 + 8 * c, word (setField (s.clusterWord c) 9 9 (b2n on)))] [])
  else .next s

/-- The words that retire pseudo-channels of a stack; their count follows (R12). -/
def State.retirePcs (s : State) (stack : Nat) (pcs : List Nat) : List (Nat × Word) :=
  let at_ := fun (i : Nat) => s.mapWord (0x3000 + 12 * stack + i)
  let fresh := (pcs.filter (fun n => decide (n < 384) && !bit (at_ (n / 32)) (n % 32))).eraseDups
  let maps := (List.range 12).map (fun i =>
    (0x3000 + 12 * stack + i, word (fresh.foldl (fun v n => if n / 32 = i then v + 2 ^ (n % 32) else v) (at_ i))))
  maps

/-- `PATROL_SCRUB` (R12, R351): codewords are corrected in place; a bad symbol position is recorded as an erasure of its rank,
or, where the rank has two already, the pseudo-channels that it affects are retired; so is one that keeps failing. -/
def execPatrolScrub (f : ScrubFinding) (s : State) : Host.Outcome State Fault Refusal :=
  match f with
  | .clean => .next s
  | .symbol st rank pos affects =>
    let k := 0x3100 + 5 * st + rank
    let w := s.mapWord k
    let has := fun (b : Nat) => bit w (b + 6) && field w (b + 5) b == pos
    if 8 ≤ st ∨ 5 ≤ rank ∨ 36 ≤ pos ∨ has 0 ∨ has 8 ∨ s.mapv = 0 then .next s
    else if !bit w 6 then .next (s.publish [(k, word (setField w 6 0 (64 + pos)))] [])
    else if !bit w 14 then .next (s.publish [(k, word (setField w 14 8 (64 + pos)))] [])
    else .next (s.publish (s.retirePcs st affects) [])
  | .failing st pc => if st < 8 ∧ 0 < s.mapv then .next (s.publish (s.retirePcs st [pc]) []) else .next s

/-- The gangs that have a team or their MCC on a cluster. -/
def State.gangsOn (s : State) (c : Nat) : List Nat :=
  (s.gangs.filter (fun e => !e.2.done && !e.2.suspended &&
    ((e.2.usesMcc && e.2.cluster == c) || (s.gangTeams e.1).any (fun t => t.2.core / 4 == c)))).map (·.1)

/-- The reservations that hold a cluster (R311). -/
def State.holding (s : State) (c : Nat) : List Nat := (s.reservations.filter (fun r => r.2.clusters.contains c)).map (·.1)

/-- The time between the scans of a cluster in hub-die cycles, 200 ms, and the time that the scans of all built clusters take (R352). -/
def scanPeriod : Nat := 200000000
def scanRound : Nat := 144 * 50000

/-- The drains that a reservation allows of each of its clusters, from the bound of the dearest of its quotes (R306): a bound is
W + 50,000 ns for each 200 ms of W. -/
def State.drainsAllowed (s : State) (r : Nat) : Nat :=
  (s.quotes.filter (fun q => q.2.res == r)).foldl (fun n q => max n (q.2.bound / (scanPeriod + 50000))) 0

/-- A cluster may be drained for a scan: no reservation has had its allowance of it, or its deadline forces the scan, since the scans
that may come before it would take too long (R306, R316, R352, log 132, DEDUCED, unsafe). -/
def State.mayDrain (s : State) (c : Nat) : Bool :=
  let cl := s.cluster c
  (s.holding c).all (fun r => decide ((cl.drains.filter (· == r)).length < s.drainsAllowed r))
    || decide (scanPeriod ≤ (s.hub + 2 ^ 64 - cl.scanBegan) % 2 ^ 64 + scanRound)

/-- `SCAN`: one cluster at a time is drained, each gang there suspended by device action, and its patterns run (R352). -/
def execScan (c : Nat) (s : State) : Host.Outcome State Fault Refusal :=
  let busy : Bool := match Tab.find s.mccs c with
    | some m => !m.queue.isEmpty && !(s.gangsOn c).any (fun k => (s.gang k).usesMcc && (s.gang k).cluster == c)
    | none => false
  if 144 ≤ c ∨ !s.clusterLive c ∨ busy ∨ !s.mayDrain c ∨ s.clusters.any (fun e => e.2.scanning) then .next s
  else
    let s1 := (s.gangsOn c).foldl (fun s k => s.suspendGang k false) s
    let cl := s1.cluster c
    .next ((s1.setCluster c { cl with scanning := true, scans := cl.scans + 1, scanBegan := s.hub,
                                      drains := cl.drains ++ (s.holding c) }).charge).settleCheck

/-- The tray headers whose slots a cluster filled before its present scan began, with the indices (R172). -/
def State.filledBefore (s : State) (c : Nat) : List (Nat × Nat) :=
  (s.fills.filter (fun e => e.2.2.1 == c && decide (e.2.2.2 < (s.cluster c).scans))).map (fun e => (e.1, e.2.1))

/-- Resolution runs at trays (R171). -/
def State.resolveAll (s : State) (hs : List Nat) : State := hs.eraseDups.foldl (fun s h => resolveTray h 65 s) s

/-- `SCAN_PASS`: the cluster takes the next mark, what it filled before the scan is proofed, and its completions may be final
(R172, R352-R354). -/
def execScanPass (c : Nat) (s : State) : Host.Outcome State Fault Refusal :=
  let cl := s.cluster c
  if !cl.scanning then .next s
  else
    let n := (s.scanSeq + 1) % 2 ^ 24
    let done := s.filledBefore c
    let fns := (cl.work.map (·.1)).eraseDups
    let s1 := { s.setCluster c { cl with scanning := false, proof := n, work := [], grids := [] } with
      scanSeq := n
      fills := s.fills.filter (fun e => !(e.2.2.1 == c && done.contains (e.1, e.2.1)))
      proofed := s.proofed ++ done.filter (fun e => !s.proofed.contains e) }
    let s2 := s1.resolveAll (done.map (·.1))
    .next (fns.foldl (fun s f => s.finalRise f) s2)

/-- The words that retire a cluster: its bit, its units and the count of live clusters (R12, R16). -/
def State.retireCluster (s : State) (c : Nat) : List (Nat × Word) :=
  let k := 0x1000 + 8 * (c / 18)
  [(k, word (setField (s.mapWord k) (c % 18) (c % 18) 0)), (0x2000 + 8 * c, word (setField (s.clusterWord c) 8 0 0))]

/-- The interface on which a completion of a function was recorded. -/
def State.completionCtx (s : State) (w : Nat × Nat) : Option Nat :=
  (s.grids.find? (fun e => e.2.complete && e.2.seq == w.2 && (s.ctx e.2.ctx).fn == w.1)).map (·.2.ctx)

/-- `SCAN_FAIL`: the cluster is retired; SUSPECT records name the completions that it worked for since its last pass; `SCAN_FAIL` goes
to the running grids that it worked for, which stay unproofed, as the cluster never passes again (R353, log 133, DEDUCED, unsafe), and
to the host where a grid has no steward (log 102, DESIGN CHOICE, unsafe); held slots that it filled are vetoed; and the contexts
concerned have it in their logs (R172, R355). -/
def execScanFail (c : Nat) (s : State) : Host.Outcome State Fault Refusal :=
  let cl := s.cluster c
  if !cl.scanning then .next s
  else
    let s1 := s.publish (s.retireCluster c) []
    let named := ((List.range cl.work.length).zip cl.work).filterMap (fun e => (s.completionCtx e.2).map (fun k => (e.1, e.2, k)))
    let s2 := named.foldl (fun s e =>
      s.record e.2.2 5 0 [word e.2.1.2, word (c + 256 * b2n (e.1 + 1 == cl.work.length)), word s.mapv, word cl.proof]) s1
    let run := cl.grids.filter (fun g => !(s2.grid g).complete)
    let s3 := run.foldl (fun s g => s.toSteward g .scanFail c (fun t => t.hostReq (t.grid g).ctx g 0 0 0 0 c Cause.scanFail.code)) s2
    let held := (s3.fills.filter (fun e => e.2.2.1 == c)).map (fun e => (e.1, e.2.1))
    let s4 := { s3 with vetoed := s3.vetoed ++ held.filter (fun e => !s3.vetoed.contains e), fills := s3.fills.filter (fun e => e.2.2.1 != c)
                        suspects := s3.suspects ++ cl.work }
    let s5 := s4.resolveAll (held.map (·.1))
    let ctxs := (named.map (·.2.2) ++ run.map (fun g => (s5.grid g).ctx)).eraseDups
    let s6 := ctxs.foldl (fun s k => s.logEntry k Cause.scanFail.code 5 (placeOf (gidOf c 64)) 0 0 0 0 0) s5
    let s7 := s6.setCluster c { s6.cluster c with scanning := false, work := [], grids := run }
    .next (((cl.work.map (·.1)).eraseDups).foldl (fun s f => s.finalRise f) s7)

/-- `LINK_STATE_CHANGE`: a link's word changes, and with it the peers that it reached and reaches (R374, R377, R379). -/
def execLinkStateChange (l : LinkRef) (w : Word) (s : State) : Host.Outcome State Fault Refusal :=
  if s.mapv = 0 then .next s
  else
    match l with
    | .ucie t => if t < 8 then .next (s.publish [(0x1000 + 8 * t + 4, w)] []) else .next s
    | .port n =>
      if 15 ≤ n ∨ 4 ≤ w.toNat % 8 then .next s
      else if 12 ≤ n then .next (s.publish [(0x4000 + n, word (w.toNat % 2 ^ 24))] [])
      else
        let ws := [(0x4000 + n, w)]
        let nodes := [field (s.mapWord (0x4000 + n)) 31 24, field w.toNat 31 24].eraseDups
        .next (s.publish (ws ++ nodes.map (s.peerWord ws)) [])

/-- A group's split waits on an access to a node, or on an object in its memory (R317). -/
def State.awaitsPeer (s : State) (g : Group) (node : Nat) : Bool :=
  g.splits.any (fun p => match p.wait with
    | some w => w == .peer node || s.waitPeer g w == some node
    | none => false)

/-- `PEER_LOST`: a peer that has been RECOVERING for `NIRTO` cycles is LOST; the quotes of grids that wait on it are void with blame
PEER; what waits there traps, or issues again and traps (R317, R318, R377). -/
def execPeerLost (node : Nat) (s : State) : Host.Outcome State Fault Refusal :=
  if s.peerState node = 2 ∧ (s.hubReg 0x4A4).toNat ≤ Tab.read s.recovering node 0 then
    let mccs := s.mccs.filter (fun e => e.2.queue.any (fun q => q.waiting && s.queuePeer e.1 q == some node))
    let parties := s.groups.filter (fun e => s.awaitsPeer e.2 node || (e.2.mcc && mccs.any (fun m => m.1 == gidCluster e.1)))
    let gs := (parties.map (fun e => (s.gang e.2.gang).grid)).eraseDups
    let s0 := s.losePeer node
    let s1 := s0.publish [(0x6000 + node, word (setField (s.mapWord (0x6000 + node)) 1 0 3))] []
    .next (gs.foldl (fun s g => s.voidQuote g blamePeer 0 .remoteUnreachable true false) s1).settleCheck
  else .next s

/-- An open peer window holds a range of local HBM (R363, R376). -/
def State.inWindow (s : State) (a n : Nat) : Bool :=
  (List.range 4).any (fun w =>
    let base := (s.hubReg (0x4C0 + 8 * w)).toNat * 4096
    let pages := (s.hubReg (0x4C4 + 8 * w)).toNat
    decide (base ≤ a) && decide (a + n ≤ base + 4096 * pages))

/-- `PEER_ACCESS`: performed inside an open window and on local HBM, neither stamped nor checked; refused otherwise (R197, R376). A
write of a sync-typed granule is refused too (R176). -/
def execPeerAccess (a : PeerAccess) (s : State) : Host.Outcome State Fault Refusal :=
  let n := match a.write with | some bs => bs.length | none => a.len
  let loc := hbmLoc a.addr
  if s.peerState a.node = 1 ∧ 0 < n ∧ a.addr + n ≤ 2 ^ 64 ∧ s.inWindow a.addr n ∧ s.hbmOk a.addr ∧ s.hbmOk (a.addr + n - 1) then
    match a.write with
    | none => .next s
    | some bs => if s.isSync loc n then .next s else .next ((s.endRels loc n).storeBytes loc bs)
  else .next s

/-- The leaf of a context at an address, with its level, location and value, if one is there (R149, R150). -/
def State.leafAt (s : State) (ctx va : Nat) : Option (Nat × Nat × Nat) :=
  match walkFrom s { ctx := ctx, part := 0, user := false, tlbs := [], who := none } va 5 (s.ctx ctx).root [] with
  | .ok l => if l.tile.isNone then l.walk.getLast?.map (fun e => ((Nat.log2 l.size - 12) / 9, e.1, e.2)) else none
  | .error _ => none

/-- Demotion from a tier is on: its low mark is not 0 and its high mark not below it (R158). -/
def State.demotes (s : State) (tier : Nat) : Bool :=
  let lo := (s.hubReg (0x200 + 8 * tier)).toNat
  let hi := (s.hubReg (0x204 + 8 * tier)).toNat
  decide (0 < lo) && decide (lo ≤ hi)

/-- `DEMOTION`: the clock scan comes to a page whose tier field lets it go lower; one with A set has it cleared and is passed over,
one with A clear begins to migrate (R158). How many pages are free, and where the scan stands, the device does not show. A page of a
tile leaf is never demoted (log 137, DESIGN CHOICE, unsafe). -/
def execDemotion (ctx va : Nat) (s : State) : Host.Outcome State Fault Refusal :=
  match s.leafAt ctx va with
  | none => .next s
  | some (_, loc, e) =>
    let ty := field e 4 2
    let tier := field e 53 52
    let lower := (ty = 0 ∧ (tier = 1 ∨ tier = 2)) ∨ (ty = 1 ∧ tier = 2)
    if !(s.ctx ctx).live ∨ !lower ∨ !s.demotes ty ∨ bit e 11 then .next s
    else if bit e 9 then .next (s.storeBytes loc (bytesLE 8 (setField e 9 9 0)))
    else .next { s.storeBytes loc (bytesLE 8 (setField e 11 11 1)) with migrations := s.migrations ++ [(ctx, va, ty + 1, loc)] }

/-- `MIGRATION_DONE`: the page's bytes lie in their new frame, its entry is rewritten, stale entries leave the TLBs and M clears (R158,
R200). A frame of CXL memory is one that a decoder covers. -/
def execMigrationDone (ctx va frame : Nat) (s : State) : Host.Outcome State Fault Refusal :=
  match s.migrations.find? (fun m => m.1 == ctx && m.2.1 == va), s.leafAt ctx va with
  | some m, some (lvl, loc, e) =>
    let ty := m.2.2.1
    let size := 2 ^ (12 + 9 * lvl)
    let at_ := fun (t a : Nat) => if t = 0 then hbmLoc a else if t = 1 then cxlLoc a else hostLoc a
    let old := field e 51 12 * 2 ^ 12 / size * size
    let new := frame * 2 ^ 12 % 2 ^ 52 / size * size
    if loc ≠ m.2.2.2 ∨ !bit e 11 ∨ (ty = 1 ∧ (s.cxlPort new).isNone) then .next s
    else
      let e1 := setField (setField (setField e 4 2 ty) 51 12 (new / 2 ^ 12)) 11 11 0
      let s1 := (s.relocate (at_ (field e 4 2) old) (at_ ty new) size).clearStamps (at_ ty new) size
      .next { s1.storeBytes loc (bytesLE 8 e1) with tlb := s1.tlb.filter (fun t => t.loc != loc), migrations := s.migrations.erase m }
  | _, _ => .next s

end Sys2Proof.Machine
end

