-- ==== Sys2Proof/Machine/Digest.lean ====
section
/-! DEFINITION. The SHA3-512 digest of R299, R356, R383 and R384, computed as FIPS 202 defines the function that the spec names
(log 40, PRESUMED, unsafe). The sponge holds its 1,600 bits as 25 words; its rotation distances and round constants are made by the
rules that define them, so no table stands here. -/
namespace Sys2Proof.Machine

/-- A 64-bit word turned left. -/
def turn64 (w n : Nat) : Nat := (w <<< (n % 64)) % 2 ^ 64 ||| w >>> (64 - n % 64)

/-- The sponge between rounds: its words, word x + 5 y at column x of plane y, and the shift register of the round constants. -/
structure Sponge where
  words : List Nat
  shift : Nat
deriving DecidableEq, Repr

/-- The empty sponge. -/
def Sponge.zero : Sponge := { words := List.replicate 25 0, shift := 1 }

/-- The shift register after one more bit: x^8 + x^6 + x^5 + x^4 + 1. -/
def nextShift (r : Nat) : Nat := if r < 128 then 2 * r else (2 * r) ^^^ 0x171

/-- Seven bits of the shift register, each at a place one short of a power of two: the constant of a round, and the register after it. -/
def roundBits (r : Nat) : Nat × Nat :=
  (List.range 7).foldl (fun (acc : Nat × Nat) j => (acc.1 ^^^ (acc.2 % 2) <<< (2 ^ j - 1), nextShift acc.2)) (0, r)

/-- Every word takes in the parity of the column before it and the turned parity of the column after it. -/
def mixColumns (ws : List Nat) : List Nat :=
  let parity := (List.range 5).map (fun x => (List.range 5).foldl (fun p y => p ^^^ ws.getD (5 * y + x) 0) 0)
  ws.mapIdx (fun i w => w ^^^ (parity.getD ((i + 4) % 5) 0 ^^^ turn64 (parity.getD ((i + 1) % 5) 0) 1))

/-- The words but the first go round one cycle of 24 places, each turned by a triangular number as it moves on. -/
def scatter (ws : List Nat) : List Nat :=
  ((List.range 24).foldl (fun (acc : List Nat × Nat) t =>
    let target := acc.2 / 5 + 5 * ((2 * (acc.2 % 5) + 3 * (acc.2 / 5)) % 5)
    (acc.1.set target (turn64 (ws.getD acc.2 0) ((t + 1) * (t + 2) / 2)), target)) (ws, 1)).1

/-- Within a plane a word takes in the bits of the second word after it that the next word lacks. -/
def mixPlanes (ws : List Nat) : List Nat :=
  ws.mapIdx (fun i w =>
    let next := ws.getD (i / 5 * 5 + (i + 1) % 5) 0
    w ^^^ ((next ||| ws.getD (i / 5 * 5 + (i + 2) % 5) 0) ^^^ next))

/-- One round. -/
def Sponge.round (p : Sponge) : Sponge :=
  let bits := roundBits p.shift
  { words := (mixPlanes (scatter (mixColumns p.words))).modify 0 (fun w => w ^^^ bits.1), shift := bits.2 }

/-- `n` rounds. -/
def Sponge.rounds : Nat → Sponge → Sponge
  | 0, p => p
  | n + 1, p => Sponge.rounds n p.round

/-- A block of nine words taken in and 24 rounds, the shift register started anew. -/
def Sponge.take (p : Sponge) (block : List Nat) : Sponge :=
  Sponge.rounds 24 { words := p.words.mapIdx (fun i w => w ^^^ block.getD i 0), shift := 1 }

/-- The 64-bit words of whole blocks, in order. -/
def longWords (bs : List Byte) : List Nat := (List.range (bs.length / 8)).map (fun i => natLE ((bs.drop (8 * i)).take 8))

/-- A message with its ending: the bits 01 of the function and a 1 after them, zeros, and a last 1 that fills the block. -/
def sha3Message (msg : List Byte) : List Byte :=
  let room := 71 - msg.length % 72
  msg ++ (if room = 0 then [0x86] else 0x06 :: (List.replicate (room - 1) 0 ++ [0x80]))

/-- SHA3-512 of a message: 64 bytes. -/
def sha3 (msg : List Byte) : List Byte :=
  let ws := longWords (sha3Message msg)
  let p := (List.range (ws.length / 9)).foldl (fun p k => p.take ((ws.drop (9 * k)).take 9)) Sponge.zero
  (p.words.take 8).flatMap (bytesLE 8)

end Sys2Proof.Machine
end

