-- ==== Sys2Proof/Machine/Image.lean ====
section
/-! DEFINITION. Praip images in host memory (R299-R302, R275). The spec gives the sections' contents; where each field of the
header and of a jump table lies is the model's (log 41, DESIGN CHOICE, unsafe). -/
namespace Sys2Proof.Machine

/-- A 32-bit word of a byte list. -/
def wordAt (bs : List Byte) (off : Nat) : Nat := natLE ((bs.drop off).take 4)

/-- A section of an image: its kind, its first byte and its length. -/
structure Section where
  kind : Nat
  off : Nat
  len : Nat
deriving DecidableEq, Repr

/-- The sections that an image's directory lists, of entries of 12 bytes from 0x4C (R299, log 41, DESIGN CHOICE, unsafe). -/
def sectionsOf (img : List Byte) : List Section :=
  (List.range (min (wordAt img 0x48) 64)).map (fun j =>
    ⟨wordAt img (0x4C + 12 * j), wordAt img (0x4C + 12 * j + 4), wordAt img (0x4C + 12 * j + 8)⟩)

/-- The header's length, its directory included (log 41, DESIGN CHOICE, unsafe). -/
def headerLen (img : List Byte) : Nat := 0x4C + 12 * wordAt img 0x48

/-- Two sections share a byte. -/
def Section.meets (a b : Section) : Bool := decide (0 < a.len) && decide (0 < b.len) && decide (a.off < b.off + b.len) && decide (b.off < a.off + a.len)

/-- No section meets a later one of the list. -/
def sectionsApart : List Section → Bool
  | [] => true
  | a :: rest => rest.all (fun b => !a.meets b) && sectionsApart rest

/-- The magic word, version and digest of an image are right, and its sections lie in it, apart, after the header (R299). -/
def imageOk (img : List Byte) (isa : Nat) : Bool :=
  let n := headerLen img
  wordAt img 0 == 0x50524149 && wordAt img 4 == isa && decide (wordAt img 0x48 ≤ 64) && decide (n ≤ img.length)
    && (img.drop 8).take 64 == sha3 (img.drop n)
    && (sectionsOf img).all (fun e => decide (n ≤ e.off) && decide (e.off + e.len ≤ img.length)) && sectionsApart (sectionsOf img)

/-- The bytes of the section of a kind; none where there is none. -/
def sectionOf (img : List Byte) (kind : Nat) : List Byte :=
  match (sectionsOf img).find? (fun e => e.kind == kind) with
  | some e => (img.drop e.off).take e.len
  | none => []

/-- The entries of a span of a section with entries of `n` bytes, where the span lies in the section. -/
def spanOf (bs : List Byte) (n first count : Nat) : Option (List (List Byte)) :=
  if n * (first + count) ≤ bs.length then some ((List.range count).map (fun j => (bs.drop (n * (first + j))).take n)) else none

/-- A limit-table entry (R301). -/
def limitOf (e : List Byte) : Limit :=
  let a := wordAt e 0
  { mcc := bit a 27, key := field a 23 0, kind := field a 26 24, n := wordAt e 4, endA := field (wordAt e 8) 23 0 }

/-- A bucket entry (R302). -/
def bucketOf (e : List Byte) : Bucket :=
  let a := wordAt e 0
  { n := field a 27 24, entry := field a 23 0, pad := bit a 28,
    ranges := (List.range 4).map (fun j => (wordAt e (4 + 8 * j), wordAt e (8 + 8 * j))) }

/-- A clause-table entry (R275). -/
def clauseOf (e : List Byte) : Clause :=
  let v := natLE e
  { n := field v 31 24, start := field v 23 0, len := field v 48 32, reps := field v 50 49 + 1 }

/-- The jump tables of a section: number, entry count and entry offsets of each (R299, log 41, DESIGN CHOICE, unsafe). -/
def jtabsOf : Nat → List Byte → List (Nat × List Nat)
  | 0, _ => []
  | fuel + 1, bs =>
    if bs.length < 8 then []
    else
      let n := wordAt bs 4
      if bs.length < 8 + 4 * n then []
      else (wordAt bs 0, (List.range n).map (fun j => wordAt bs (8 + 4 * j))) :: jtabsOf fuel (bs.drop (8 + 4 * n))

/-- The words of a byte list. -/
def wordsOf (bs : List Byte) : List Word := (List.range (bs.length / 4)).map (fun j => word (wordAt bs (4 * j)))

/-- A kernel as its record and its spans give it (R300); none where a span leaves its section. -/
def kernelOf (img : List Byte) (idx : Nat) : Option Kernel := do
  let recs ← spanOf (sectionOf img 3) 64 idx 1
  let r := recs.headD []
  let w := fun (off : Nat) => wordAt r off
  let lo := fun (off : Nat) => field (w off) 15 0
  let hi := fun (off : Nat) => field (w off) 31 16
  let code := sectionOf img 1
  let mcc := sectionOf img 2
  let cs := field (w 0) 23 0
  let cl := field (w 4) 23 0
  let ms := field (w 8) 23 0
  let ml := field (w 0x0C) 23 0
  let limits ← spanOf (sectionOf img 4) 16 (lo 0x10) (hi 0x10)
  let buckets ← spanOf (sectionOf img 9) 40 (field (w 0x14) 7 0) (field (w 0x14) 15 8)
  let clauses ← spanOf (sectionOf img 5) 8 (lo 0x1C) (hi 0x1C)
  let consts ← spanOf (sectionOf img 7) 4 (lo 0x24) (hi 0x24)
  let tensors ← spanOf (sectionOf img 8) 48 (lo 0x28) (hi 0x28)
  let jt := jtabsOf 65536 (sectionOf img 6)
  if cs + cl ≤ code.length ∧ (ms = 0xFFFFFF ∨ ms + ml ≤ mcc.length) ∧ lo 0x20 + hi 0x20 ≤ jt.length then
    some { idx := idx, base := cs, code := (code.drop cs).take cl, mccBase := if ms = 0xFFFFFF then 0 else ms,
           mcc := if ms = 0xFFFFFF then none else some ((mcc.drop ms).take ml), limits := limits.map limitOf,
           buckets := buckets.map bucketOf, clauses := clauses.map clauseOf, jtabs := (jt.drop (lo 0x20)).take (hi 0x20),
           consts := consts.map (fun e => word (wordAt e 0)), tensors := tensors.map wordsOf, stages := field (w 0x14) 20 16,
           rows := field (w 0x18) 15 0, xblocks := field (w 0x18) 21 16, args := field (w 0x18) 27 22 }
  else none

end Sys2Proof.Machine
end

