-- ==== Sys2Proof/Machine/Pricing.lean ====
section
/-! DEFINITION. The Quotation Unit's walker (R303-R307): what it refuses, what a routine costs, and the budgets of a quote. -/
namespace Sys2Proof.Machine

/-- The refusal reasons of R303 and of R367. -/
def rNoLimit : Nat := 1
def rUnstructured : Nat := 2
def rMixed : Nat := 3
def rShape : Nat := 4
def rSpill : Nat := 5
def rNoFit : Nat := 6
def rExpired : Nat := 7
def rMap : Nat := 8
def rImage : Nat := 9
def rCeiling : Nat := 10
def rUsed : Nat := 11
def rNoBucket : Nat := 12
def rUnknown : Nat := 13
def rFormat : Nat := 0x80
def rSeq : Nat := 0x81
def rPasid : Nat := 0x82
def rNoContext : Nat := 0x83
def rTray : Nat := 0x84
def rBusy : Nat := 0x85

/-- A section of a kernel's code as the walker reads it: its words decoded, and where it lies in the image's section. -/
structure Sect where
  mcc : Bool
  base : Nat
  ops : List Instr
deriving DecidableEq, Repr

/-- A kernel's group code, or its `.mcc` routine. -/
def Kernel.sect (k : Kernel) (mcc : Bool) : Sect :=
  { mcc := mcc, base := if mcc then k.mccBase else k.base, ops := (wordsOf (if mcc then k.mcc.getD [] else k.code)).map decode }

/-- The word at an offset; past the end, a word of zeros. -/
def Sect.at (t : Sect) (i : Nat) : Instr := t.ops.getD (i / 4) .illegalZero

/-- The offsets of a section's words. -/
def Sect.offsets (t : Sect) : List Nat := (List.range t.ops.length).map (4 * ·)

/-- The limit of a kind on an item of a section (R301). -/
def Kernel.limitAt (k : Kernel) (t : Sect) (kind i : Nat) : Option Limit :=
  k.limits.find? (fun e => e.kind == kind && e.mcc == t.mcc && e.key == t.base + i)

/-- A loop as its limit entry gives it: its `LPB`, the address after its `LPE`, and its trips. -/
structure LoopSpan where
  lpb : Nat
  endA : Nat
  trips : Nat
deriving DecidableEq, Repr

/-- The loops of a section. -/
def Kernel.loops (k : Kernel) (t : Sect) : List LoopSpan :=
  t.offsets.filterMap (fun i =>
    match t.at i with
    | .lpb _ => (k.limitAt t 0 i).map (fun e => ⟨i, e.endA - t.base, e.n⟩)
    | _ => none)

/-- A place lies in a loop's body, its `LPE` included. -/
def LoopSpan.has (l : LoopSpan) (i : Nat) : Bool := decide (l.lpb < i) && decide (i < l.endA)

/-- A transfer from `i` to `j` enters a loop body that does not hold `i` (R303). -/
def entersLoop (ls : List LoopSpan) (i j : Nat) : Bool := ls.any (fun l => l.has j && !l.has i)

/-- The target of a B-format word at `i` (R64). -/
def jumpTo (i : Nat) (off : BitVec 22) : Nat := wrapNat 32 ((i : Int) + 4 * off.toInt)

/-- The clause of a sentence that holds an offset of the group code. -/
def Kernel.clauseNo (k : Kernel) (t : Sect) (i : Nat) : Option Nat :=
  if t.mcc then none else (k.clauses.find? (fun c => c.holds (t.base + i))).map (·.n)

/-- A transfer leaves its clause (R281). -/
def Kernel.crosses (k : Kernel) (t : Sect) (i j : Nat) : Bool := k.sentence && !t.mcc && k.clauseNo t i != k.clauseNo t j

/-- The waiting instructions of R77. -/
def isWaiting : Instr → Bool
  | .xacq _ | .join _ | .barw _ | .baraw _ | .tbar _ | .trc _ | .trw _ | .lwait _ | .mwait _ | .mswap _ | .mstr _ => true
  | _ => false

/-- The target of a `CALL` or an entry of a jump table is a routine entry that carries a depth limit, outside loops that do not
hold the transfer (R303). -/
def Kernel.routineOk (k : Kernel) (t : Sect) (ls : List LoopSpan) (i j : Nat) : Bool :=
  (k.limitAt t 2 j).isSome && !entersLoop ls i j

/-- What the target of a `CALL` or an entry of a jump table is refused for, or 0 (R78, R303): a word of the section that the `CALL` or
the table makes a routine entry and that has no depth limit is an item without a limit (log 75, DESIGN CHOICE, unsafe). -/
def Kernel.callRefusal (k : Kernel) (t : Sect) (ls : List LoopSpan) (i j : Nat) : Nat :=
  if k.routineOk t ls i j then 0
  else if (k.limitAt t 2 j).isNone ∧ j % 4 = 0 ∧ j / 4 < t.ops.length then rNoLimit
  else rUnstructured

/-- What the structure rules refuse of the word at `i`, or 0 (R77, R78, R303). -/
def Kernel.wordRefusal (k : Kernel) (t : Sect) (ls : List LoopSpan) (i : Nat) : Nat :=
  let travel := fun (j : Nat) => k.crosses t i j && (k.limitAt t 3 i).isNone
  match t.at i with
  | .lpb _ =>
    match k.limitAt t 0 i with
    | none => rNoLimit
    | some e =>
      match (t.offsets.filter (fun j => decide (i < j))).find? (fun j => match t.at j with | .lpe _ => true | _ => false) with
      | some j => if e.endA = t.base + j + 4 then 0 else rUnstructured
      | none => rUnstructured
  | .lpe o =>
    match ls.find? (fun l => l.endA == i + 4) with
    | none => rUnstructured
    | some l =>
      if jumpTo i o ≠ l.lpb + 4 then rUnstructured
      else if travel (jumpTo i o) ∨ travel l.endA ∨ (k.crosses t l.lpb l.endA ∧ (k.limitAt t 3 i).isNone) then rNoLimit
      else 0
  | .br o =>
    let j := jumpTo i o
    if travel j then rNoLimit else if j ≤ i ∨ entersLoop ls i j then rUnstructured else 0
  | .call o => if travel (jumpTo i o) then rNoLimit else k.callRefusal t ls i (jumpTo i o)
  | .callt _ =>
    if k.jtabs.isEmpty then rUnstructured
    else (((k.jtabs.flatMap (·.2)).map (k.callRefusal t ls i)).find? (· != 0)).getD 0
  | .launch _ => if (k.limitAt t 4 i).isNone then rNoLimit else 0
  | w => if isWaiting w && (k.limitAt t 1 i).isNone then rNoLimit else 0

/-- The first refusal of a section, or 0. -/
def Kernel.sectRefusal (k : Kernel) (t : Sect) : Nat :=
  let ls := k.loops t
  ((t.offsets.map (k.wordRefusal t ls)).find? (· != 0)).getD 0

/-- What the entries of the kernel's jump tables are refused for, or 0, whether a `CALLT` names the table or not (R78, R303): each has
a depth limit in one of its sections; a word of a section without one is a routine entry that lacks its limit (log 75, DESIGN CHOICE, unsafe). -/
def Kernel.jtabRefusal (k : Kernel) : Nat :=
  let one := fun (j : Nat) =>
    if (k.limitAt (k.sect false) 2 j).isSome ∨ (k.limitAt (k.sect true) 2 j).isSome then 0
    else if j % 4 = 0 ∧ (j / 4 < (k.sect false).ops.length ∨ j / 4 < (k.sect true).ops.length) then rNoLimit
    else rUnstructured
  (((k.jtabs.flatMap (·.2)).map one).find? (· != 0)).getD 0

/-- A cost: cycles, energy in pJ, and the instruction-store lines that its words occupy. -/
structure Price where
  cycles : Nat
  pj : Nat
  lines : List (Bool × Nat)
deriving DecidableEq, Repr

def Price.zero : Price := ⟨0, 0, []⟩

/-- A sum of costs. -/
def Price.add (a b : Price) : Price := ⟨a.cycles + b.cycles, a.pj + b.pj, (a.lines ++ b.lines).eraseDups⟩

/-- A cost counted `n` times; its lines are the same ones. -/
def Price.times (n : Nat) (a : Price) : Price := ⟨n * a.cycles, n * a.pj, a.lines⟩

/-- The greater cost, by cycles. -/
def Price.larger (a b : Price) : Price := if a.cycles < b.cycles then ⟨b.cycles, max a.pj b.pj, (a.lines ++ b.lines).eraseDups⟩ else ⟨a.cycles, max a.pj b.pj, (a.lines ++ b.lines).eraseDups⟩

/-- What the walker prices with: a kernel, the cost table, the class of memory accesses, and whether a cluster may be narrowed
(R305). -/
structure Pricer where
  k : Kernel
  costs : Tab (Nat × Nat)
  mem : Nat
  narrow : Bool
deriving DecidableEq, Repr

/-- `n` units of a cost class (R304). -/
def Pricer.cls (w : Pricer) (c n : Nat) : Price :=
  let e := Tab.read w.costs c (0, 0)
  ⟨n * e.1, n * e.2, []⟩

/-- The class of an instruction (R304, R305). -/
def Pricer.classOf (w : Pricer) : Instr → Nat
  | .div _ | .rem _ | .rcp _ | .rsq _ | .sqrt _ | .exp2 _ | .log2 _ | .tanh _ | .cvtF32 _ | .cvtBf16 _ | .cvtF16 _ | .cvtE4m3 _
  | .cvtE5m2 _ | .cvtE2m1 _ | .cvtDy8 _ | .cvtI32 _ | .cvtN32 _ | .cvtI8 _ | .cvtN8 _ => 1
  | .lds32 _ | .lds64 _ | .lds128 _ | .sts32 _ | .sts64 _ | .sts128 _ => 2
  | .ldg32 _ | .ldg64 _ | .ldg128 _ | .stg32 _ | .stg64 _ | .stg128 _ | .atmUnp _ _ | .atmCom _ _ | .atmNor _ _ | .atmQnt _ _
  | .atmSpc _ _ | .atmAcq _ _ | .atmRel _ _ | .atmAr _ _ => w.mem
  | .fenceAcq _ | .fenceRel _ | .fenceAr _ | .flushq _ => 7
  | .bari _ | .bara _ | .barw _ | .baraw _ | .tbar _ | .tri _ | .trc _ | .trf _ | .trw _ | .trr _ | .tro _ | .trv _ | .trq _
  | .xacq _ => 9
  | .slrun _ | .stail _ | .tcopy _ | .tcopyv _ => 17
  | .launch _ => 18
  | .yld _ => 20
  | .trap _ | .bkpt _ => 21
  | .maprd _ | .mapack _ | .lwait _ => 23
  | _ => 0

/-- One band wake: the latency that `CAPWAKE` gives, at the energy of class 15 (R22, R305). -/
def Pricer.wake (w : Pricer) : Price := ⟨96, (w.cls 15 1).pj, []⟩

/-- The most rows that an `MSTR` with `b` as its count can stream (R268, R305): 1 or 2 where `b` is the constant `zero` or `one`,
which the image shows (R55), and the largest encodable count where a register or an identity constant holds it. -/
def mstrRows (b : Operand) : Nat := if b.toNat = 108 then 1 else if b.toNat = 109 then 2 else 128

/-- The own class of a word (R305): an `MSTR` at its rows and at the smallest payload, half a row a beat, which a format held in a
register can have; `MWL`, `MDRN` and `MCLR` at the rule's own counts. -/
def Pricer.own (w : Pricer) : Instr → Price
  | .mstr f => ((w.cls 11 (2 * mstrRows f.b * (if w.narrow then 2 else 1))).add (w.cls 12 1)).add w.wake
  | .mwl _ => w.cls 13 256
  | .mdrn _ | .mclr _ => w.cls 14 128
  | i => w.cls (w.classOf i) 1

/-- A travel into a clause: class 10 and its admission bound (R305). -/
def Pricer.travel (w : Pricer) (adm : Nat → Price) (c : Option Nat) : Price :=
  (w.cls 10 1).add (match c with | some n => adm n | none => .zero)

/-- The travels that a loop's ends add to its `LPE`: its back edge, and its end address as its pop, its `LPB`'s skip or an
`LBRK` reaches it (R281, R305). -/
def Pricer.loopTravels (w : Pricer) (t : Sect) (adm : Nat → Price) (l : LoopSpan) : Price :=
  let here := l.endA - 4
  let back := if w.k.crosses t here (l.lpb + 4) then w.travel adm (w.k.clauseNo t (l.lpb + 4)) else .zero
  let breaks := (t.offsets.filter l.has).any (fun i => match t.at i with | .lbrk _ => w.k.crosses t i l.endA | _ => false)
  let out := w.k.crosses t here l.endA || w.k.crosses t l.lpb l.endA || breaks
  back.add (if out then w.travel adm (w.k.clauseNo t l.endA) else .zero)

/-- The clauses other than its own to which a `RET` at `i` may travel: any, if it has a travel limit, and otherwise those with the
return address of a travelling `CALL` (R281, R282). -/
def Kernel.returnsTo (k : Kernel) (t : Sect) (i : Nat) : List Nat :=
  if t.mcc then []
  else
    let own := k.clauseNo t i
    let calls := t.offsets.filter (fun j => match t.at j with | .call o => k.crosses t j (jumpTo j o) | _ => false)
    let all := if (k.limitAt t 3 i).isSome then k.clauses.map (·.n) else calls.filterMap (fun j => k.clauseNo t (j + 4))
    all.filter (fun c => some c != own)

/-- The cost of one word: its own class, its wait at its limit, its travel or its call (R305). `adm` is the admission bound of a
clause, `call` the cost of a routine one return deeper; a route leaves out what a travelling `CALL` runs elsewhere. -/
def Pricer.word (w : Pricer) (route : Bool) (t : Sect) (ls : List LoopSpan) (adm : Nat → Price) (call : Nat → Price) (i : Nat) : Price :=
  let op := t.at i
  let wait := if isWaiting op then match w.k.limitAt t 1 i with | some e => w.cls 8 e.n | none => .zero else .zero
  let base := (w.own op).add wait
  match op with
  | .br o => if w.k.crosses t i (jumpTo i o) then base.add (w.travel adm (w.k.clauseNo t (jumpTo i o))) else base
  | .call o =>
    if w.k.crosses t i (jumpTo i o) then
      let gone := base.add (w.travel adm (w.k.clauseNo t (jumpTo i o)))
      if route then gone else gone.add (call (jumpTo i o))
    else base.add (call (jumpTo i o))
  | .callt _ => base.add ((w.k.jtabs.flatMap (fun e => e.2)).foldl (fun p j => p.larger (call j)) .zero)
  | .lpe _ => match ls.find? (fun l => l.endA == i + 4) with | some l => base.add (w.loopTravels t adm l) | none => base
  | .ret _ => base.add (((w.k.returnsTo t i).map (fun c => w.travel adm (some c))).foldl Price.larger .zero)
  | _ => base

/-- How often a word runs, for each run of the range from `a`: the trips of the loops of the range whose body holds it; an `LPB` and
an `LPE` count with their loop (R305). -/
def repeats (ls : List LoopSpan) (a i : Nat) : Nat :=
  (ls.filter (fun l => decide (a ≤ l.lpb + 4) && decide (l.lpb < i) && decide (i + 4 < l.endA))).foldl (fun n l => n * l.trips) 1

/-- A word that ends a routine: an `EXIT` or `RET` outside every loop and every forward-branch span from `a` on (R305). -/
def Sect.ends (t : Sect) (ls : List LoopSpan) (a i : Nat) : Bool :=
  (match t.at i with | .exit _ | .ret _ => true | _ => false)
    && !ls.any (fun l => decide (a ≤ l.lpb + 4) && l.has i)
    && !(t.offsets.filter (fun j => decide (a ≤ j) && decide (j < i))).any (fun j =>
      match t.at j with | .br o => decide (i < jumpTo j o) | _ => false)

/-- The words of a routine from `a`, in address order, up to offset `hi` (R305). -/
def Sect.walk (t : Sect) (ls : List LoopSpan) (a hi : Nat) : List Nat :=
  let all := t.offsets.filter (fun i => decide (a ≤ i) && decide (i < hi))
  match all.find? (t.ends ls a) with
  | some e => all.filter (fun i => decide (i ≤ e))
  | none => all

/-- Whether each instruction-store line is charged once (R305). -/
def Kernel.small (k : Kernel) : Bool := decide (k.code.length ≤ 65536) && decide ((k.mcc.getD []).length ≤ 16384)

/-- The line fills of a routine where each execution of a line is charged: at the trips of the loop whose body it holds (R48, R305). -/
def Pricer.fills (w : Pricer) (t : Sect) (ls : List LoopSpan) (a : Nat) (is : List Nat) : Price :=
  if w.k.sentence || w.k.small then .zero
  else
    let lineOf := fun (i : Nat) => (t.base + i) / 256
    let lines := (is.map lineOf).eraseDups
    w.cls 24 (lines.foldl (fun n l => n + (is.filter (fun i => lineOf i == l)).foldl (fun m i => max m (repeats ls a i)) 1) 0)

/-- The cost of words that run from `a` (R305). -/
def Pricer.range (w : Pricer) (route : Bool) (t : Sect) (ls : List LoopSpan) (adm : Nat → Price) (call : Nat → Price) (a : Nat) (is : List Nat) : Price :=
  (is.foldl (fun p i => p.add ((w.word route t ls adm call i).times (repeats ls a i))) (w.fills t ls a is)).add
    ⟨0, 0, (is.map (fun i => (t.mcc, (t.base + i) / 256))).eraseDups⟩

/-- The cost of the routine at `a`, entered at a return count; `fuel` is how much deeper a return stack can be (R305). -/
def Pricer.routine (w : Pricer) (route : Bool) (t : Sect) (ls : List LoopSpan) (adm : Nat → Price) : Nat → Nat → Nat → Price
  | 0, _, _ => .zero
  | fuel + 1, k, a =>
    w.range route t ls adm (fun j =>
      match w.k.limitAt t 2 j with
      | some e => if k + 1 ≤ e.n then w.routine route t ls adm fuel (k + 1) j else w.cls 21 1
      | none => .zero) a (t.walk ls a (4 * t.ops.length))

/-- Where a group enters a clause: the entry of the bucket that is walked, and the destinations of travels (R286, R305). -/
def Kernel.entries (k : Kernel) (t : Sect) (ls : List LoopSpan) (entry c : Nat) : List Nat :=
  let dests := t.offsets.flatMap (fun i =>
    match t.at i with
    | .br o => if k.crosses t i (jumpTo i o) then [jumpTo i o] else []
    | .call o => if k.crosses t i (jumpTo i o) then [jumpTo i o, i + 4] else []
    | .lpe o => if k.crosses t i (jumpTo i o) then [jumpTo i o] else []
    | .lbrk _ => []
    | _ => [])
  let ends := (ls.filter (fun l => (t.offsets.filter (fun i => decide (l.lpb ≤ i) && decide (i < l.endA))).any (fun i => k.crosses t i l.endA))).map (·.endA)
  (entry :: dests ++ ends).eraseDups.filter (fun a => k.clauseNo t a == some c)

/-- The cost of the route through a clause from `a`: to its first certain `EXIT` or `RET`, or its last word, each loop whose body
lies in the clause taken whole and at its limit, and departures without the admission bound of where they go (R305). -/
def Pricer.route (w : Pricer) (t : Sect) (ls : List LoopSpan) (c : Clause) (a : Nat) : Price :=
  let lo := c.start - t.base
  let hi := c.start + c.len - t.base
  let inside := ls.filter (fun l => decide (lo ≤ l.lpb + 4) && decide (l.endA ≤ hi))
  let first := (inside.filter (fun l => l.has a)).foldl (fun m l => min m (l.lpb + 4)) a
  let none_ := fun (_ : Nat) => Price.zero
  w.range true t inside none_ (fun j => w.routine true t ls none_ 256 1 j) first (t.walk inside first hi)

/-- The admission bound of a travel into a clause: T_c times the longest route through it (R286, R305). -/
def Pricer.admission (w : Pricer) (t : Sect) (ls : List LoopSpan) (entry n : Nat) : Price :=
  match w.k.clauses.find? (fun c => c.n == n) with
  | none => .zero
  | some c =>
    let longest := ((w.k.entries t ls entry n).map (w.route t ls c)).foldl Price.larger .zero
    { (longest.times (w.k.arrivals c)) with lines := [] }

/-- The cost of one team from an entry, or of the `.mcc` routine, with its line fills (R305). -/
def Pricer.cost (w : Pricer) (mcc : Bool) (entry : Nat) : Price :=
  let t := w.k.sect mcc
  let ls := w.k.loops t
  let p := w.routine false t ls (w.admission t ls entry) 256 0 entry
  if w.k.small && !w.k.sentence then p.add (w.cls 24 p.lines.length) else p

/-- The cost in cycles rounded up to a multiple of 65,536 (R306). -/
def Price.budget (p : Price) : Nat := ceilDiv p.cycles 65536 * 65536

/-- The grid shape keeps R26, R276 and the kernel record (R303). -/
def QuoteReq.shapeOk (r : QuoteReq) : Bool :=
  let k := r.kernel
  r.counts.length == k.stages && decide (1 ≤ k.stages) && decide (k.stages ≤ 16) && r.counts.all (fun n => decide (1 ≤ n) && decide (n ≤ 65535))
    && decide (1 ≤ r.groups) && decide (r.groups ≤ 16)
    && (if k.sentence then r.counts == [k.stationList.length]
        else decide (1 ≤ r.f) && decide (r.f ≤ r.p) && decide (r.p ≤ 8) && (k.mcc.isNone || decide (r.p ≤ 4)))

/-- The control rows that a team of a request takes (R128). -/
def QuoteReq.control (r : QuoteReq) : Nat := r.kernel.controlRows r.groups

/-- The most spill rows that a station of a kernel takes (R286). -/
def Kernel.spillRows (k : Kernel) : Nat := 3 * k.stationList.foldl (fun m e => max m e.2.2) 0

/-- Live cores of the tile that has the most (R276). -/
def State.mostCores (s : State) : Nat :=
  (List.range 8).foldl (fun m t => max m ((List.range 72).filter (fun q => s.coreLive (72 * t + q))).length) 0

/-- What refuses a request whatever the module's capacity, or 0: of several reasons the model takes the first of IMAGE, MIXED,
SHAPE, SPILL and the structure of the code (R160, R303, log 42, DESIGN CHOICE, unsafe). -/
def State.refusalOf (s : State) (r : QuoteReq) : Nat :=
  let k := r.kernel
  let part := (s.ctx r.ctx).part
  if !k.tensors.all tsetAdmits then rImage
  else if k.sentence ∧ k.mcc.isSome then rMixed
  else if !r.shapeOk ∨ (k.sentence ∧ s.mostCores < k.stationList.length) then rShape
  else if k.sentence ∧ k.rows + r.control ≤ s.partRows part ∧ s.partRows part < k.rows + r.control + k.spillRows then rSpill
  else
    let a := k.sectRefusal (k.sect false)
    let b := if k.mcc.isSome then k.sectRefusal (k.sect true) else 0
    if a ≠ 0 then a else if b ≠ 0 then b else k.jtabRefusal

/-- Teams of a request that a live core of a reservation holds at once (R306). -/
def State.perCore (s : State) (r : QuoteReq) : Nat :=
  let p := (s.ctx r.ctx).part
  let n := min (s.slotCount p / max 1 r.groups) (s.partRows p / max 1 (r.kernel.rows + r.control + r.kernel.spillRows))
  let m := if r.kernel.xblocks = 0 then n else min n (s.xbCount p / r.kernel.xblocks)
  if r.kernel.mcc.isSome ∨ r.kernel.sentence then min m 1 else m

/-- Live cores of a cluster. -/
def State.coresOf (s : State) (c : Nat) : Nat := ((List.range 4).filter (fun q => s.coreLive (4 * c + q))).length

/-- The size of a gang that a cluster's MCC serves at once: the preferred one, or the fallback (R25, R27). -/
def State.mccGang (s : State) (r : QuoteReq) (c : Nat) : Nat :=
  if r.p ≤ s.coresOf c then r.p else if r.f ≤ s.coresOf c then r.f else 0

/-- Teams that a cluster of a reservation holds at once (R306). -/
def State.heldBy (s : State) (r : QuoteReq) (c : Nat) : Nat :=
  if r.kernel.mcc.isSome then s.mccGang r c * min 1 (s.perCore r) else s.coresOf c * s.perCore r

/-- Teams that a reservation holds at once (R306). -/
def State.atOnce (s : State) (r : QuoteReq) (v : Reservation) : Nat := v.clusters.foldl (fun n c => n + s.heldBy r c) 0

/-- A reservation can hold some gang of every stage: the smallest on one tile, with an MCC on one cluster, and a sentence whole
(R25, R27, R276, R303). -/
def State.canHold (s : State) (r : QuoteReq) (v : Reservation) : Bool :=
  let need := r.counts.foldl (fun m n => max m (if r.kernel.sentence then n else min r.f n)) 0
  let byTile := fun (t : Nat) => (v.clusters.filter (fun c => c / 18 == t)).foldl (fun n c => n + s.heldBy r c) 0
  if r.kernel.mcc.isSome then v.clusters.any (fun c => s.mccLive c && decide (need ≤ s.heldBy r c)) && v.clusters.all s.mccLive
  else (List.range 8).any (fun t => decide (need ≤ byTile t))

/-- What a walk comes to for an entry of a kernel (R306). -/
structure Budget where
  budget : Nat
  bound : Nat
  energy : Nat
  rows : Nat
  waves : Nat
deriving DecidableEq, Repr

/-- The figures of a quote (R306). -/
def State.budgetOf (s : State) (w : Pricer) (r : QuoteReq) (v : Reservation) (entry : Nat) : Budget :=
  let team := w.cost false entry
  let mcc := if r.kernel.mcc.isSome then w.cost true 0 else .zero
  let teams := r.counts.foldl (· + ·) 0
  let gangs := if r.kernel.mcc.isSome then r.counts.foldl (fun n c => n + ceilDiv c (max 1 r.f)) 0 else 0
  let waves := ceilDiv teams (max 1 (s.atOnce r v))
  let w0 := waves * max team.budget mcc.budget * 5 / 4
  let bound := w0 + 50000 * (w0 / 200000000)
  let idle := v.engines.length * (w.cls 16 1).pj + v.clusters.length * (w.cls 19 1).pj
  { budget := team.budget, bound := bound, energy := ceilDiv (teams * team.pj + gangs * mcc.pj + bound * 4 / 5 * idle) 64000000,
    rows := s.perCore r * r.control + r.kernel.spillRows, waves := waves }

end Sys2Proof.Machine
end

