-- ==== Sys2Proof/Machine/Packets.lean ====
section
/-! DEFINITION. The submission queues (R365, R366, R369) and the packets that ask for quotes, take them up and launch grids
(R303, R308-R310, R318-R322, R388). -/
namespace Sys2Proof.Machine

/-- A function is enabled (R363). -/
def State.fnOn (s : State) (fn : Nat) : Bool := bit (s.hubReg (0x500 + 4 * fn)).toNat 4

/-- The interface consumes packets: it and its function are enabled, the boot has completed and no sequence error stands (R363, R365,
R383). -/
def State.consumes (s : State) (k : Nat) : Bool := (s.qi k).en && s.fnOn (k / 8) && bit s.bootstat.toNat 3 && !(s.qi k).seqerr

/-- Packets submitted and not consumed. -/
def Qi.waiting (q : Qi) : Nat := (q.sqtail - q.sqhead).toNat

/-- The bytes of the entry that the interface reads next (R365). -/
def State.entryBytes (s : State) (k : Nat) : List Byte :=
  let q := s.qi k
  Memory.load s.mem (hostLoc (q.sqbase + 64 * ((q.sqhead + 1).toNat % 2 ^ q.sqlog))) 64

/-- A packet's kind, its number, and a word of its payload (R366). -/
def packetKind (bs : List Byte) : Nat := field (wordAt bs 0) 7 0
def packetSeq (bs : List Byte) : Word := word (wordAt bs 4)
def wordOf (bs : List Byte) (off : Nat) : Word := word (wordAt bs off)
/-- A 64-bit value of a payload. -/
def longAt (bs : List Byte) (off : Nat) : Nat := natLE ((bs.drop off).take 8)

/-- The bits of a payload's words, from 0x08, that a kind of packet uses; the others are reserved (R366). -/
def packetMask (kind : Nat) : List Nat :=
  let w := 0xFFFFFFFF
  match kind with
  | 1 => [0xFFFFFFC0, w, w, 0x0F1F03FF, 0xFFFFFFC0, w, w, w, w, w]
  | 2 | 3 => [0xF, w, w, w, w, w, w, w, w, w, w, w, w]
  | 4 => [w, 0, 0xFFFFFFC0, w, w, w, w]
  | 5 => [w]
  | 6 => [w]
  | 7 => [w, 0x81FFFFFF]
  | 8 => [w, 0, w, w, w]
  | 9 => [0xFFFFF000, 0x000FFFFF, w, w, w, w]
  | 10 => [0xFFFFF000, 0x000FFFFF, w]
  | 11 => [w, w, w, w]
  | 12 => [w, w]
  | _ => []

/-- A packet has a known kind, no reserved bit and no other flag, and its counts lie in their ranges (R366). -/
def packetOk (bs : List Byte) : Bool :=
  let k := packetKind bs
  let m := packetMask k
  decide (1 ≤ k) && decide (k ≤ 12) && field (wordAt bs 0) 31 (if k = 6 then 9 else 8) == 0
    && (List.range 14).all (fun j => wordAt bs (8 + 4 * j) &&& (0xFFFFFFFF - m.getD j 0) == 0)
    && (if k = 1 then decide (field (wordAt bs 0x14) 27 24 ≤ 8)
        else if k = 2 ∨ k = 3 then decide (1 ≤ wordAt bs 8) && decide (wordAt bs 8 ≤ 12)
        else if k = 9 then decide (wordAt bs 0x18 ≤ 65536)
        else true)

/-- What the interface itself refuses of a packet, or 0 (R366, R370). ACCEPT and DECLINE answer for each qid. -/
def State.packetRefusal (s : State) (k : Nat) (bs : List Byte) : Nat :=
  let q := s.qi k
  if !q.valid || q.revoked then rPasid
  else if !packetOk bs then rFormat
  else if !(s.ctx k).live && !([2, 3, 9].contains (packetKind bs)) then rNoContext
  else 0

/-- The packet at the head is consumed (R365). -/
def State.consume (s : State) (k : Nat) : State := s.setQi k { s.qi k with sqhead := (s.qi k).sqhead + 1 }

/-- A REFUSED record (R367). -/
def State.refuse (s : State) (k : Nat) (hseq : Word) (reason : Nat) : State := s.record k 11 2 [hseq, word reason]

/-- What the interface does on its own with what is submitted: it stops at a sequence error, and consumes and refuses what it
refuses itself, up to the first packet that takes effect (R365, R370). -/
def State.proceed (s : State) (k : Nat) : Nat → State
  | 0 => s
  | n + 1 =>
    let q := s.qi k
    let bs := s.entryBytes k
    if !s.consumes k ∨ q.waiting = 0 then s
    else if 2 ^ q.sqlog < q.waiting ∨ packetSeq bs ≠ q.sqhead + 1 then (s.setQi k { q with seqerr := true }).refuse k (q.sqhead + 1) rSeq
    else if s.packetRefusal k bs ≠ 0 then ((s.consume k).refuse k (packetSeq bs) (s.packetRefusal k bs)).proceed k n
    else s

/-- More packets than a ring can hold. -/
def ringMax : Nat := 2 ^ 16 + 1

/-- Every interface looks at its ring again. -/
def State.proceedAll (s : State) : State := (Tab.keys s.qis).foldl (fun s k => s.proceed k ringMax) s

/-- The packet that takes effect next on an interface, if there is one (R365). -/
def State.head (s : State) (k : Nat) : Option (List Byte) :=
  let q := s.qi k
  let bs := s.entryBytes k
  if s.consumes k ∧ 1 ≤ q.waiting ∧ q.waiting ≤ 2 ^ q.sqlog ∧ packetSeq bs = q.sqhead + 1 ∧ s.packetRefusal k bs = 0 then some bs else none

/-- A packet that `p` admits, if it is the next of its interface, is consumed and takes its effect; then the interface goes on. -/
def runPacket (r : QRef) (p : List Byte → Bool) (f : State → List Byte → State) (s : State) : Host.Outcome State Fault Refusal :=
  let k := qiKey r
  match s.head k with
  | some bs => if p bs then .next ((f (s.consume k) bs).proceed k ringMax) else .next s
  | none => .next s

/-- A write of `SQTAIL` (R365, R369): a value behind `SQHEAD` is ignored. -/
def State.setSqtail (s : State) (k : Nat) (v : Word) : State :=
  let q := s.qi k
  if 2 ^ 31 ≤ (v - q.sqhead).toNat then s else (s.setQi k { q with sqtail := v }).proceed k ringMax

/-- `SQTAIL` (R365). -/
def execSqtail (r : QRef) (v : Word) (s : State) : Host.Outcome State Fault Refusal := .next (s.setSqtail (qiKey r) v)

/-- A kernel of an image, or one with nothing in it. -/
def kernelOr (img : List Byte) (idx : Nat) : Kernel := (kernelOf img idx).getD { Kernel.empty with idx := idx }

/-- `TSET` admits every template of an image, whichever kernel declares it (R160, R299). -/
def templatesOk (img : List Byte) : Bool :=
  let ts := sectionOf img 8
  (List.range (ts.length / 48)).all (fun j => tsetAdmits (wordsOf ((ts.drop (48 * j)).take 48)))

/-- A QUOTE request as the device fetches it, with what refuses it whatever the capacity, or 0 (R303, R308, R366). -/
def State.readQuote (s : State) (k : Nat) (bs : List Byte) : QuoteReq × Nat :=
  let img := Memory.load s.mem (hostLoc (longAt bs 8)) (wordAt bs 0x10)
  let w := wordAt bs 0x14
  let isa := field (s.hubRead 0x100).toNat 31 24
  let good := imageOk img isa
  let shape := fun (idx addr : Nat) =>
    let kn := if good then kernelOr img idx else { Kernel.empty with idx := idx }
    let b := blockOf (Memory.load s.mem (hostLoc addr) 256)
    (kn, (b.stages kn).getD [], b)
  let main := shape (field w 7 0) (longAt bs 0x18)
  let table := Memory.load s.mem (hostLoc (longAt bs 0x20)) (16 * field w 27 24)
  let sites := (List.range (field w 27 24)).map (fun j =>
    let e := (table.drop (16 * j)).take 16
    let c := shape (field (wordAt e 0) 31 24) (longAt e 8)
    ({ off := field (wordAt e 0) 23 0, kernel := c.1, counts := c.2.1, groups := c.2.2.groups, p := c.2.2.p, f := c.2.2.f } : SiteReq))
  let req : QuoteReq :=
    { ctx := k, kernel := main.1, digest := (img.drop 8).take 64, counts := main.2.1, groups := main.2.2.groups, p := main.2.2.p,
      f := main.2.2.f, priority := field w 9 8, ceiling := field w 20 16, sites := sites, result := longAt bs 0x28 }
  let there := fun (kn : Kernel) => (kernelOf img kn.idx).isSome
  if !good ∨ !templatesOk img ∨ !there req.kernel ∨ !sites.all (fun e => there e.kernel) then (req, rImage)
  else if 16 < req.ceiling then (req, rCeiling)
  else (req, 0)

/-- A site's child as a request of its own (R308). -/
def QuoteReq.child (r : QuoteReq) (e : SiteReq) : QuoteReq :=
  { r with kernel := e.kernel, counts := e.counts, groups := e.groups, p := e.p, f := e.f, sites := [] }

/-- A request and the requests of its sites (R308). -/
def QuoteReq.all (r : QuoteReq) : List QuoteReq := r :: r.sites.map r.child

/-- What refuses a request whatever the capacity: its own reason, or its first child's (R303). -/
def State.walkRefusal (s : State) (r : QuoteReq) : Nat := ((r.all.map s.refusalOf).find? (· != 0)).getD 0

/-- `QUOTE` (R308, R366): the device fetches the image and the blocks, and a walk begins. -/
def State.takeQuote (k : Nat) (s : State) (bs : List Byte) : State :=
  let r := s.readQuote k bs
  let why := if r.2 ≠ 0 then r.2 else s.walkRefusal r.1
  { s with walks := s.walks ++ [s.beginWalk k (packetSeq bs) r.1 why] }

/-- `QUOTE` (R308). -/
def execQuote (r : QRef) (s : State) : Host.Outcome State Fault Refusal :=
  runPacket r (fun bs => packetKind bs == 1) (State.takeQuote (qiKey r)) s

/-- A word that starts an engine's work (R233, R239). -/
def usesEngine : Instr → Bool
  | .slrun _ | .tcopy _ | .tcopyv _ => true
  | _ => false

/-- A cluster can be reserved for a partition now (R8, R311). -/
def State.clusterOpen (s : State) (part c : Nat) : Bool :=
  s.clusterLive c && !s.reserved c && decide (800 ≤ field (s.mapWord (0x1000 + 8 * (c / 18) + 1)) 15 0)
    && (List.range 4).all (fun q => (s.teamsOn (4 * c + q)).all (fun t => (s.ctx (s.gridOf t).ctx).part == part))

/-- The clusters of a reservation run at its cadence ceiling or below it from now on (R11, R254, R311). -/
def State.capCadence (s : State) (v : Reservation) : State :=
  v.clusters.foldl (fun (s : State) c =>
    if v.ceil < (s.cluster c).cadence then s.setCluster c { s.cluster c with cadence := v.ceil } else s) s

/-- The machine as it stood when a walk began, as far as the walk reads it: the map (R319). -/
def State.atWalk (s : State) (w : Walk) : State := { s with map := w.map, mapv := w.mapv }

/-- A reservation can be held now for a request (R303, R308, R311): its clusters are live, in no other reservation and without a team
of another partition, on tiles whose floor is not below 800 MHz (R8), its engines and pseudo-channel groups are live and free, it
holds some gang of every stage of the kernel and of each child, and its ceiling is the one asked for. -/
def State.holdable (s : State) (r : QuoteReq) (v : Reservation) : Bool :=
  let part := (s.ctx r.ctx).part
  let others := s.reservations.map (·.2)
  let engines := (r.kernel.sect false).ops.any usesEngine
  v.clusters.eraseDups == v.clusters && v.engines.eraseDups == v.engines && v.pcgs.eraseDups == v.pcgs
    && v.clusters.all (s.clusterOpen part)
    && v.engines.all (fun e => s.engineLive e && others.all (fun o => !o.engines.contains e))
    && (!engines || !v.engines.isEmpty)
    && !v.pcgs.isEmpty && v.pcgs.all (fun g => decide (g < 64) && s.stackLive (g / 8) && others.all (fun o => !o.pcgs.contains g))
    && r.all.all (fun q => s.canHold q v)
    && decide (1 ≤ v.ceil) && decide (v.ceil ≤ 16) && (r.ceiling == 0 || v.ceil == r.ceiling)

/-- A quote for a bucket of a request (R306, R309). -/
def State.quoteFor (s : State) (w : Walk) (r : QuoteReq) (v : Reservation) (b : Bucket) (res first parent site : Nat) : Quote :=
  let pr : Pricer := { k := r.kernel, costs := w.costs, mem := w.mem, narrow := v.clusters.any w.narrow.contains }
  let f := (s.atWalk w).budgetOf pr r v b.entry
  { req := r, mapv := w.mapv, budget := f.budget, bound := f.bound, energy := f.energy, bucket := b.n, rows := f.rows, waves := f.waves,
    parent := parent, site := site, res := res, issued := s.hub, state := .issued, first := first, grid := w.grid }

/-- A kernel's buckets by number. -/
def Kernel.bucketsByNo (k : Kernel) : List Bucket := (List.range 16).flatMap (fun n => k.buckets.filter (fun b => b.n == n))

/-- The quotes of a request: one for each bucket, and a standing one for each site's child and bucket (R308). -/
def State.quotesFor (s : State) (w : Walk) (v : Reservation) (res first : Nat) : List Quote :=
  w.req.kernel.bucketsByNo.map (fun b => s.quoteFor w w.req v b res first 0 0)
    ++ w.req.sites.flatMap (fun e => e.kernel.bucketsByNo.map (fun b => s.quoteFor w (w.req.child e) v b res first first e.off))

/-- The record that reports a refusal or a void, with the first new qid: in the result of an ACK, at 0x14 of a VOID (R388). -/
def State.report (s : State) (k qid : Nat) (r : Nat × Nat × List Word) : State :=
  s.record k r.1 r.2.1 (r.2.2.set (if r.1 = 6 then 2 else 3) (word qid))

/-- The end of a walk: the records that it reports and the QUOTED record (R367, R388). -/
def State.endWalk (s : State) (w : Walk) (count qid reason : Nat) : State :=
  let s1 := w.reports.foldl (fun s r => s.report w.qi qid r) s
  s1.record w.qi 7 (if reason = 0 then 0 else 2) [w.hseq, word count, word qid, word reason]

/-- A walk ends with a reservation: it is held, and the quote records are written into the result buffer (R308, R309). -/
def State.issueQuotes (s : State) (w : Walk) (v : Reservation) : State :=
  let res := s.nextReservation
  let first := s.nextQid
  let qs := s.quotesFor w v res first
  let ids := (List.range qs.length).map (first + ·)
  let s1 := { s with reservations := Tab.put s.reservations res v, nextReservation := res + 1, nextQid := first + qs.length,
                     quotes := s.quotes ++ ids.zip qs }
  let bytes := (ids.zip qs).flatMap (fun e => s1.quoteBytes e.1 e.2)
  ((s1.hostWrite w.req.result bytes).capCadence v).revote.endWalk w qs.length first 0

/-- `QUOTED` (R308, R388): the first walk of an interface ends with the reservation that the Quotation Unit has found; one with no
clusters stands for `NO_FIT`, and a ceiling of 0 for `CEILING` (R303). -/
def execQuoted (r : QRef) (v : Reservation) (s : State) : Host.Outcome State Fault Refusal :=
  let k := qiKey r
  match s.walks.find? (fun w => w.qi == k) with
  | none => .next s
  | some w =>
    let s1 := { s with walks := s.walks.erase w }
    let why := if !(s.ctx k).live then rNoContext else if w.refusal ≠ 0 then w.refusal else (s.atWalk w).walkRefusal w.req
    if why ≠ 0 then .next (s1.endWalk w 0 0 why)
    else if v.clusters.isEmpty then .next (s1.endWalk w 0 0 rNoFit)
    else if v.ceil = 0 then .next (s1.endWalk w 0 0 rCeiling)
    else if (s1.atWalk w).holdable w.req v then .next (s1.issueQuotes w v)
    else .next s

/-- A quote that a context holds, by its qid (R303). -/
def State.mine (s : State) (k qid : Nat) : Option Quote := (s.quote? qid).filter (fun q => q.req.ctx == k)

/-- A quote has lapsed, or would now (R310). -/
def State.past (s : State) (q : Quote) : Bool :=
  q.state == .lapsed || ((q.state == .issued || q.state == .accepted) && s.expired q)

/-- A re-quote of a request: a walk begins whose end reports the refusal given (R319, R388). The touched reservation is released only as
R308 has it. -/
def State.reoffer (s : State) (q : Quote) (k : Nat) (hseq : Word) (reports : List (Nat × Nat × List Word)) : State :=
  { s with walks := s.walks ++ [{ s.beginWalk k hseq q.req 0 with requote := true, grid := q.grid, reports := reports }] }

/-- The clusters that a standing quote takes for itself, as many as its record names: which of those that can hold its grid is free
(R312, log 134, DESIGN CHOICE, unsafe). -/
def State.ownClusters (s : State) (q : QuoteReq) (v : Reservation) : Option (List Nat) :=
  let open_ := (List.range 144).filter (s.clusterOpen (s.ctx q.ctx).part)
  (List.range 144).findSome? (fun d =>
    let at_ := (Config.freeNat s.freeCtr + d) % 144
    let cs := (open_.filter (fun c => decide (at_ ≤ c)) ++ open_.filter (fun c => decide (c < at_))).take v.clusters.length
    if cs.length = v.clusters.length ∧ s.canHold q { v with clusters := cs } then some cs else none)

/-- The entry code of a quote's child lies in the instruction stores of its clusters' cores: one line, under the name that its grids'
code has (R48, R312). -/
def State.warm (s : State) (qid : Nat) (q : Quote) (clusters : List Nat) : State :=
  match q.req.kernel.buckets.find? (fun b => b.n == q.bucket), q.req.kernel.sentence with
  | some b, false =>
    (clusters.flatMap (fun c => (List.range 4).map (4 * c + ·))).foldl (fun (s : State) core =>
      { s with stores := Tab.put s.stores core (touchLine 64 (codeLine qid 2 b.entry) (Tab.read s.stores core [])) }) s
  | _, _ => s

/-- A standing quote is accepted, with a reservation of its own; none where no clusters can be had for it (R310, R312). -/
def State.acceptOwn (s : State) (qid : Nat) (q : Quote) : Option State :=
  let v := (Tab.find s.reservations q.res).getD ⟨[], [], [], 0⟩
  (s.ownClusters q.req v).map (fun cs =>
    let n := s.nextReservation
    let own := { v with clusters := cs }
    let s1 := { s.draw with quotes := Tab.upd s.quotes qid (fun c => { c with state := .accepted, res := n }),
                            reservations := Tab.put s.reservations n own, nextReservation := n + 1 }
    ((s1.capCadence own).warm qid q cs).revote)

/-- The standing quotes of a request are accepted with it (R310, R312). -/
def State.acceptStanding (s : State) (q : Quote) : Option State :=
  (s.quotes.filter (fun e => e.2.parent != 0 && e.2.parent == q.first && e.2.state == .issued)).foldl
    (fun (o : Option State) e => o.bind (fun s => s.acceptOwn e.1 e.2)) (some s)

/-- A re-quote binds the running grid that it was offered to: its budgets less what the grid has used, and its bound anew; a
suspended grid resumes (R318, R320). -/
def State.bindGrid (s : State) (grid qid : Nat) (q : Quote) : State :=
  let g := s.grid grid
  let left := word (min (q.energy - (g.energy - g.waived)) (2 ^ 32 - 1))
  let mine := fun (h : Group) => (s.gang h.gang).grid == grid
  let show_ := fun (h : Group) => { h with qnrg := left }
  let s1 := s.setGrid grid { g with quote := some qid, boundLeft := q.bound, breaches := [], deviceBreach := false, halted := false }
  let s2 := { s1 with groups := s1.groups.map (fun (e : Nat × Group) => if mine e.2 then (e.1, show_ e.2) else e)
                      gangs := s1.gangs.map (fun (e : Nat × Gang) => if e.2.grid = grid then (e.1, e.2.mapGroups show_) else e) }
  s2.setQuoteState qid .launched

/-- `ACCEPT` of one qid (R303, R310, R319, R320), tested in the order that R310 gives; where no clusters can be had for a standing quote,
the reason is `NO_FIT` (log 134, DESIGN CHOICE, unsafe). -/
def State.acceptOne (s : State) (k : Nat) (hseq : Word) (qid : Nat) : State :=
  let no := fun (reason : Nat) => s.ack k hseq 2 reason (word qid)
  match s.mine k qid with
  | none => no rUnknown
  | some q =>
    if q.state = .lapsed ∨ s.expired q then no rExpired
    else if s.quoteTouched q then
      if q.state = .issued ∨ q.state = .accepted then s.reoffer q k hseq [(6, 2, [hseq, word rMap, 0])] else no rMap
    else if q.state ≠ .issued then no rUsed
    else
      match (if q.parent ≠ 0 then s.acceptOwn qid q else (s.setQuoteState qid .accepted).acceptStanding q) with
      | none => no rNoFit
      | some s1 =>
        let g := s.grid q.grid
        let s2 := if q.grid ≠ 0 ∧ !g.complete ∧ g.quote.isNone ∧ g.bucket = q.bucket then s1.bindGrid q.grid qid q else s1
        s2.ack k hseq 0 0 (word qid)

/-- The qids of an ACCEPT or a DECLINE. -/
def packetQids (bs : List Byte) : List Nat := (List.range (wordAt bs 8)).map (fun j => wordAt bs (0x0C + 4 * j))

/-- `ACCEPT` (R310). -/
def execAccept (r : QRef) (s : State) : Host.Outcome State Fault Refusal :=
  runPacket r (fun bs => packetKind bs == 2)
    (fun s bs => (packetQids bs).foldl (fun s q => s.acceptOne (qiKey r) (packetSeq bs) q) s) s

/-- `DECLINE` of one qid (R310): a quote that has ended or been launched already has nothing to release. -/
def State.declineOne (s : State) (k : Nat) (hseq : Word) (qid : Nat) : State :=
  match s.mine k qid with
  | none => s.ack k hseq 2 rUnknown (word qid)
  | some q =>
    if q.state = .issued ∨ q.state = .accepted then (s.endQuote qid .declined).ack k hseq 0 0 (word qid)
    else s.ack k hseq 1 0 (word qid)

/-- `DECLINE` (R310). -/
def execDecline (r : QRef) (s : State) : Host.Outcome State Fault Refusal :=
  runPacket r (fun bs => packetKind bs == 3)
    (fun s bs => (packetQids bs).foldl (fun s q => s.declineOne (qiKey r) (packetSeq bs) q) s) s

/-- The quotes of a request that are accepted (R310). -/
def State.acceptedOf (s : State) (q : Quote) : List Nat :=
  (s.quotes.filter (fun e => e.2.first == q.first && e.2.parent == 0 && e.2.state == .accepted)).map (·.1)

/-- A touched accepted quote at `LAUNCH` (R319): it and those accepted with it are void with blame DEVICE, the launch is refused with
`MAP`, and a re-quote is offered. -/
def State.launchTouched (s : State) (k : Nat) (hseq : Word) (q : Quote) : State :=
  let ids := s.acceptedOf q
  let voids := ids.map (fun id => (2, 0, [word id, word (blameDevice + rMap * 2 ^ 16), word s.mapv, 0, 0, 0]))
  (ids.foldl (fun s id => s.endQuote id .void) s).reoffer q k hseq (voids ++ [(6, 2, [hseq, word rMap, 0])])

/-- `LAUNCH` (R303, R310, R319, R322, R325). The host's block may have reserved fields set, which R326 tests of a child's alone (R2); more
than 32 argument words are no block (log 81, DEDUCED, unsafe). -/
def State.takeLaunch (k : Nat) (s : State) (bs : List Byte) : State :=
  let hseq := packetSeq bs
  let no := fun (reason : Nat) => s.ack k hseq 2 reason 0
  let b := blockOf (Memory.load s.mem (hostLoc (longAt bs 0x10)) 256)
  match s.mine k (wordAt bs 8) with
  | none => no rUnknown
  | some q0 =>
    if 32 < b.argc then no rFormat
    else if s.past q0 then no rExpired
    else if q0.parent ≠ 0 ∨ (q0.state ≠ .issued ∧ q0.state ≠ .accepted) then no rUsed
    else if !b.fits q0.req then no rShape
    else
      match q0.req.kernel.bucketFor b.shapes with
      | none => no rNoBucket
      | some kb =>
        match s.quotes.find? (fun e => e.2.first == q0.first && e.2.parent == 0 && e.2.bucket == kb.n) with
        | none => no rNoBucket
        | some (qid, q) =>
          if q.state ≠ .accepted then no rNoBucket
          else if s.quoteTouched q then s.launchTouched k hseq q
          else
            let replay := if b.record then some (longAt bs 0x18, wordAt bs 0x20) else none
            let r := s.newGrid k qid q b kb q.req.priority none (s.knownReleases (k / 8)) replay
            let s1 := (s.acceptedOf q).foldl (fun s id => s.setQuoteState id .launched) r.1
            s1.ack k hseq 0 0 (word r.2)

/-- `LAUNCH` (R322). -/
def execLaunchPacket (r : QRef) (s : State) : Host.Outcome State Fault Refusal :=
  runPacket r (fun bs => packetKind bs == 4) (State.takeLaunch (qiKey r)) s

end Sys2Proof.Machine
end

