-- ==== Sys2Proof/Machine/Special.lean ====
section
/-! DEFINITION. Special registers (R69-R72, R124, R125, R262, R313, R336), the construction map and counters as programs
read them (R328, R361), and where a group of a sentence is (R296, R297). -/
namespace Sys2Proof.Machine

/-- The team whose values a group or an MCC reads: on the MCC, team 0 of its gang (R248). -/
def Ex.ownTeam (x : Ex) : Team := x.s.team (teamKey x.g.gang (if x.g.mcc then 0 else x.g.team))

/-- The quote in force of the party's grid (R313). -/
def Ex.quote? (x : Ex) : Option Quote := x.grid.quote.bind x.s.quote?

/-- `QBUD` (R313). -/
def Ex.qbud (x : Ex) : Word :=
  match x.quote? with
  | some q => word (min (q.budget - x.ownTeam.used) (2 ^ 32 - 1))
  | none => 0

/-- `QNRG` as of the last refresh (R313); on the MCC, that of team 0 of its gang, by its group of lowest index (R248, log 126, DEDUCED, unsafe). -/
def Ex.qnrg (x : Ex) : Word :=
  let own := if x.g.mcc then
      (match (List.range 16).findSome? (fun k => (x.s.members x.g.gang 0).find? (fun e => e.2.grp == k)) with
       | some e => e.2.qnrg
       | none => x.g.qnrg)
    else x.g.qnrg
  if x.quote?.isSome then own else 0

/-- The matrix state that a party reads: that of its gang's MCC (R262). -/
def Ex.mccOf (x : Ex) : Option Mcc := if x.gang.usesMcc then Tab.find x.s.mccs x.gang.cluster else none

/-- The rows of operation `i`, an `MSTR`, are entering the array: it has not to wait for its bands and has not faulted (R255, R259,
R262). -/
def Mcc.enters (m : Mcc) (i : Nat) (q : QOp) : Bool :=
  q.kind == 2 && q.started && !q.streamed && q.tail == 0 && (match m.qf with | some (_, _, p) => p != i | none => true)

/-- The operation that `MCUR` reports (R262). -/
def Mcc.reported (m : Mcc) : Option QOp :=
  match (((List.range m.queue.length).zip m.queue).find? (fun e => m.enters e.1 e.2)).map (·.2) with
  | some q => some q
  | none => m.queue.find? (fun q => q.started)

/-- The kind codes of `MCUR` (R262). -/
def QOp.code (q : QOp) : Nat := q.kind

/-- `MCUR` (R262). -/
def Ex.mcur (x : Ex) : Word :=
  match x.mccOf with
  | none => 0
  | some m =>
    match m.reported with
    | none => 0
    | some q => word (q.cursor % 512 + b2n q.second * 2 ^ 9 + q.code * 2 ^ 10 + q.tile * 2 ^ 13)

/-- The cadence ceiling of the quote in force (R262, R11). -/
def Ex.ceiling (x : Ex) : Nat :=
  match x.quote? with
  | some q => match Tab.find x.s.reservations q.res with | some r => r.ceil | none => 0
  | none => 0

/-- `MSTAT` (R262). -/
def Ex.mstat (x : Ex) : Word :=
  match x.mccOf with
  | none => 0
  | some m =>
    let c := x.s.cluster x.gang.cluster
    word (b2n c.narrow + x.s.liveBands x.gang.cluster * 2 ^ 4 + c.awake % 16 * 2 ^ 8 + m.queue.length * 2 ^ 12 + m.active * 2 ^ 16
      + b2n (m.queue.any (fun q => q.kind == 1 || q.kind == 5)) * 2 ^ 17 + b2n m.qf.isSome * 2 ^ 18)

/-- `XHELD` (R28). -/
def Ex.xheld (x : Ex) : Word :=
  word (b2n (Tab.find x.g.held 0).isSome + 2 * b2n (Tab.find x.g.held 1).isSome + x.team.free.length * 2 ^ 8 + x.team.pool.length * 2 ^ 16)

/-- `TRAPQ` (R336). -/
def Ex.trapqWord (x : Ex) : Word :=
  word (x.g.trapq.length + (match x.g.trapq with | p :: _ => p.cause.code | [] => 0) * 2 ^ 3 + b2n (!x.g.apend.isEmpty) * 2 ^ 10)

/-- A uniform special register's value (R69). In a handler `MODE` and `FPX` are the saved user values (R334). -/
def Ex.special (x : Ex) (k : Nat) : Word :=
  let sent := x.grid.kernel.sentence
  match k with
  | 0x00 => match x.g.saved with | some sv => sv.mode | none => x.g.mode
  | 0x01 => x.g.exec
  | 0x02 => x.g.dead
  | 0x03 => word (x.s.cluster x.cluster).lclk
  | 0x04 => match x.g.lclkh with | some h => h | none => word ((x.s.cluster x.cluster).lclk / 2 ^ 32)
  | 0x05 => x.g.energy
  | 0x06 => x.qbud
  | 0x07 => x.qnrg
  | 0x08 => word x.s.mapv
  | 0x0A => match x.g.saved with | some sv => sv.fpx | none => x.g.fpx
  | 0x0B => if sent then 0 else word (x.gang.ordinal % 2 ^ 16 + x.gang.base % 2 ^ 16 * 2 ^ 16)
  | 0x0C => word ((if sent then 0 else x.gang.size) + x.grid.groups * 2 ^ 4)
  | 0x0D => word (x.gang.stage + x.grid.kernel.stages * 2 ^ 4)
  | 0x0E => word (x.ctx.part + x.ctx.fn * 2 ^ 4 + x.ctx.qi * 2 ^ 9 + x.s.weight x.ctx.part * 2 ^ 12)
  | 0x0F => placeOf x.gid
  | 0x10 => x.g.live
  | 0x11 => x.mcur
  | 0x12 => if x.gang.usesMcc then word ((x.s.cluster x.gang.cluster).cadence + x.ceiling * 2 ^ 8) else 0
  | 0x13 => x.mstat
  | 0x14 => match x.mccOf with | some m => word m.mshp | none => 0
  | 0x15 => x.xheld
  | 0x16 => x.grid.shapes.getD 0 0
  | 0x17 => x.grid.shapes.getD 1 0
  | 0x18 => x.grid.shapes.getD 2 0
  | 0x19 => x.grid.shapes.getD 3 0
  | 0x1A => word x.grid.bucket
  | 0x1B => word (x.s.cluster x.cluster).proof
  | 0x20 => x.g.trapc
  | 0x21 => x.g.trappc
  | 0x22 => x.g.trapmask
  | 0x23 => x.g.trapaddrl
  | 0x24 => x.g.trapaddrh
  | 0x25 => x.ctx.hdlr
  | 0x26 => x.trapqWord
  | 0x27 => word (b2n x.sup + 2 * b2n x.g.step + 4 * b2n x.ctx.logov)
  | _ => 0

/-- `SRD` (R124): a read of `LCLK` captures the high half (R72). -/
def Ex.readSpecial (x : Ex) (d : Operand) (k : Nat) : Ex :=
  let acts := if d.isVreg then x.acting != 0 else x.go
  let y := if k = 9 then x.form false d (fun l => x.g.rngs.at l) else x.form false d (fun _ => x.special k)
  if k = 3 ∧ acts then { y with g := { y.g with lclkh := some (word ((x.s.cluster x.cluster).lclk / 2 ^ 32)) } } else y

/-- `SRD` (R124). -/
def execSrd (f : KForm) (s : State) : Host.Outcome State Fault Refusal :=
  issueEx (.srd f) s (fun x => .ok (x.readSpecial f.d f.k.toNat))

/-- A write of a uniform special register (R31, R71, R125, R295, R336, R345); `TRAPPC` keeps its low bits (log 150, DESIGN CHOICE, unsafe). -/
def Ex.writeSpecial (x : Ex) (k : Nat) (w : Word) : Ex :=
  match k with
  | 0x00 =>
    match x.g.saved with
    | some sv => { x with g := { x.g with saved := some { sv with mode := w &&& 0x7FFF } } }
    | none => { x with g := { x.g with mode := w &&& 0x7FFF } }
  | 0x01 => { x with g := { x.g with exec := (x.g.exec &&& ~~~ x.sp.lanes) ||| (w &&& x.sp.lanes) } }
  | 0x0A =>
    match x.g.saved with
    | some sv => { x with g := { x.g with saved := some { sv with fpx := Fpx.clear sv.fpx w } } }
    | none => { x with g := { x.g with fpx := Fpx.clear x.g.fpx w } }
  | 0x10 => { x with g := { x.g with live := w &&& 0x1FFF } }
  | 0x21 => { x with g := { x.g with trappc := w } }
  | 0x27 =>
    let y := { x with g := { x.g with step := bit w.toNat 1 } }
    if bit w.toNat 2 then { y with s := y.s.setCtx y.ctxId { y.ctx with logov := false } } else y
  | _ => x

/-- A write of `RNGS`: each acting lane receives its own lane of the source, 0 as 1 (R89, R125); an error that the lane's generator
held is gone with its value (R349). -/
def Ex.writeRngs (x : Ex) (o : Operand) : Ex :=
  if x.acting = 0 then x
  else
    let y := x.setRng x.acting (fun l => if x.rd o l = 0 then 1 else (x.rd o l).toNat)
    { y with g := { y.g with ueLane := y.g.ueLane.filter (fun e => e.1 != 128 || !Word.has x.acting e.2) } }

/-- `SWR` (R125). -/
def execSwr (f : KForm) (s : State) : Host.Outcome State Fault Refusal :=
  issueEx (.swr f) s (fun x => .ok (
    if f.k.toNat = 9 then x.writeRngs f.d
    else if x.go then x.writeSpecial f.k.toNat (x.rdU f.d) else x))

/-- `MAPRD` (R328). -/
def execMaprd (f : KForm) (s : State) : Host.Outcome State Fault Refusal :=
  issueEx (.maprd f) s (fun x => .ok (x.form false f.d (fun _ => x.s.readMap x.ctx.ack f.k.toNat)))

/-- An entry of a partition's allow-list names event `k` (R360). -/
def State.allowed (s : State) (p k : Nat) : Bool :=
  decide (k < 0x400) && (List.range 128).any (fun i =>
    let w := (Tab.read s.regs (0x2000 + 0x200 * p + 4 * i) 0).toNat
    (bit w 15 && field w 9 0 == k) || (bit w 31 && field w 25 16 == k))

/-- A performance counter (R361). -/
def Ex.counter (x : Ex) (k : Nat) : Word :=
  let lvl := field k 9 8
  let ev := field k 7 0
  let unit := match lvl with | 0 => coreUnit x.gid | 1 => x.cluster | 2 => x.cluster / 18 | _ => 0
  if 16 ≤ ev then 0
  else Tab.read x.s.counters (counterKey x.part lvl unit ev) 0

/-- `CNTRD` (R361). -/
def execCntrd (f : KForm) (s : State) : Host.Outcome State Fault Refusal :=
  issueEx (.cntrd f) s (fun x =>
    let ok := x.s.allowed x.part f.k.toNat
    let acts := if f.d.isVreg then x.acting != 0 else x.go
    let v := if ok then x.counter f.k.toNat else 0
    .ok ((x.form false f.d (fun _ => v)).flag (Fpx.iff (acts && !ok) Fpx.cntx)))

/-- `CLID` (R296). -/
def Ex.clid (x : Ex) : Word :=
  if x.grid.kernel.sentence then
    match Tab.find x.gang.stations x.g.team with
    | some st => word (st.clause + st.replica * 2 ^ 8 + x.g.team * 2 ^ 10 + 2 ^ 31)
    | none => word (2 ^ 31)
  else 0

/-- `CLID` (R296). -/
def execClid (f : RForm) (s : State) : Host.Outcome State Fault Refusal :=
  issueEx (.clid f) s (fun x => .ok (x.form f.nw f.d (fun _ => x.clid)))

/-- What `AQST` reports of a station (R297). -/
def Ex.stationWord (x : Ex) (clause replica : Nat) : Word :=
  if !x.grid.kernel.sentence then 0
  else
    match x.gang.stations.find? (fun e => e.2.clause == clause && e.2.replica == replica) with
    | none => 0
    | some (k, st) =>
      let held := st.waiting.length
      let reps := (x.gang.stations.filter (fun e => e.2.clause == clause)).length
      let free := (x.s.team (teamKey x.g.gang k)).slots.length - (x.s.members x.g.gang k).length
      let ret := st.waiting.any (fun p => match Tab.find x.s.packets p with | some q => q.isReturn | none => false)
      word (min held 32 + (held - 32) * 2 ^ 8 + free * 2 ^ 22 + reps * 2 ^ 27 + b2n ret * 2 ^ 31)

/-- `AQST` (R297). -/
def execAqst (f : RForm) (s : State) : Host.Outcome State Fault Refusal :=
  issueEx (.aqst f) s (fun x =>
    let w := (x.rdU f.a).toNat
    if !x.go then .ok x
    else if w / 2 ^ 10 ≠ 0 then .error (.of .illegalOperand)
    else .ok (x.wr f.nw f.d (x.stationWord (field w 7 0) (field w 9 8))))

/-- `MAPACK` (R18, R329): 2 refused, 1 nothing to do, 0 acknowledged, the windows up to the version closed. -/
def State.acknowledge (s : State) (ctx v : Nat) : State × Nat :=
  let c := s.ctx ctx
  if s.mapv < v then (s, 2)
  else if v ≤ c.ack then (s, 1)
  else (s.setCtx ctx { c with ack := v, windows := c.windows.filter (fun w => v < w.version) }, 0)

/-- `MAPACK` (R329). -/
def execMapack (f : RForm) (s : State) : Host.Outcome State Fault Refusal :=
  issueEx (.mapack f) s (fun x => .ok (
    if x.go then
      let r := x.s.acknowledge x.ctxId (x.rdU f.a).toNat
      ({ x with s := r.1 } : Ex).wr f.nw f.d (word r.2)
    else x))

end Sys2Proof.Machine
end

