-- ==== Sys2Proof/Machine/Requests.lean ====
section
/-! DEFINITION. The packets that act on contexts and running grids (R18, R329, R348, R356, R366, R370), and egress from held trays
(R373). -/
namespace Sys2Proof.Machine

/-- A grid of a context that a packet names by its handle. -/
def State.gridNamed (s : State) (k handle : Nat) : Option Grid := (Tab.find s.grids handle).filter (fun g => g.ctx == k)

/-- A packet that names a grid: one that the context does not have is refused; the spec gives no reason for it, and the model
answers FORMAT (log 43, DESIGN CHOICE, unsafe). -/
def State.onGrid (s : State) (k : Nat) (bs : List Byte) (f : State → Nat → Grid → State × Nat) : State :=
  let h := wordAt bs 8
  match s.gridNamed k h with
  | none => s.ack k (packetSeq bs) 2 rFormat (word h)
  | some g =>
    let r := f s h g
    r.1.ack k (packetSeq bs) r.2 0 (word h)

/-- `MAPACK` from the host (R18, R329): its status is that of the acknowledgement; one of the current version lets a context that
was late resume. -/
def State.takeMapack (k : Nat) (s : State) (bs : List Byte) : State :=
  let v := wordAt bs 8
  let r := s.acknowledge k v
  let t := if v = s.mapv then r.1.setCtx k { r.1.ctx k with late := false } else r.1
  t.ack k (packetSeq bs) r.2 0 0

/-- `MAPACK` packet. -/
def execMapackPacket (r : QRef) (s : State) : Host.Outcome State Fault Refusal :=
  runPacket r (fun bs => packetKind bs == 5) (State.takeMapack (qiKey r)) s

/-- The abort flag of a HALT. -/
def aborts (bs : List Byte) : Bool := packetKind bs == 6 && bit (wordAt bs 0) 8

/-- `HALT` (R348): the grid is suspended. -/
def execHalt (r : QRef) (s : State) : Host.Outcome State Fault Refusal :=
  runPacket r (fun bs => packetKind bs == 6 && !aborts bs)
    (fun s bs => s.onGrid (qiKey r) bs (fun s h g => if g.complete || g.halted then (s, 1) else ((s.haltGrid h).settleCheck, 0))) s

/-- A gang that no cluster can take ends with its grid's abort: its work is gone, and its teams count as retired (R273, R348). -/
def State.endUnplaced (s : State) (gang : Nat) : State :=
  let ga := s.gang gang
  let left := (s.gangTeams gang).map (fun e => ga.linear (s.grid ga.grid) e.2.idx)
  let s1 := s.scrubGang gang
  let g := s1.grid ga.grid
  s1.setGrid ga.grid { (g.note 1 .hostAbort) with retired := g.retired ++ left }

/-- `HALT` with abort (R273, R348): every group and MCC of the grid has `HOST_ABORT` pending, and what was halted may resume to take
it (log 44, DESIGN CHOICE, unsafe). -/
def State.abortGrid (s : State) (grid : Nat) : State :=
  let mine := fun (g : Group) => (s.gang g.gang).grid == grid
  let hit := fun (g : Group) => g.addAsync .hostAbort 0
  let gone := (s.gangs.filter (fun e => e.2.grid == grid && e.2.suspended && e.2.told && !e.2.done)).map (·.1)
  let s1 := gone.foldl State.endUnplaced s
  let s2 := { s1 with groups := s1.groups.map (fun (e : Nat × Group) => if mine e.2 && e.2.run != Run.ended then (e.1, hit e.2) else e),
                      gangs := s1.gangs.map (fun (e : Nat × Gang) => (e.1, if e.2.grid = grid then e.2.mapGroups hit else e.2)) }
  (s2.setGrid grid { s2.grid grid with halted := false }).teamsDone grid

/-- `HALT` with abort (R348). -/
def execHaltAbort (r : QRef) (s : State) : Host.Outcome State Fault Refusal :=
  runPacket r aborts (fun s bs => s.onGrid (qiKey r) bs (fun s h g => if g.complete then (s, 1) else ((s.abortGrid h).settleCheck, 0))) s

/-- A suspended group goes on, and acquires what the host has read (R42, R183). -/
def Group.resumedBy (g : Group) (rs : List Release) : Group :=
  if g.run = .suspended then { g with run := .running, vecs := mergeReleases g.vecs rs } else g

/-- `RESUME` of one group, by linear team and group; the MCC of a gang is named as group 0 of its first team, as its HOSTREQ record
names it (R42, R156, R366). Whether any was suspended. -/
def State.resumeNamed (s : State) (grid lin grp : Nat) (rs : List Release) : State × Bool :=
  let here := fun (ga : Gang) (g : Group) => ga.grid == grid && ga.linear (s.grid grid) (if g.mcc then 0 else g.team) == lin && g.grp == grp
    && g.run == .suspended
  let any := s.groups.any (fun e => here (s.gang e.2.gang) e.2)
    || s.gangs.any (fun e => e.2.groups.any (fun sg => here e.2 sg.group) || (match e.2.mcc with | some m => here e.2 m.1 | none => false))
  let wake := fun (ga : Gang) (g : Group) => if here ga g then g.resumedBy rs else g
  ({ s with groups := s.groups.map (fun (e : Nat × Group) => (e.1, wake (s.gang e.2.gang) e.2)),
            gangs := s.gangs.map (fun (e : Nat × Gang) => (e.1, e.2.mapGroups (wake e.2))) }, any)

/-- `RESUME` (R18, R42, R318, R348, R366): nothing changes where nothing was suspended, or while the context is late. What resumes
acquires the host's writes and what it has read (R183). -/
def State.takeResume (k : Nat) (s : State) (bs : List Byte) : State :=
  let rs := s.knownReleases (k / 8)
  s.onGrid k bs (fun s h g =>
    let w := wordAt bs 0x0C
    if (s.ctx k).late then (s, 1)
    else if bit w 31 then
      let r := s.resumeNamed h (field w 20 0) (field w 24 21) rs
      (r.1, if r.2 then 0 else 1)
    else if g.halted then (s.setGrid h { g with halted := false, inherits := g.inherits ++ rs }, 0)
    else (s, 1))

/-- `RESUME` packet. -/
def execResume (r : QRef) (s : State) : Host.Outcome State Fault Refusal :=
  runPacket r (fun bs => packetKind bs == 7) (State.takeResume (qiKey r)) s

/-- `RECORD` (R356, R366, log 33, DESIGN CHOICE, unsafe): packet number and digest of a host input, in a grid that keeps a replay log. -/
def execRecord (r : QRef) (s : State) : Host.Outcome State Fault Refusal :=
  runPacket r (fun bs => packetKind bs == 8)
    (fun s bs => s.onGrid (qiKey r) bs (fun s h g =>
      if g.replay.isNone then (s, 1)
      else
        let d := sha3 (Memory.load s.mem (hostLoc (longAt bs 0x10)) (wordAt bs 0x18))
        (s.logReplay h (bytesLE 4 (packetSeq bs).toNat ++ d.take 12), 0))) s

/-- `CONTEXT` (R366, R370): refused with BUSY while the context has a running grid; otherwise the interface's context is this one,
with an empty pool, tensor table and log, and nothing cached. -/
def State.takeContext (k : Nat) (s : State) (bs : List Byte) : State :=
  if !(s.gridsOf k).isEmpty then s.ack k (packetSeq bs) 2 rBusy 0
  else
    let c : Ctx := { Ctx.empty with
      root := longAt bs 8, code := Memory.load s.mem (hostLoc (longAt bs 0x10)) (wordAt bs 0x18), hdlr := wordOf bs 0x1C,
      part := field (s.hubReg (0x500 + 4 * (k / 8))).toNat 3 0, fn := k / 8, qi := k % 8, grants := (s.ctx k).grants, live := true }
    let s1 := s.setCtx k c
    ({ s1 with tlb := s1.tlb.filter (fun e => e.ctx != k) }.settleCheck).ack k (packetSeq bs) 0 0 0

/-- `CONTEXT`. -/
def execContext (r : QRef) (s : State) : Host.Outcome State Fault Refusal :=
  runPacket r (fun bs => packetKind bs == 9) (State.takeContext (qiKey r)) s

/-- `POOL` (R366, R370): pages of local HBM join the context's pool. -/
def execPool (r : QRef) (s : State) : Host.Outcome State Fault Refusal :=
  runPacket r (fun bs => packetKind bs == 10)
    (fun s bs =>
      let k := qiKey r
      let c := s.ctx k
      let frames := (List.range (wordAt bs 0x10)).map (fun j => longAt bs 8 + 4096 * j)
      (s.setCtx k { c with pool := c.pool ++ frames }).ack k (packetSeq bs) 0 0 0) s

/-- The walker of the host's side of a context, which no TLB of the device serves. -/
def hostWalker (s : State) (k : Nat) : Walker := { ctx := k, part := (s.ctx k).part, user := true, tlbs := [], who := none }

/-- `EGREG` (R373): the tray is initialised, HOLD, of location 0, owned by the function's partition and not registered yet, and the
context may reach the buffer. -/
def State.takeEgreg (k : Nat) (s : State) (bs : List Byte) : State :=
  let va := longAt bs 8
  let buf := longAt bs 0x10
  let no := s.ack k (packetSeq bs) 2 rTray 0
  match s.object (hostWalker s k) none va 64 64 false with
  | .at h =>
    let n := s.trCount h * s.trSize h
    let pages := s.atsDenied.any (fun e => e.1 == k && decide (e.2 * 4096 < buf + n) && decide (buf < e.2 * 4096 + 4096))
    if s.trays.contains h && s.trHold h && !s.trLoc h && s.trOwner h == (s.ctx k).part && !s.egressOn h && !pages then
      let id := s.nextEgress
      let e : Egress := { ctx := k, tray := h, trayVa := va, buffer := buf, e := word (s.trReleased h), recorded := [], live := true }
      ({ s with egresses := Tab.put s.egresses id e, nextEgress := id + 1 }).ack k (packetSeq bs) 0 0 (word id)
    else no
  | _ => no

/-- `EGREG`. -/
def execEgreg (r : QRef) (s : State) : Host.Outcome State Fault Refusal :=
  runPacket r (fun bs => packetKind bs == 11) (State.takeEgreg (qiKey r)) s

/-- The host's release at `sys` of tray indices, after the fills and the COMPLETE records of the function that it has seen (R183, R184). -/
def State.hostRelease (s : State) (fn h : Nat) (is : List Nat) : Release :=
  { party := .host, scope := 3, team := 0,
    vecs := mergeReleases { Vecs.zero with home := 144 } (s.knownReleases fn ++ is.flatMap (fun i => s.relsAt (fillKey h i))) }

/-- `EGACK` (R373): the OPEN indices up to the one named for which a record has been written are released. -/
def State.takeEgack (k : Nat) (s : State) (bs : List Byte) : State :=
  let id := wordAt bs 8
  let i := wordAt bs 0x0C
  let no := s.ack k (packetSeq bs) 2 rTray (word id)
  match Tab.find s.egresses id with
  | none => no
  | some e =>
    let h := e.tray
    let r0 := s.trReleased h
    if e.ctx ≠ k ∨ !e.live ∨ !s.trBelow h i e.e.toNat then no
    else
      let is := ((List.range (sub32 i r0 + 1)).map (fun d => (r0 + d) % 2 ^ 32)).filter (fun j => e.recorded.contains (word j) && s.trState h j == slotOpen)
      let r := s.hostRelease (k / 8) h is
      let s1 := is.foldl (fun s j => s.releaseSlot h j r) s
      let s2 := { s1 with egresses := Tab.put s1.egresses id { e with recorded := e.recorded.filter (fun w => !is.contains w.toNat) } }
      s2.ack k (packetSeq bs) 0 0 (word id)

/-- `EGACK`. -/
def execEgack (r : QRef) (s : State) : Host.Outcome State Fault Refusal :=
  runPacket r (fun bs => packetKind bs == 12) (State.takeEgack (qiKey r)) s

/-- A record can be written or held (R368). -/
def State.recordRoom (s : State) (k : Nat) : Bool :=
  let q := s.qi k
  q.en && ((q.held.isEmpty && q.room ((q.dseq + 1) % 2 ^ 32)) || decide (q.held.length < 64))

/-- What the read of a slot for egress comes to: its bytes, with the places that are poisoned, and the state after it; a wait; or the
end of the egress, whose pages are gone. -/
inductive SlotRead where
  | bytes (bs : List Byte) (bad : List Nat) (s : State)
  | later
  | gone
deriving DecidableEq, Repr

/-- Reads `n` pieces of 16 bytes of a slot for egress (R151, R155, R192, R350). -/
def State.readSlot (s : State) (w : Walker) (va n : Nat) : SlotRead :=
  (List.range n).foldl (fun r j =>
    match r with
    | .bytes bs bad s =>
      match s.translate w .engineRead (va + 16 * j) 16 with
      | .fault _ => .gone
      | .wait _ => .later
      | .ok t =>
        let s1 := (s.arrive .host 144 t.loc 16).touchWalk w (va + 16 * j) t false
        let worse := ((List.range 16).filter (fun d => s1.poisoned (t.loc + d) 1)).map (fun d => 16 * j + d)
        .bytes (bs ++ Memory.load s1.mem t.loc 16) (bad ++ worse) s1
    | r => r) (.bytes [] [] s)

/-- One turn of an egress (R373): the next resolved index is released if it is VETOED, and copied and reported if it is OPEN, once its
record can be written; the egress ends when the tray's pages are given up. Poisoned bytes keep their mark in the buffer (log 45, DEDUCED, unsafe). -/
def execEgress (n : Nat) (s : State) : Host.Outcome State Fault Refusal :=
  match Tab.find s.egresses n with
  | none => .next s
  | some e =>
    let h := e.tray
    let i := e.e.toNat
    let set := fun (s : State) (e : Egress) => { s with egresses := Tab.put s.egresses n e }
    if !e.live then .next s
    else if !s.trays.contains h then .next (set s { e with live := false })
    else if !s.trBelow h i (s.trResolved h) then .next s
    else if s.trState h i = slotVetoed then .next (set (s.releaseSlot h i (s.hostRelease (e.ctx / 8) h [])) { e with e := e.e + 1 })
    else if !s.recordRoom e.ctx then .next s
    else
      let size := s.trSize h
      let off := i % s.trCount h * size
      match s.readSlot (hostWalker s e.ctx) (s.slotAt h i) (size / 16) with
      | .later => .next s
      | .gone => .next (set s { e with live := false })
      | .bytes bs bad t =>
        let t1 := t.hostWrite (e.buffer + off) bs
        let t2 := { t1 with poison := t1.poison ++ bad.map (fun d => hostLoc (e.buffer + off + d)) }
        .next (set (t2.record e.ctx 10 0 [word n, e.e, word off, word size]) { e with e := e.e + 1, recorded := e.recorded ++ [e.e] })

end Sys2Proof.Machine
end

