-- ==== Sys2Proof/Machine/HostPort.lean ====
section
/-! DEFINITION. The registers of queue interfaces (R363, R364, R368-R370, R372), hub registers as the host writes them (R20, R22, R359,
R363, R378, R381), function-level resets (R371) and the host's address translation (R370). -/
namespace Sys2Proof.Machine

/-- A function's interfaces ignore writes of `QCFG`, the ring bases and `QPASID` (R372). -/
def State.lockedFn (s : State) (k : Nat) : Bool := s.locked.contains (k / 8)

/-- A write of `CQACK` (R364, R368): room frees, and held records are written. -/
def State.setCqack (s : State) (k : Nat) (v : Word) : State := (s.setQi k { s.qi k with cqack := v }).releaseHeld k 64

/-- `CQACK` (R368). -/
def execCqack (r : QRef) (v : Word) (s : State) : Host.Outcome State Fault Refusal := .next (s.setCqack (qiKey r) v)

/-- A write of `QSTAT` (R364, R365): 1 clears `SEQERR`, and the same entry is read again; 1 clears `DROP` and its counters. -/
def State.setQstat (s : State) (k : Nat) (v : Word) : State :=
  let q := s.qi k
  let q1 := if bit v.toNat 2 then { q with drop := false, qdrop0 := 0, qdropn := 0 } else q
  if bit v.toNat 0 then (s.setQi k { q1 with seqerr := false }).proceed k ringMax else s.setQi k q1

/-- `QSTAT` (R364). -/
def execQstat (r : QRef) (v : Word) (s : State) : Host.Outcome State Fault Refusal := .next (s.setQstat (qiKey r) v)

/-- A ring size's logarithm: a value outside 4-16 changes nothing (R364). -/
def ringLog (old v : Nat) : Nat := if 4 ≤ v ∧ v ≤ 16 then v else old

/-- A write of `QCFG` (R364): ignored while the interface is enabled; setting en starts its sequences anew. -/
def State.setQcfg (s : State) (k : Nat) (v : Word) : State :=
  let q := s.qi k
  if q.en || s.lockedFn k then s
  else
    let q1 := { q with sqlog := ringLog q.sqlog (field v.toNat 4 0), cqlog := ringLog q.cqlog (field v.toNat 12 8) }
    if bit v.toNat 16 then
      (s.setQi k { q1 with en := true, sqtail := 0, sqhead := 0, cqseq := 0, cqack := 0, dseq := 0, unreported := 0, sinceFirst := 0,
                           held := [] }).proceed k ringMax
    else s.setQi k q1

/-- `QCFG` (R364). -/
def execQcfg (r : QRef) (v : Word) (s : State) : Host.Outcome State Fault Refusal := .next (s.setQcfg (qiKey r) v)

/-- The PASID of an interface is revoked (R318, R370): the context's grids are suspended, and its quotes void with blame OPERATOR. -/
def State.revoke (s : State) (k : Nat) : State :=
  let gs := s.gridsOf k
  let s1 := s.setQi k { s.qi k with valid := false, revoked := true }
  let s2 := gs.foldl (fun s g => s.voidQuote g blameOperator 0 .none true false) s1
  let s3 := s2.voidIdle k blameOperator 0 .none false
  ((gs.foldl (fun s g => s.haltGrid g) s3).settleCheck).proceed k ringMax

/-- A write of `QPASID` (R364, R370): while the interface is enabled only its valid bit changes. -/
def State.setQpasid (s : State) (k : Nat) (v : Word) : State :=
  let q := s.qi k
  if s.lockedFn k then s
  else
    let s1 := s.setQi k { q with pasid := if q.en then q.pasid else field v.toNat 19 0 }
    if bit v.toNat 31 then (s1.setQi k { s1.qi k with valid := true, revoked := false }).proceed k ringMax
    else if q.valid then s1.revoke k
    else s1

/-- `QPASID` (R370). -/
def execQpasid (r : QRef) (v : Word) (s : State) : Host.Outcome State Fault Refusal := .next (s.setQpasid (qiKey r) v)

/-- `PASID_STOP` (R370): the host stops the PASID of an interface. -/
def execPasidStop (r : QRef) (s : State) : Host.Outcome State Fault Refusal :=
  if (s.qi (qiKey r)).valid then .next (s.revoke (qiKey r)) else .next s

/-- A half of a ring base, with its low bits 0 (R364). -/
def setHalf (base : Nat) (high : Bool) (v low : Nat) : Nat :=
  if high then base % 2 ^ 32 + v * 2 ^ 32 else base / 2 ^ 32 * 2 ^ 32 + v / low * low

/-- A write of a ring base (R364, R372). -/
def State.setRing (s : State) (k off : Nat) (v : Word) : State :=
  let q := s.qi k
  if q.en || s.lockedFn k then s
  else if off < 8 then s.setQi k { q with sqbase := setHalf q.sqbase (off == 4) v.toNat 64 }
  else s.setQi k { q with cqbase := setHalf q.cqbase (off == 12) v.toNat 32 }

/-- `FNPART` (R363): ignored while the function has a running grid; the contexts of the function follow it. -/
def State.setFnpart (s : State) (f : Nat) (v : Word) : State :=
  if 32 ≤ f ∨ s.fnBusy f then s
  else
    let s1 := s.hubWrite (0x500 + 4 * f) v
    { s1 with ctxs := s1.ctxs.map (fun (e : Nat × Ctx) =>
      if e.1 / 8 = f then (e.1, { e.2 with part := field v.toNat 3 0 }) else e) }.proceedAll

/-- `FNPART` (R363). -/
def execFnpart (f : Nat) (v : Word) (s : State) : Host.Outcome State Fault Refusal := .next (s.setFnpart f v)

/-- `PEERCLR` (R378). -/
def execPeerclr (v : Word) (s : State) : Host.Outcome State Fault Refusal := .next (s.hubWrite 0x4AC v)

/-- `PWRVOTE` (R381). -/
def execPwrvote (p : Nat) (v : Word) (s : State) : Host.Outcome State Fault Refusal :=
  if p < 8 then .next (s.hubWrite (0x480 + 4 * p) v) else .next s

/-- `BANDIDLE` (R22). -/
def execBandidle (v : Word) (s : State) : Host.Outcome State Fault Refusal := .next (s.hubWrite 0x10C v)

/-- The range, weight and hold-grant registers of a partition (R359). -/
def execPartitionRegisters (p off : Nat) (v : Word) (s : State) : Host.Outcome State Fault Refusal :=
  if p < 8 ∧ off < 16 ∧ off % 4 = 0 then .next (s.hubWrite (0x400 + 16 * p + off) v) else .next s

/-- A write of `QIRQ` (R364, R368): where it enables interrupts with as many records unreported as its count asks for, one is sent. -/
def State.setQirq (s : State) (k : Nat) (v : Word) : State :=
  let s1 := s.setQi k { s.qi k with qirq := v &&& 0xFFFFFF3F }
  let n := field v.toNat 15 8
  if n ≠ 0 ∧ n ≤ (s.qi k).unreported then s1.interrupt k else s1

/-- A host write of any register of hub space, or of a queue interface (R3, R363, R364); one of a read-only register, or where there is
none, is ignored (log 131, DESIGN CHOICE, unsafe). -/
def State.writeReg (s : State) (r : RegRef) (v : Word) : State :=
  match r with
  | .hub off => if 0x500 ≤ off ∧ off < 0x580 ∧ off % 4 = 0 then s.setFnpart ((off - 0x500) / 4) v else s.hubWrite off v
  | .qi q off =>
    let k := qiKey q
    match off with
    | 0x00 | 0x04 | 0x08 | 0x0C => s.setRing k off v
    | 0x10 => s.setQcfg k v
    | 0x14 => s.setQpasid k v
    | 0x18 => s.setSqtail k v
    | 0x24 => s.setCqack k v
    | 0x28 => s.setQirq k v
    | 0x2C => s.setQstat k v
    | _ => s

/-- `REGISTER_WRITE` (R3). -/
def execRegisterWrite (r : RegRef) (v : Word) (s : State) : Host.Outcome State Fault Refusal := .next (s.writeReg r v)

/-- A register of a queue interface as the host reads it (R364). -/
def State.qiRead (s : State) (k off : Nat) : Word :=
  let q := s.qi k
  match off with
  | 0x00 => word q.sqbase
  | 0x04 => word (q.sqbase / 2 ^ 32)
  | 0x08 => word q.cqbase
  | 0x0C => word (q.cqbase / 2 ^ 32)
  | 0x10 => word (q.sqlog + q.cqlog * 2 ^ 8 + b2n q.en * 2 ^ 16)
  | 0x14 => word (q.pasid + b2n q.valid * 2 ^ 31)
  | 0x18 => q.sqtail
  | 0x1C => q.sqhead
  | 0x20 => q.cqseq
  | 0x24 => q.cqack
  | 0x28 => q.qirq
  | 0x2C => word (b2n q.seqerr + 2 * b2n (!q.held.isEmpty) + 4 * b2n q.drop + 8 * b2n q.revoked)
  | 0x30 => q.qdrop0
  | 0x34 => q.qdropn
  | _ => 0

/-- `INTERRUPT_DELAY` (R368): the delay has elapsed since the first record that no interrupt has reported. -/
def execInterruptDelay (r : QRef) (s : State) : Host.Outcome State Fault Refusal :=
  let k := qiKey r
  let q := s.qi k
  let d := field q.qirq.toNat 30 16
  if 0 < q.unreported ∧ 0 < d ∧ 1024 * d ≤ q.sinceFirst then .next (s.interrupt k) else .next s

/-- The interfaces of a function. -/
def fnQis (f : Nat) : List Nat := (List.range 8).map (8 * f + ·)

/-- `FLR` (R371): what its parties have not yet had performed is performed, and stores that are held for a peer are discarded; the function's interfaces are at their reset values, so
that no record is written; its grids stop and are scrubbed, its quotes are void with blame OPERATOR, its walks and egresses end, and
nothing of its contexts is left. -/
def State.flr (s : State) (f : Nat) : State :=
  let ks := fnQis f
  let mine := fun (k : Nat) => ks.contains k
  let s := ((s.groups.filter (fun e => mine (s.ctxOf e.2))).map (·.1)).foldl (fun s gid => s.beforeRelease gid 3) s
  let s1 := { s with posted := s.posted.filter (fun p => !mine p.ctx), qis := s.qis.filter (fun e => !mine e.1), walks := s.walks.filter (fun w => !mine w.qi),
                     egresses := s.egresses.map (fun (e : Nat × Egress) => if mine e.2.ctx then (e.1, { e.2 with live := false }) else e),
                     migrations := s.migrations.filter (fun m => !mine m.1) }
  let s2 := ks.foldl (fun s k =>
    let gs := s.gridsOf k
    let s1 := gs.foldl (fun s g => s.voidQuote g blameOperator 0 .none true false) s
    let s2 := s1.voidIdle k blameOperator 0 .none false
    gs.foldl (fun s g => s.stopGrid g 2 .none) s2) s1
  { s2 with ctxs := s2.ctxs.map (fun (e : Nat × Ctx) => if mine e.1 then (e.1, { Ctx.empty with fn := f, qi := e.1 % 8, grants := e.2.grants }) else e), tlb := s2.tlb.filter (fun e => !mine e.ctx),
            atsDenied := s2.atsDenied.filter (fun e => !mine e.1), locked := s2.locked.filter (· != f),
            walks := s2.walks.filter (fun w => !mine w.qi), qis := s2.qis.filter (fun e => !mine e.1) }

/-- `FLR` (R371). -/
def execFlr (f : Nat) (s : State) : Host.Outcome State Fault Refusal := .next (s.flr f).settleCheck

/-- `ATS_INVALIDATION` (R370): it completes once every access that used the translation is performed; of those only combining updates
are ever outstanding in the model. -/
def execAtsInvalidation (r : QRef) (iova pages : Nat) (s : State) : Host.Outcome State Fault Refusal :=
  let here := fun (loc : Nat) => decide (hostLoc (iova / 4096 * 4096) ≤ loc) && decide (loc < hostLoc (iova / 4096 * 4096) + 4096 * pages)
  if !(s.ctx (qiKey r)).live then .next s
  else
    let s1 := performComs (fun u => here u.loc) s.coms.length s
    .next ((Tab.keys s1.clusters).foldl (fun s c =>
      let cl := s.cluster c
      (cl.qnt.filter (fun b => here b.loc)).foldl State.flushBuf (s.setCluster c { cl with qnt := cl.qnt.filter (fun b => !here b.loc) })) s1)

end Sys2Proof.Machine
end

