-- ==== Sys2Proof/Machine/Boot.lean ====
section
/-! DEFINITION. Boot (R383), the SPDM requests of function 0 (R385) and the TDISP state of functions (R372). The spec names the SPDM
requests and the measurements; the messages' layout, codes and order are taken from SPDM 1.3 (log 46, PRESUMED, unsafe). -/
namespace Sys2Proof.Machine

/-- What stops the boot at a stage, as `BOOTSTAT.reason` has it, or 0 (R363, R383). Of several failures the model reports the digest
before the signature and that before the version (log 47, DESIGN CHOICE, unsafe). -/
def stageFault (t : StageImage) : Nat :=
  if !t.digestOk then 2 else if !t.signatureOk then 1 else if t.version < t.minVersion then 3 else 0

/-- The first stage, from number `n` on, that stops the boot, with the reason; a stage that is not there has no right digest. -/
def bootFault : Nat → Nat → List StageImage → Option (Nat × Nat)
  | 0, _, _ => none
  | _ + 1, n, [] => some (n, 2)
  | left + 1, n, t :: ts => if stageFault t ≠ 0 then some (n, stageFault t) else bootFault left (n + 1) ts

/-- The compound device identifier of a layer: the digest of the identifier before it and the layer's digest (R384). -/
def layerIdentity (before digest : List Byte) : List Byte := sha3 (before ++ digest)

/-- The identifier of the ROM layer, for which the fused secret stands in for the one before (R384). -/
def romIdentity : List Byte := layerIdentity ((List.range 64).map Config.fusedByte) ((List.range 64).map Config.romByte)

/-- The identifiers of a layer and of those after it, by their digests (R384). -/
def layers (first : List Byte) : List (List Byte) → List (List Byte)
  | [] => [first]
  | d :: ds => first :: layers (layerIdentity first d) ds

/-- `BOOT` (R13, R363, R383): after the fourth stage the map and the cost table stand and `MAPV` is 1; a failure is recorded, and no
interface consumes packets. The identifiers of the layers are those of what has been verified (R384), and the stepping
is the chip's (R20, log 139, DESIGN CHOICE, unsafe). A map that leaves a live tile fewer
than 16 live clusters is none that firmware builds (R7, log 129, DEDUCED, unsafe). -/
def execBoot (b : BootInput) (s : State) : Host.Outcome State Fault Refusal :=
  if s.bootstat ≠ 0 then .next s
  else
    let ds := b.stages.map (·.digest)
    match bootFault 4 1 b.stages with
    | some (n, reason) =>
      .next { s with stages := ds.take (n - 1), identities := layers romIdentity (ds.take (n - 1)), bootstat := word (n - 1 + n * 2 ^ 4 + reason * 2 ^ 7)
                     regs := s.regs.map (fun (e : Nat × Word) => if 0x504 ≤ e.1 ∧ e.1 < 0x580 then (e.1, e.2 &&& 0xF) else e) }
    | none =>
      let s0 := { s with mapv := 1 }
      let ws := b.map.filter (fun (e : Nat × Word) => mapListed e.1 && e.1 != 0 && e.1 != 3)
      let s1 := { s0 with bootstat := 12, stages := ds.take 4, identities := layers romIdentity (ds.take 4),
                          map := (s0.derived ws).foldl (fun t (e : Nat × Word) => Tab.put t e.1 e.2) s.map, costv := 1,
                          costs := b.costs.foldl raiseCost [], rev := b.rev % 256 }
      if s0.staffed ws then .next s1.proceedAll else .next s

/-- `n` bytes that the spec does not state: random numbers and what a message adds to its contents (R385). -/
def freeBytes (c n : Nat) : List Byte := (List.range n).map (fun j => (Config.freeWord (c + j)).setWidth 8)

/-- An SPDM response: a version byte, a code, two parameters and a body; it is the mailbox's latest (R385, log 46, PRESUMED, unsafe). -/
def State.respond (s : State) (code p1 p2 : Nat) (body : List Byte) : State :=
  { s with spdm := { s.spdm with answered := s.spdm.answered ++ [code],
                                 responses := ([0x13, BitVec.ofNat 8 code, BitVec.ofNat 8 p1, BitVec.ofNat 8 p2] ++ body) :: s.spdm.responses } }

/-- A response with a body that the spec does not state. -/
def State.respondFree (s : State) (code : Nat) : State :=
  let n := Config.freeNat s.freeCtr % 65536
  ({ s with freeCtr := s.freeCtr + 1 + n }).respond code 0 0 (freeBytes (s.freeCtr + 1) n)

/-- The answer to a request out of order: ERROR, unexpected request (log 46, PRESUMED, unsafe). -/
def State.unexpected (s : State) : State := s.respond 0x7F 4 0 []

/-- A request answered where its place in the order admits it (log 46, PRESUMED, unsafe). -/
def State.answerIf (s : State) (ok : Bool) (f : State → State) : State := if ok then f s else s.unexpected

/-- `GET_VERSION` (R385): version 1.3; the exchange starts anew. -/
def execGetVersion (_msg : List Byte) (s : State) : Host.Outcome State Fault Refusal :=
  let s1 := { s with spdm := { s.spdm with version := true, caps := false, algs := false, exchanged := false, session := false } }
  .next (s1.respond 0x04 0 0 [0, 1, 0, 0x13])

/-- The capabilities by which the device supports GET_CERTIFICATE, CHALLENGE, GET_MEASUREMENTS with a signature, KEY_EXCHANGE, and the
encryption and authentication of a session (R385, log 46, PRESUMED, unsafe). -/
def capabilityFlags : Nat := 2 ^ 1 + 2 ^ 2 + 2 ^ 4 + 2 ^ 6 + 2 ^ 7 + 2 ^ 9

/-- The algorithms: SHA3-512 for measurements and hashes, and ML-DSA-87 for signatures (R385, log 46, PRESUMED, unsafe). -/
def algorithmBody : List Byte :=
  bytesLE 2 36 ++ [1, 0] ++ bytesLE 4 (2 ^ 6) ++ bytesLE 4 0 ++ bytesLE 4 (2 ^ 5) ++ bytesLE 4 (2 ^ 2) ++ List.replicate 12 0

/-- An identifier of the boot (R384). -/
def State.identity (s : State) (layer : Nat) : List Byte := s.identities.getD layer []

/-- The device identity key derives from the ROM layer, and the alias key from stage 4 (R384). -/
def State.identityKey (s : State) : List Byte := Config.publicKey (s.identity 0)
def State.aliasKey (s : State) : List Byte := Config.publicKey (s.identity 4)

/-- The certificate of a layer: its key and identifier's digest, signed with the key of the layer before (R384, log 46, PRESUMED, unsafe). -/
def State.certificate (s : State) (layer : Nat) : List Byte :=
  let body := Config.publicKey (s.identity layer) ++ s.stages.getD (layer - 1) []
  body ++ Config.sign (s.identity (layer - 1)) body

/-- The chain of certificates, layer by layer: the device identity key, and the certificates that lead from it to the alias key (R384). -/
def State.chain (s : State) : List Byte := s.identityKey ++ [1, 2, 3, 4].flatMap s.certificate

/-- A message with its signature under the alias key (R384, R385). -/
def State.signed (s : State) (body : List Byte) : List Byte := body ++ Config.sign (s.identity 4) body

/-- `GET_CAPABILITIES` (R385): the body is a reserved byte, a time, two reserved bytes, the flags and two sizes; the spec states neither
the time nor the sizes. -/
def execGetCapabilities (_msg : List Byte) (s : State) : Host.Outcome State Fault Refusal :=
  .next (s.answerIf s.spdm.version (fun s =>
    ({ s with spdm := { s.spdm with caps := true }, freeCtr := s.freeCtr + 9 }).respond 0x61 0 0
      ([0] ++ freeBytes s.freeCtr 1 ++ [0, 0] ++ bytesLE 4 capabilityFlags ++ freeBytes (s.freeCtr + 1) 8)))

/-- `NEGOTIATE_ALGORITHMS` (R385). -/
def execNegotiateAlgorithms (_msg : List Byte) (s : State) : Host.Outcome State Fault Refusal :=
  .next (s.answerIf s.spdm.caps (fun s => ({ s with spdm := { s.spdm with algs := true } }).respond 0x63 0 0 algorithmBody))

/-- `GET_DIGESTS` (R384, R385): the digest of the chain, which is in slot 0. -/
def execGetDigests (_msg : List Byte) (s : State) : Host.Outcome State Fault Refusal :=
  .next (s.answerIf s.spdm.algs (fun s => s.respond 0x01 1 1 (sha3 s.chain)))

/-- `GET_CERTIFICATE` (R384, R385): the part of the chain that the message names by its offset and length. -/
def execGetCertificate (msg : List Byte) (s : State) : Host.Outcome State Fault Refusal :=
  let off := natLE ((msg.drop 4).take 2)
  let len := natLE ((msg.drop 6).take 2)
  .next (s.answerIf s.spdm.algs (fun s =>
    let part := (s.chain.drop off).take len
    s.respond 0x02 0 0 (bytesLE 2 part.length ++ bytesLE 2 ((s.chain.drop off).length - part.length) ++ part)))

/-- `CHALLENGE` (R384, R385): the chain's digest, a nonce and the digests of the measurements, signed under the alias key. -/
def execChallenge (_msg : List Byte) (s : State) : Host.Outcome State Fault Refusal :=
  .next (s.answerIf s.spdm.algs (fun s =>
    ({ s with freeCtr := s.freeCtr + 32 }).respond 0x03 0 1
      (s.signed (sha3 s.chain ++ freeBytes s.freeCtr 32 ++ sha3 (s.stages.flatMap (fun d => d)) ++ [0, 0]))))

/-- The digest of every map word (R12, R385): the listed words in order of their index. -/
def State.mapDigest (s : State) : List Byte :=
  sha3 (((List.range 0x6100).filter mapListed).flatMap (fun k => bytesLE 4 (s.readMap 0 k).toNat))

/-- The digest of the cost table (R21, R385): its entries in order of their class. -/
def State.costDigest (s : State) : List Byte :=
  sha3 ((List.range 25).flatMap (fun k => bytesLE 4 (Tab.read s.costs k (0, 0)).1 ++ bytesLE 4 (Tab.read s.costs k (0, 0)).2))

/-- A measurement by its index (R385); the spec states none for a stage that has not been verified. -/
def State.measurement (s : State) (i : Nat) : List Byte :=
  match i with
  | 5 => bytesLE 4 s.mapv ++ s.mapDigest
  | 6 => bytesLE 4 s.costv ++ s.costDigest
  | _ => s.stages.getD (i - 1) (freeBytes (s.freeCtr + 64 * i) 64)

/-- A measurement with its index and length (log 46, PRESUMED, unsafe). -/
def State.measured (s : State) (i : Nat) : List Byte :=
  let v := s.measurement i
  [BitVec.ofNat 8 i, 1] ++ bytesLE 2 v.length ++ v

/-- `GET_MEASUREMENTS` (R385): the message's fourth byte names an index, 0 asks for their number, 0xFF for all; the lowest bit of its third
byte asks for a signature under the alias key (R384). -/
def execGetMeasurements (msg : List Byte) (s : State) : Host.Outcome State Fault Refusal :=
  let i := (msg.getD 3 0).toNat
  let is := if i = 0xFF then [1, 2, 3, 4, 5, 6] else if 1 ≤ i ∧ i ≤ 6 then [i] else []
  .next (s.answerIf s.spdm.algs (fun s =>
    let body := [BitVec.ofNat 8 is.length] ++ is.flatMap s.measured
    ({ s with freeCtr := s.freeCtr + 512 }).respond 0x60 (if i = 0 then 6 else 0) 0
      (if bit (msg.getD 2 0).toNat 0 then s.signed (body ++ freeBytes (s.freeCtr + 480) 32 ++ [0, 0]) else body)))

/-- `KEY_EXCHANGE` (R385). -/
def execKeyExchange (_msg : List Byte) (s : State) : Host.Outcome State Fault Refusal :=
  .next (s.answerIf s.spdm.algs (fun s => ({ s with spdm := { s.spdm with exchanged := true } }).respondFree 0x64))

/-- `FINISH` (R385): the session's keys are set up, and with them those of IDE. -/
def execFinish (_msg : List Byte) (s : State) : Host.Outcome State Fault Refusal :=
  .next (s.answerIf s.spdm.exchanged (fun s =>
    ({ s with spdm := { s.spdm with exchanged := false, session := true } }).respondFree 0x65))

/-- `TDISP_PROTOCOL` (R372): a virtual function comes into LOCKED or RUN, or leaves them. -/
def execTdispProtocol (f : Nat) (lock : Bool) (s : State) : Host.Outcome State Fault Refusal :=
  if f = 0 ∨ 32 ≤ f then .next s
  else .next { s with locked := if lock then (if s.locked.contains f then s.locked else f :: s.locked) else s.locked.filter (· != f) }

end Sys2Proof.Machine
end

