-- ==== Sys2Proof/Machine/Compute.lean ====
section
/-! DEFINITION. The compute instructions: arithmetic (R104-R108), logic and bits (R109-R111), conversion (R112, R113),
compare (R114, R115), predicates and votes (R116, R117), lane exchange (R118-R120), moves (R121, R122), constants
(R123), and the words that are no instruction (R67). -/
namespace Sys2Proof.Machine

/-- A trap raised by every word of a kind, guarded or not (R67). -/
def fate (i : Instr) (c : Cause) (s : State) : Host.Outcome State Fault Refusal :=
  issueWith i s (fun _ => .error (.of c))

/-- `ILLEGAL_ZERO`: Issuing the all-zero word traps with ILLEGAL_ZERO. (R67) -/
def execIllegalZero (s : State) : Host.Outcome State Fault Refusal :=
  fate .illegalZero .illegalZero s

/-- `ILLEGAL_OPCODE`: Issuing a word with opcode 0x000, an unassigned opcode, an illegal ATM pair or an opcode excluded on the MCC
traps with ILLEGAL_OPCODE. (R67) -/
def execIllegalOpcode (w : Word) (s : State) : Host.Outcome State Fault Refusal :=
  fate (.illegalOpcode w) .illegalOpcode s

/-- `STREAM_WORD`: Issuing a word with opcode 0x300-0x3FF in a core's or the MCC's stream traps with STREAM_WORD. (R67) -/
def execStreamWord (w : Word) (s : State) : Host.Outcome State Fault Refusal :=
  fate (.streamWord w) .streamWord s

/-- `NOP`: Does nothing, shifts no latch and is not guarded. (R103) -/
def execNop (f : RForm) (s : State) : Host.Outcome State Fault Refusal :=
  issueEx (.nop f) s (fun x => .ok x)

/-- `ADD`: Adds a and b per element, with rounding or saturation as MODE gives. (R104) -/
def execAdd (f : RForm) (s : State) : Host.Outcome State Fault Refusal :=
  issueEx (.add f) s (fun x => .ok (x.alu .add f))

/-- `SUB`: Subtracts b from a per element. (R104) -/
def execSub (f : RForm) (s : State) : Host.Outcome State Fault Refusal :=
  issueEx (.sub f) s (fun x => .ok (x.alu .sub f))

/-- `MUL`: Multiplies a by b per element. (R104) -/
def execMul (f : RForm) (s : State) : Host.Outcome State Fault Refusal :=
  issueEx (.mul f) s (fun x => .ok (x.alu .mul f))

/-- `MULH`: Returns the upper w bits of the exact integer product. (R104) -/
def execMulh (f : RForm) (s : State) : Host.Outcome State Fault Refusal :=
  issueEx (.mulh f) s (fun x => .ok (x.alu .mulh f))

/-- `MAC`: Computes d + a*b as a fused operation with one rounding. (R104) -/
def execMac (f : RForm) (s : State) : Host.Outcome State Fault Refusal :=
  issueEx (.mac f) s (fun x => .ok (x.alu .mac f))

/-- `MIN`: Returns the lesser of a and b per element. (R104) -/
def execMin (f : RForm) (s : State) : Host.Outcome State Fault Refusal :=
  issueEx (.min f) s (fun x => .ok (x.alu .min f))

/-- `MAX`: Returns the greater of a and b per element. (R104) -/
def execMax (f : RForm) (s : State) : Host.Outcome State Fault Refusal :=
  issueEx (.max f) s (fun x => .ok (x.alu .max f))

/-- `ABS`: Returns the absolute value of a per element. (R104) -/
def execAbs (f : RForm) (s : State) : Host.Outcome State Fault Refusal :=
  issueEx (.abs f) s (fun x => .ok (x.alu .abs f))

/-- `NEG`: Returns the negation of a per element. (R104) -/
def execNeg (f : RForm) (s : State) : Host.Outcome State Fault Refusal :=
  issueEx (.neg f) s (fun x => .ok (x.alu .neg f))

/-- `DIV`: Divides a by b per element; division by zero gives all ones or infinity and never traps. (R104) -/
def execDiv (f : RForm) (s : State) : Host.Outcome State Fault Refusal :=
  issueEx (.div f) s (fun x => .ok (x.alu .div f))

/-- `REM`: Returns the integer remainder, taking the sign of the dividend. (R104) -/
def execRem (f : RForm) (s : State) : Host.Outcome State Fault Refusal :=
  issueEx (.rem f) s (fun x => .ok (x.alu .rem f))

/-- `RCP`: Computes 1/a, rounded once. (R107) -/
def execRcp (f : RForm) (s : State) : Host.Outcome State Fault Refusal :=
  issueEx (.rcp f) s (fun x => .ok (x.alu .rcp f))

/-- `RSQ`: Computes 1/sqrt(a), rounded once. (R107) -/
def execRsq (f : RForm) (s : State) : Host.Outcome State Fault Refusal :=
  issueEx (.rsq f) s (fun x => .ok (x.alu .rsq f))

/-- `SQRT`: Computes sqrt(a), rounded once. (R107) -/
def execSqrt (f : RForm) (s : State) : Host.Outcome State Fault Refusal :=
  issueEx (.sqrt f) s (fun x => .ok (x.alu .sqrt f))

/-- `EXP2`: Computes 2^a, rounded once. (R107) -/
def execExp2 (f : RForm) (s : State) : Host.Outcome State Fault Refusal :=
  issueEx (.exp2 f) s (fun x => .ok (x.alu .exp2 f))

/-- `LOG2`: Computes log2 a, rounded once. (R107) -/
def execLog2 (f : RForm) (s : State) : Host.Outcome State Fault Refusal :=
  issueEx (.log2 f) s (fun x => .ok (x.alu .log2 f))

/-- `TANH`: Computes tanh a, rounded once. (R107) -/
def execTanh (f : RForm) (s : State) : Host.Outcome State Fault Refusal :=
  issueEx (.tanh f) s (fun x => .ok (x.alu .tanh f))

/-- `AND`: Bitwise and of a and b. (R109) -/
def execAnd (f : RForm) (s : State) : Host.Outcome State Fault Refusal :=
  issueEx (.and_ f) s (fun x => .ok (x.bits .and_ f))

/-- `OR`: Bitwise or of a and b. (R109) -/
def execOr (f : RForm) (s : State) : Host.Outcome State Fault Refusal :=
  issueEx (.or_ f) s (fun x => .ok (x.bits .or_ f))

/-- `XOR`: Bitwise exclusive-or of a and b. (R109) -/
def execXor (f : RForm) (s : State) : Host.Outcome State Fault Refusal :=
  issueEx (.xor_ f) s (fun x => .ok (x.bits .xor_ f))

/-- `ANDN`: Bitwise a and not b. (R109) -/
def execAndn (f : RForm) (s : State) : Host.Outcome State Fault Refusal :=
  issueEx (.andn f) s (fun x => .ok (x.bits .andn f))

/-- `SHL`: Shifts a left by n, giving 0 when n is 32 or more. (R109) -/
def execShl (f : RForm) (s : State) : Host.Outcome State Fault Refusal :=
  issueEx (.shl f) s (fun x => .ok (x.bits .shl f))

/-- `SHR`: Shifts a right by n with zero fill. (R109) -/
def execShr (f : RForm) (s : State) : Host.Outcome State Fault Refusal :=
  issueEx (.shr f) s (fun x => .ok (x.bits .shr f))

/-- `SAR`: Shifts a right by n with sign fill. (R109) -/
def execSar (f : RForm) (s : State) : Host.Outcome State Fault Refusal :=
  issueEx (.sar f) s (fun x => .ok (x.bits .sar f))

/-- `ROT`: Rotates a left by n mod 32. (R109) -/
def execRot (f : RForm) (s : State) : Host.Outcome State Fault Refusal :=
  issueEx (.rot f) s (fun x => .ok (x.bits .rot f))

/-- `POPC`: Counts the set bits of a. (R109) -/
def execPopc (f : RForm) (s : State) : Host.Outcome State Fault Refusal :=
  issueEx (.popc f) s (fun x => .ok (x.bits .popc f))

/-- `CLZ`: Counts the leading zero bits of a. (R109) -/
def execClz (f : RForm) (s : State) : Host.Outcome State Fault Refusal :=
  issueEx (.clz f) s (fun x => .ok (x.bits .clz f))

/-- `BREV`: Reverses the bit order of a. (R109) -/
def execBrev (f : RForm) (s : State) : Host.Outcome State Fault Refusal :=
  issueEx (.brev f) s (fun x => .ok (x.bits .brev f))

/-- `BFX`: Extracts a bit field, with sign extension under signed types. (R110) -/
def execBfx (f : RForm) (s : State) : Host.Outcome State Fault Refusal :=
  issueEx (.bfx f) s (fun x => .ok (x.form f.nw f.d (fun l => word (bfxWord x.mode (x.rd f.a l).toNat (x.rd f.b l).toNat))))

/-- `BFI`: Inserts a bit field of a into d. (R110) -/
def execBfi (f : RForm) (s : State) : Host.Outcome State Fault Refusal :=
  issueEx (.bfi f) s (fun x => .ok (x.form f.nw f.d (fun l =>
    word (bfiWord (x.rd f.a l).toNat (x.rd f.b l).toNat (x.rd f.d l).toNat))))

/-- `PRMT`: Permutes bytes of a and d under the nibbles of b. (R111) -/
def execPrmt (f : RForm) (s : State) : Host.Outcome State Fault Refusal :=
  issueEx (.prmt f) s (fun x => .ok (x.form f.nw f.d (fun l =>
    word (prmtWord (x.rd f.a l).toNat (x.rd f.b l).toNat (x.rd f.d l).toNat))))

/-- `CVT_F32`: Converts elements into binary32 at the position that b selects. (R112) -/
def execCvtF32 (f : RForm) (s : State) : Host.Outcome State Fault Refusal :=
  issueEx (.cvtF32 f) s (fun x => .ok (x.convert (.flt .f32) f))

/-- `CVT_BF16`: Converts elements into bfloat16. (R112) -/
def execCvtBf16 (f : RForm) (s : State) : Host.Outcome State Fault Refusal :=
  issueEx (.cvtBf16 f) s (fun x => .ok (x.convert (.flt .bf16) f))

/-- `CVT_F16`: Converts elements into binary16. (R112) -/
def execCvtF16 (f : RForm) (s : State) : Host.Outcome State Fault Refusal :=
  issueEx (.cvtF16 f) s (fun x => .ok (x.convert (.flt .f16) f))

/-- `CVT_E4M3`: Converts elements into E4M3. (R112) -/
def execCvtE4m3 (f : RForm) (s : State) : Host.Outcome State Fault Refusal :=
  issueEx (.cvtE4m3 f) s (fun x => .ok (x.convert (.flt .e4m3) f))

/-- `CVT_E5M2`: Converts elements into E5M2. (R112) -/
def execCvtE5m2 (f : RForm) (s : State) : Host.Outcome State Fault Refusal :=
  issueEx (.cvtE5m2 f) s (fun x => .ok (x.convert (.flt .e5m2) f))

/-- `CVT_E2M1`: Converts elements into E2M1. (R112) -/
def execCvtE2m1 (f : RForm) (s : State) : Host.Outcome State Fault Refusal :=
  issueEx (.cvtE2m1 f) s (fun x => .ok (x.convert (.flt .e2m1) f))

/-- `CVT_DY8`: Converts elements into DYAD8, ignoring MODE.round and MODE.sat. (R86) -/
def execCvtDy8 (f : RForm) (s : State) : Host.Outcome State Fault Refusal :=
  issueEx (.cvtDy8 f) s (fun x => .ok (x.convert .dyad f))

/-- `CVT_I32`: Converts elements into signed 32-bit integers. (R112) -/
def execCvtI32 (f : RForm) (s : State) : Host.Outcome State Fault Refusal :=
  issueEx (.cvtI32 f) s (fun x => .ok (x.convert (.int 32 true) f))

/-- `CVT_N32`: Converts elements into natural 32-bit integers. (R112) -/
def execCvtN32 (f : RForm) (s : State) : Host.Outcome State Fault Refusal :=
  issueEx (.cvtN32 f) s (fun x => .ok (x.convert (.int 32 false) f))

/-- `CVT_I8`: Converts elements into signed 8-bit integers. (R112) -/
def execCvtI8 (f : RForm) (s : State) : Host.Outcome State Fault Refusal :=
  issueEx (.cvtI8 f) s (fun x => .ok (x.convert (.int 8 true) f))

/-- `CVT_N8`: Converts elements into natural 8-bit integers. (R112) -/
def execCvtN8 (f : RForm) (s : State) : Host.Outcome State Fault Refusal :=
  issueEx (.cvtN8 f) s (fun x => .ok (x.convert (.int 8 false) f))

/-- `CMP_EQ`: Sets a predicate per lane where a equals b in every element. (R114) -/
def execCmpEq (f : RForm) (s : State) : Host.Outcome State Fault Refusal :=
  issueEx (.cmpEq f) s (fun x => .ok (x.compare .eq f))

/-- `CMP_NE`: Sets a predicate where a differs from b. (R114) -/
def execCmpNe (f : RForm) (s : State) : Host.Outcome State Fault Refusal :=
  issueEx (.cmpNe f) s (fun x => .ok (x.compare .ne f))

/-- `CMP_LT`: Sets a predicate where a is less than b. (R114) -/
def execCmpLt (f : RForm) (s : State) : Host.Outcome State Fault Refusal :=
  issueEx (.cmpLt f) s (fun x => .ok (x.compare .lt f))

/-- `CMP_LE`: Sets a predicate where a is at most b. (R114) -/
def execCmpLe (f : RForm) (s : State) : Host.Outcome State Fault Refusal :=
  issueEx (.cmpLe f) s (fun x => .ok (x.compare .le f))

/-- `CMP_GT`: Sets a predicate where a is greater than b. (R114) -/
def execCmpGt (f : RForm) (s : State) : Host.Outcome State Fault Refusal :=
  issueEx (.cmpGt f) s (fun x => .ok (x.compare .gt f))

/-- `CMP_GE`: Sets a predicate where a is at least b. (R114) -/
def execCmpGe (f : RForm) (s : State) : Host.Outcome State Fault Refusal :=
  issueEx (.cmpGe f) s (fun x => .ok (x.compare .ge f))

/-- `CMP_ORD`: Sets a predicate where neither input is NaN. (R114) -/
def execCmpOrd (f : RForm) (s : State) : Host.Outcome State Fault Refusal :=
  issueEx (.cmpOrd f) s (fun x => .ok (x.compare .ord f))

/-- `CMP_UNORD`: Sets a predicate where either input is NaN. (R114) -/
def execCmpUnord (f : RForm) (s : State) : Host.Outcome State Fault Refusal :=
  issueEx (.cmpUnord f) s (fun x => .ok (x.compare .unord f))

/-- `PAND`: Predicate and, per lane. (R116) -/
def execPand (f : RForm) (s : State) : Host.Outcome State Fault Refusal :=
  issueEx (.pand f) s (fun x => .ok (x.setPred f.nw f.d (fun l => x.bitOf f.a l && x.bitOf f.b l)))

/-- `POR`: Predicate or, per lane. (R116) -/
def execPor (f : RForm) (s : State) : Host.Outcome State Fault Refusal :=
  issueEx (.por f) s (fun x => .ok (x.setPred f.nw f.d (fun l => x.bitOf f.a l || x.bitOf f.b l)))

/-- `PXOR`: Predicate exclusive-or, per lane. (R116) -/
def execPxor (f : RForm) (s : State) : Host.Outcome State Fault Refusal :=
  issueEx (.pxor f) s (fun x => .ok (x.setPred f.nw f.d (fun l => x.bitOf f.a l != x.bitOf f.b l)))

/-- `PNOT`: Predicate not, per lane. (R116) -/
def execPnot (f : RForm) (s : State) : Host.Outcome State Fault Refusal :=
  issueEx (.pnot f) s (fun x => .ok (x.setPred f.nw f.d (fun l => !x.bitOf f.a l)))

/-- `PMOV`: Copies a predicate, or sets it where a value is nonzero. (R116) -/
def execPmov (f : RForm) (s : State) : Host.Outcome State Fault Refusal :=
  issueEx (.pmov f) s (fun x => .ok (x.setPred f.nw f.d (x.bitOf f.a)))

/-- `VANY`: Writes 1 to a scalar if the predicate holds in any counted lane. (R117) -/
def execVany (f : RForm) (s : State) : Host.Outcome State Fault Refusal :=
  issueEx (.vany f) s (fun x => .ok (x.vote f (fun m _ => if m = 0 then 0 else 1)))

/-- `VALL`: Writes 1 to a scalar if the predicate holds in every counted lane. (R117) -/
def execVall (f : RForm) (s : State) : Host.Outcome State Fault Refusal :=
  issueEx (.vall f) s (fun x => .ok (x.vote f (fun m c => if m = c then 1 else 0)))

/-- `VBAL`: Writes the ballot mask of the predicate over the counted lanes. (R117) -/
def execVbal (f : RForm) (s : State) : Host.Outcome State Fault Refusal :=
  issueEx (.vbal f) s (fun x => .ok (x.vote f (fun m _ => m)))

/-- `SHFL`: Reads a from the lane indexed by b. (R118) -/
def execShfl (f : RForm) (s : State) : Host.Outcome State Fault Refusal :=
  issueEx (.shfl f) s (fun x => .ok (x.shuffle f (fun _ n => n % 32)))

/-- `SHFLX`: Reads a from lane l xor n. (R118) -/
def execShflx (f : RForm) (s : State) : Host.Outcome State Fault Refusal :=
  issueEx (.shflx f) s (fun x => .ok (x.shuffle f (fun l n => l ^^^ n % 32)))

/-- `SHFLU`: Reads a from lane l - n. (R118) -/
def execShflu (f : RForm) (s : State) : Host.Outcome State Fault Refusal :=
  issueEx (.shflu f) s (fun x => .ok (x.shuffle f (fun l n => if n ≤ l then l - n else l)))

/-- `SHFLD`: Reads a from lane l + n. (R118) -/
def execShfld (f : RForm) (s : State) : Host.Outcome State Fault Refusal :=
  issueEx (.shfld f) s (fun x => .ok (x.shuffle f (fun l n => if l + n ≤ 31 then l + n else l)))

/-- The one lane that `BCAST` copies, and its flag (R119). -/
def Ex.broadcast (x : Ex) (f : RForm) : Ex :=
  if x.go then
    let r := x.laneSource f.a ((x.rdU f.b).toNat % 32)
    (x.wr f.nw f.d r.1).flag r.2
  else x

/-- The lane that `LWR` writes, and the latch shift that follows (R120): an absent register that stays absent reads 0. -/
def Ex.laneWrite (x : Ex) (f : RForm) : Ex :=
  let k := (x.rdU f.b).toNat % 32
  let v := x.rdU f.a
  let hits := Word.has x.acting k
  match f.d with
  | .vreg n =>
    let y := if hits && !f.nw then x.wrV n.val (1#32 <<< k) (fun _ => v) else x
    y.latch (fun l =>
      if !Word.has x.acting l then 0
      else if hits && l == k then v
      else if y.isAbsent f.d then 0 else y.rd f.d l)
  | _ => x

/-- `SEL`: the guard chooses between the sources and suppresses nothing (R122). -/
def Ex.select (x : Ex) (f : RForm) : Ex :=
  let v := fun (l : Nat) => if x.guard l then x.rd f.a l else x.rd f.b l
  match f.d with
  | .vreg n => x.vecOver x.active f.nw n.val v
  | d => x.wr f.nw d (v x.lead)

/-- `BCAST`: Copies one lane of a vector into a scalar. (R119) -/
def execBcast (f : RForm) (s : State) : Host.Outcome State Fault Refusal :=
  issueEx (.bcast f) s (fun x => .ok (x.broadcast f))

/-- `LWR`: Writes a scalar into one lane of a vector. (R120) -/
def execLwr (f : RForm) (s : State) : Host.Outcome State Fault Refusal :=
  issueEx (.lwr f) s (fun x => .ok (x.laneWrite f))

/-- `MOV`: Copies a into d. (R121) -/
def execMov (f : RForm) (s : State) : Host.Outcome State Fault Refusal :=
  issueEx (.mov f) s (fun x => .ok (x.form f.nw f.d (x.rd f.a)))

/-- `SEL`: Writes a where the guard is true and b elsewhere; never suppressed. (R122) -/
def execSel (f : RForm) (s : State) : Host.Outcome State Fault Refusal :=
  issueEx (.sel f) s (fun x => .ok (x.select f))

/-- `LDI`: Loads the sign-extended k15 constant. (R123) -/
def execLdi (f : KForm) (s : State) : Host.Outcome State Fault Refusal :=
  issueEx (.ldi f) s (fun x => .ok (x.form false f.d (fun _ => sext32 15 f.k.toNat)))

/-- `LDIH`: Places k15 in bits [31:17] and keeps bits [16:0] of d. (R123) -/
def execLdih (f : KForm) (s : State) : Host.Outcome State Fault Refusal :=
  issueEx (.ldih f) s (fun x => .ok (x.form false f.d (fun l =>
    word (f.k.toNat * 2 ^ 17 + (x.rd f.d l).toNat % 2 ^ 17))))

/-- `LDC`: Loads word k of the constant pool. (R123) -/
def execLdc (f : KForm) (s : State) : Host.Outcome State Fault Refusal :=
  issueEx (.ldc f) s (fun x => .ok (x.form false f.d (fun _ => x.grid.kernel.consts.getD f.k.toNat 0)))

end Sys2Proof.Machine
end

