-- ==== Sys2Proof/Machine/Dispatch.lean ====
section
/-! DEFINITION. One arm for each constructor of `Instr`: its meaning. -/
namespace Sys2Proof.Machine

/-- What an instruction, a command or an event does. -/
def exec (i : Instr) (s : State) : Host.Outcome State Fault Refusal :=
  match i with
  | .illegalZero => Sys2Proof.Machine.execIllegalZero s
  | .illegalOpcode w => Sys2Proof.Machine.execIllegalOpcode w s
  | .streamWord w => Sys2Proof.Machine.execStreamWord w s
  | .nop f => Sys2Proof.Machine.execNop f s
  | .add f => Sys2Proof.Machine.execAdd f s
  | .sub f => Sys2Proof.Machine.execSub f s
  | .mul f => Sys2Proof.Machine.execMul f s
  | .mulh f => Sys2Proof.Machine.execMulh f s
  | .mac f => Sys2Proof.Machine.execMac f s
  | .min f => Sys2Proof.Machine.execMin f s
  | .max f => Sys2Proof.Machine.execMax f s
  | .abs f => Sys2Proof.Machine.execAbs f s
  | .neg f => Sys2Proof.Machine.execNeg f s
  | .div f => Sys2Proof.Machine.execDiv f s
  | .rem f => Sys2Proof.Machine.execRem f s
  | .rcp f => Sys2Proof.Machine.execRcp f s
  | .rsq f => Sys2Proof.Machine.execRsq f s
  | .sqrt f => Sys2Proof.Machine.execSqrt f s
  | .exp2 f => Sys2Proof.Machine.execExp2 f s
  | .log2 f => Sys2Proof.Machine.execLog2 f s
  | .tanh f => Sys2Proof.Machine.execTanh f s
  | .and_ f => Sys2Proof.Machine.execAnd f s
  | .or_ f => Sys2Proof.Machine.execOr f s
  | .xor_ f => Sys2Proof.Machine.execXor f s
  | .andn f => Sys2Proof.Machine.execAndn f s
  | .shl f => Sys2Proof.Machine.execShl f s
  | .shr f => Sys2Proof.Machine.execShr f s
  | .sar f => Sys2Proof.Machine.execSar f s
  | .rot f => Sys2Proof.Machine.execRot f s
  | .popc f => Sys2Proof.Machine.execPopc f s
  | .clz f => Sys2Proof.Machine.execClz f s
  | .brev f => Sys2Proof.Machine.execBrev f s
  | .bfx f => Sys2Proof.Machine.execBfx f s
  | .bfi f => Sys2Proof.Machine.execBfi f s
  | .prmt f => Sys2Proof.Machine.execPrmt f s
  | .cvtF32 f => Sys2Proof.Machine.execCvtF32 f s
  | .cvtBf16 f => Sys2Proof.Machine.execCvtBf16 f s
  | .cvtF16 f => Sys2Proof.Machine.execCvtF16 f s
  | .cvtE4m3 f => Sys2Proof.Machine.execCvtE4m3 f s
  | .cvtE5m2 f => Sys2Proof.Machine.execCvtE5m2 f s
  | .cvtE2m1 f => Sys2Proof.Machine.execCvtE2m1 f s
  | .cvtDy8 f => Sys2Proof.Machine.execCvtDy8 f s
  | .cvtI32 f => Sys2Proof.Machine.execCvtI32 f s
  | .cvtN32 f => Sys2Proof.Machine.execCvtN32 f s
  | .cvtI8 f => Sys2Proof.Machine.execCvtI8 f s
  | .cvtN8 f => Sys2Proof.Machine.execCvtN8 f s
  | .cmpEq f => Sys2Proof.Machine.execCmpEq f s
  | .cmpNe f => Sys2Proof.Machine.execCmpNe f s
  | .cmpLt f => Sys2Proof.Machine.execCmpLt f s
  | .cmpLe f => Sys2Proof.Machine.execCmpLe f s
  | .cmpGt f => Sys2Proof.Machine.execCmpGt f s
  | .cmpGe f => Sys2Proof.Machine.execCmpGe f s
  | .cmpOrd f => Sys2Proof.Machine.execCmpOrd f s
  | .cmpUnord f => Sys2Proof.Machine.execCmpUnord f s
  | .pand f => Sys2Proof.Machine.execPand f s
  | .por f => Sys2Proof.Machine.execPor f s
  | .pxor f => Sys2Proof.Machine.execPxor f s
  | .pnot f => Sys2Proof.Machine.execPnot f s
  | .pmov f => Sys2Proof.Machine.execPmov f s
  | .vany f => Sys2Proof.Machine.execVany f s
  | .vall f => Sys2Proof.Machine.execVall f s
  | .vbal f => Sys2Proof.Machine.execVbal f s
  | .shfl f => Sys2Proof.Machine.execShfl f s
  | .shflx f => Sys2Proof.Machine.execShflx f s
  | .shflu f => Sys2Proof.Machine.execShflu f s
  | .shfld f => Sys2Proof.Machine.execShfld f s
  | .bcast f => Sys2Proof.Machine.execBcast f s
  | .lwr f => Sys2Proof.Machine.execLwr f s
  | .mov f => Sys2Proof.Machine.execMov f s
  | .sel f => Sys2Proof.Machine.execSel f s
  | .msetr f => Sys2Proof.Machine.execMsetr f s
  | .join f => Sys2Proof.Machine.execJoin f s
  | .ret f => Sys2Proof.Machine.execRet f s
  | .lbrk f => Sys2Proof.Machine.execLbrk f s
  | .exit f => Sys2Proof.Machine.execExit f s
  | .yld f => Sys2Proof.Machine.execYld f s
  | .bkpt f => Sys2Proof.Machine.execBkpt f s
  | .callt f => Sys2Proof.Machine.execCallt f s
  | .lpb f => Sys2Proof.Machine.execLpb f s
  | .ldi f => Sys2Proof.Machine.execLdi f s
  | .ldih f => Sys2Proof.Machine.execLdih f s
  | .ldc f => Sys2Proof.Machine.execLdc f s
  | .srd f => Sys2Proof.Machine.execSrd f s
  | .swr f => Sys2Proof.Machine.execSwr f s
  | .mset f => Sys2Proof.Machine.execMset f s
  | .jmark f => Sys2Proof.Machine.execJmark f s
  | .xacq f => Sys2Proof.Machine.execXacq f s
  | .xrel f => Sys2Proof.Machine.execXrel f s
  | .phase f => Sys2Proof.Machine.execPhase f s
  | .trap f => Sys2Proof.Machine.execTrap f s
  | .live f => Sys2Proof.Machine.execLive f s
  | .cntrd f => Sys2Proof.Machine.execCntrd f s
  | .maprd f => Sys2Proof.Machine.execMaprd f s
  | .lds32 f => Sys2Proof.Machine.execLds32 f s
  | .lds64 f => Sys2Proof.Machine.execLds64 f s
  | .lds128 f => Sys2Proof.Machine.execLds128 f s
  | .sts32 f => Sys2Proof.Machine.execSts32 f s
  | .sts64 f => Sys2Proof.Machine.execSts64 f s
  | .sts128 f => Sys2Proof.Machine.execSts128 f s
  | .ldg32 f => Sys2Proof.Machine.execLdg32 f s
  | .ldg64 f => Sys2Proof.Machine.execLdg64 f s
  | .ldg128 f => Sys2Proof.Machine.execLdg128 f s
  | .stg32 f => Sys2Proof.Machine.execStg32 f s
  | .stg64 f => Sys2Proof.Machine.execStg64 f s
  | .stg128 f => Sys2Proof.Machine.execStg128 f s
  | .fenceAcq f => Sys2Proof.Machine.execFenceAcq f s
  | .fenceRel f => Sys2Proof.Machine.execFenceRel f s
  | .fenceAr f => Sys2Proof.Machine.execFenceAr f s
  | .flushq f => Sys2Proof.Machine.execFlushq f s
  | .bari f => Sys2Proof.Machine.execBari f s
  | .bara f => Sys2Proof.Machine.execBara f s
  | .barw f => Sys2Proof.Machine.execBarw f s
  | .baraw f => Sys2Proof.Machine.execBaraw f s
  | .tbar f => Sys2Proof.Machine.execTbar f s
  | .tri f => Sys2Proof.Machine.execTri f s
  | .trc f => Sys2Proof.Machine.execTrc f s
  | .trf f => Sys2Proof.Machine.execTrf f s
  | .trw f => Sys2Proof.Machine.execTrw f s
  | .trr f => Sys2Proof.Machine.execTrr f s
  | .tro f => Sys2Proof.Machine.execTro f s
  | .trv f => Sys2Proof.Machine.execTrv f s
  | .trq f => Sys2Proof.Machine.execTrq f s
  | .tcopy f => Sys2Proof.Machine.execTcopy f s
  | .tcopyv f => Sys2Proof.Machine.execTcopyv f s
  | .tset f => Sys2Proof.Machine.execTset f s
  | .tget f => Sys2Proof.Machine.execTget f s
  | .slrun f => Sys2Proof.Machine.execSlrun f s
  | .stail f => Sys2Proof.Machine.execStail f s
  | .slseq f => Sys2Proof.Machine.execSlseq f s
  | .atmUnp op f => Sys2Proof.Machine.execAtmUnp op f s
  | .atmCom op f => Sys2Proof.Machine.execAtmCom op f s
  | .atmNor op f => Sys2Proof.Machine.execAtmNor op f s
  | .atmQnt op f => Sys2Proof.Machine.execAtmQnt op f s
  | .atmSpc op f => Sys2Proof.Machine.execAtmSpc op f s
  | .atmAcq op f => Sys2Proof.Machine.execAtmAcq op f s
  | .atmRel op f => Sys2Proof.Machine.execAtmRel op f s
  | .atmAr op f => Sys2Proof.Machine.execAtmAr op f s
  | .mshape f => Sys2Proof.Machine.execMshape f s
  | .mwl f => Sys2Proof.Machine.execMwl f s
  | .mswap f => Sys2Proof.Machine.execMswap f s
  | .mstr f => Sys2Proof.Machine.execMstr f s
  | .mdrn f => Sys2Proof.Machine.execMdrn f s
  | .mclr f => Sys2Proof.Machine.execMclr f s
  | .mscl f => Sys2Proof.Machine.execMscl f s
  | .mwait f => Sys2Proof.Machine.execMwait f s
  | .clid f => Sys2Proof.Machine.execClid f s
  | .aqst f => Sys2Proof.Machine.execAqst f s
  | .launch f => Sys2Proof.Machine.execLaunch f s
  | .lwait f => Sys2Proof.Machine.execLwait f s
  | .mapack f => Sys2Proof.Machine.execMapack f s
  | .rtt f => Sys2Proof.Machine.execRtt f s
  | .pfmap f => Sys2Proof.Machine.execPfmap f s
  | .tlbi f => Sys2Proof.Machine.execTlbi f s
  | .errrd f => Sys2Proof.Machine.execErrrd f s
  | .kill f => Sys2Proof.Machine.execKill f s
  | .br off => Sys2Proof.Machine.execBr off s
  | .call off => Sys2Proof.Machine.execCall off s
  | .lpe off => Sys2Proof.Machine.execLpe off s
  | .sfetch f => Sys2Proof.Machine.execSfetch f s
  | .sstore f => Sys2Proof.Machine.execSstore f s
  | .sloop trips rsv => Sys2Proof.Machine.execSloop trips rsv s
  | .snext rsv => Sys2Proof.Machine.execSnext rsv s
  | .sadv c step => Sys2Proof.Machine.execSadv c step s
  | .swaitf rsv => Sys2Proof.Machine.execSwaitf rsv s
  | .sacq rsv scope => Sys2Proof.Machine.execSacq rsv scope s
  | .srel rsv scope => Sys2Proof.Machine.execSrel rsv scope s
  | .sseq rsv => Sys2Proof.Machine.execSseq rsv s
  | .slink rsv lo hi => Sys2Proof.Machine.execSlink rsv lo hi s
  | .shalt rsv => Sys2Proof.Machine.execShalt rsv s
  | .sset c rsv v => Sys2Proof.Machine.execSset c rsv v s
  | .engineCopy k => Sys2Proof.Machine.execEngineCopy k s
  | .engineWaitEnd k serial => Sys2Proof.Machine.execEngineWaitEnd k serial s
  | .lineFill gid entry => Sys2Proof.Machine.execLineFill gid entry s
  | .splitReady gid entry => Sys2Proof.Machine.execSplitReady gid entry s
  | .limitWait w => Sys2Proof.Machine.execLimitWait w s
  | .asyncTrapDelivery gid => Sys2Proof.Machine.execAsyncTrapDelivery gid s
  | .gangForm grid stage p => Sys2Proof.Machine.execGangForm grid stage p s
  | .preEmption gang by_ => Sys2Proof.Machine.execPreEmption gang by_ s
  | .gangResume gang p => Sys2Proof.Machine.execGangResume gang p s
  | .gridComplete grid => Sys2Proof.Machine.execGridComplete grid s
  | .packetArrival packet => Sys2Proof.Machine.execPacketArrival packet s
  | .admission gang station => Sys2Proof.Machine.execAdmission gang station s
  | .queueStart c j rows => Sys2Proof.Machine.execQueueStart c j rows s
  | .queueComplete c j => Sys2Proof.Machine.execQueueComplete c j s
  | .queueFault c j => Sys2Proof.Machine.execQueueFault c j s
  | .bandGate c band => Sys2Proof.Machine.execBandGate c band s
  | .narrowedMode c on => Sys2Proof.Machine.execNarrowedMode c on s
  | .cadenceChange c cad => Sys2Proof.Machine.execCadenceChange c cad s
  | .ballastRow c bands => Sys2Proof.Machine.execBallastRow c bands s
  | .railVoteLapse tile part => Sys2Proof.Machine.execRailVoteLapse tile part s
  | .energyRefresh gid steps => Sys2Proof.Machine.execEnergyRefresh gid steps s
  | .breach grid team kind cause => Sys2Proof.Machine.execBreach grid team kind cause s
  | .quoteLapse qid => Sys2Proof.Machine.execQuoteLapse qid s
  | .watchdog gid => Sys2Proof.Machine.execWatchdog gid s
  | .mapAckLate ctx => Sys2Proof.Machine.execMapAckLate ctx s
  | .mapPublish m => Sys2Proof.Machine.execMapPublish m s
  | .patrolScrub f => Sys2Proof.Machine.execPatrolScrub f s
  | .demotion ctx va => Sys2Proof.Machine.execDemotion ctx va s
  | .migrationDone ctx va frame => Sys2Proof.Machine.execMigrationDone ctx va frame s
  | .scan c => Sys2Proof.Machine.execScan c s
  | .scanPass c => Sys2Proof.Machine.execScanPass c s
  | .scanFail c => Sys2Proof.Machine.execScanFail c s
  | .linkStateChange l w => Sys2Proof.Machine.execLinkStateChange l w s
  | .peerLost node => Sys2Proof.Machine.execPeerLost node s
  | .peerAccess a => Sys2Proof.Machine.execPeerAccess a s
  | .sqtail q v => Sys2Proof.Machine.execSqtail q v s
  | .cqack q v => Sys2Proof.Machine.execCqack q v s
  | .qstat q v => Sys2Proof.Machine.execQstat q v s
  | .qcfg q v => Sys2Proof.Machine.execQcfg q v s
  | .qpasid q v => Sys2Proof.Machine.execQpasid q v s
  | .fnpart f v => Sys2Proof.Machine.execFnpart f v s
  | .peerclr v => Sys2Proof.Machine.execPeerclr v s
  | .pwrvote p v => Sys2Proof.Machine.execPwrvote p v s
  | .bandidle v => Sys2Proof.Machine.execBandidle v s
  | .partitionRegisters p off v => Sys2Proof.Machine.execPartitionRegisters p off v s
  | .registerWrite r v => Sys2Proof.Machine.execRegisterWrite r v s
  | .interruptDelay q => Sys2Proof.Machine.execInterruptDelay q s
  | .quote q => Sys2Proof.Machine.execQuote q s
  | .quoted q r => Sys2Proof.Machine.execQuoted q r s
  | .accept q => Sys2Proof.Machine.execAccept q s
  | .decline q => Sys2Proof.Machine.execDecline q s
  | .launchPacket q => Sys2Proof.Machine.execLaunchPacket q s
  | .mapackPacket q => Sys2Proof.Machine.execMapackPacket q s
  | .halt q => Sys2Proof.Machine.execHalt q s
  | .haltAbort q => Sys2Proof.Machine.execHaltAbort q s
  | .resume q => Sys2Proof.Machine.execResume q s
  | .record q => Sys2Proof.Machine.execRecord q s
  | .context q => Sys2Proof.Machine.execContext q s
  | .pool q => Sys2Proof.Machine.execPool q s
  | .egreg q => Sys2Proof.Machine.execEgreg q s
  | .egack q => Sys2Proof.Machine.execEgack q s
  | .egress n => Sys2Proof.Machine.execEgress n s
  | .flr f => Sys2Proof.Machine.execFlr f s
  | .pasidStop q => Sys2Proof.Machine.execPasidStop q s
  | .atsInvalidation q iova pages => Sys2Proof.Machine.execAtsInvalidation q iova pages s
  | .boot b => Sys2Proof.Machine.execBoot b s
  | .getVersion msg => Sys2Proof.Machine.execGetVersion msg s
  | .getCapabilities msg => Sys2Proof.Machine.execGetCapabilities msg s
  | .negotiateAlgorithms msg => Sys2Proof.Machine.execNegotiateAlgorithms msg s
  | .getDigests msg => Sys2Proof.Machine.execGetDigests msg s
  | .getCertificate msg => Sys2Proof.Machine.execGetCertificate msg s
  | .challenge msg => Sys2Proof.Machine.execChallenge msg s
  | .getMeasurements msg => Sys2Proof.Machine.execGetMeasurements msg s
  | .keyExchange msg => Sys2Proof.Machine.execKeyExchange msg s
  | .finish msg => Sys2Proof.Machine.execFinish msg s
  | .tdispProtocol f locked => Sys2Proof.Machine.execTdispProtocol f locked s

end Sys2Proof.Machine
end

