-- ==== Sys2Proof/Machine/Place.lean ====
section
/-! DEFINITION. How one instruction is placed for the next step, in place of all that launches a program (log 21, DESIGN CHOICE, safe): a grid,
a gang, a team and a party of context 0 whose code is the instruction's bytes. -/
namespace Sys2Proof.Machine

/-- The group of slot 0 of core 0, or the MCC of cluster 0, at the first word of its code. -/
def placed (mcc : Bool) (sup : Option Saved) : Group :=
  { Group.start 1 (if mcc then 255 else 0) 0 mcc with
    exec := if mcc then 1 else 0xFFFFFFFF, saved := sup, splits := [Split.start 0 0 (if mcc then 1 else 0xFFFFFFFF)] }

/-- The state with a kernel of these bytes, a grid and gang that run it, its team and one party, and the line of address 0
in the party's store. -/
def State.placeParty (s : State) (bs : List Byte) (mcc : Bool) (sup : Option Saved) : State :=
  let gid := if mcc then gidOf 0 64 else 0
  let k : Kernel := { Kernel.empty with code := bs, mcc := if mcc then some bs else none }
  let c := { s.ctx 0 with live := true, code := if sup.isSome then bs else (s.ctx 0).code }
  let gr := { Grid.empty with kernel := k, counts := [1] }
  let ga := { Gang.empty with grid := 1, size := 1, usesMcc := mcc }
  let te := { Team.empty with gang := 1, slots := [0], rows := 2 }
  let s1 := ((((s.setCtx 0 c).setGrid 1 gr).setGang 1 ga).setTeam (teamKey 1 0) te).setGroup gid (placed mcc sup)
  let s2 := { s1 with turn := .split gid 0, agenda := [], mccs := if mcc then Tab.put s1.mccs 0 (Mcc.start 15) else s1.mccs }
  match Ex.load s2 with
  | some x =>
    let lines := touchLine x.storeSets (x.lineAt 0) (Tab.read s2.stores x.storeKey [])
    { s2 with stores := Tab.put s2.stores x.storeKey lines }
  | none => s2

/-- An instruction of a group. -/
def State.placeGroup (s : State) (bs : List Byte) : State := s.placeParty bs false none

/-- An instruction of the MCC. -/
def State.placeMcc (s : State) (bs : List Byte) : State := s.placeParty bs true none

/-- An instruction of a handler. -/
def State.placeHandler (s : State) (bs : List Byte) : State :=
  s.placeParty bs false (some { entry := 0, mode := modeReset, fpx := 0, latches := freshLatches, loops := [], rets := [],
                                count := 0, ticket := none, cycles := 0, pc := 0 })

/-- A command of a stream list of engine 0, whose words lie in the allotment of a team. -/
def State.placeCommand (s : State) (bs : List Byte) : State :=
  let s1 := s.placeParty [] false none
  let l : SList := { serial := 1, gang := 1, team := 0, ctx := 0, loc := true, addr := 0, p := 0, tail := 3, c := [], loops := [],
                     slot := none, consume := 0, tray := 1, vecs := .zero,
                     rel := { party := .core 0, scope := 0, team := teamKey 1 0, vecs := .zero }, srel := [], wait := none, park := none, closing := false,
                     cur := none, named := none, tensor := none, row := 0, issuer := 0 }
  { (s1.storeBytes (spadLoc 0 0) bs).setEngine 0 { Engine.empty with lists := [l] } with turn := .engine 0 }

end Sys2Proof.Machine
end

