-- ==== Sys2Proof/Machine/Upsets.lean ====
section
/-! DEFINITION. What reaches the machine from outside, or from errors of its own cells, beside the events of the opcode table:
uncorrectable errors (R330, R349, R350), writes by the host and by other agents (R178, R184, R197), and what the host and the peers
refuse or provide (R370, R376, R379). Each may come at any step (log 128, DESIGN CHOICE, safe). -/
namespace Sys2Proof.Machine

/-- The lane's copy of a latch marked in the split that holds the lane. -/
def Split.upset (p : Split) (n lane : Nat) : Split :=
  if Word.has p.lanes lane then
    { p with latches := ((List.range p.latches.length).zip p.latches).map (fun e =>
        if e.1 = n then { e.2 with bad := e.2.bad ||| (1#32 <<< lane) } else e.2) }
  else p

/-- An uncorrectable error in a lane of a group: of a vector register (0-63), a latch (96-99) or the generator (128) (R349). -/
def Group.upset (g : Group) (op lane : Nat) : Group :=
  if 96 ≤ op ∧ op < 100 then { g with splits := g.splits.map (fun p => p.upset (op - 96) lane) }
  else if op < 64 ∨ op = 128 then { g with ueLane := if g.ueLane.contains (op, lane) then g.ueLane else g.ueLane ++ [(op, lane)] }
  else g

/-- Memory that an agent outside the module writes by itself: the host's own and what lies behind CXL, for the host; what lies behind
CXL, for another agent there; a peer's own, for the peer (R151, R178). -/
def Party.owns (who : Party) (loc : Nat) : Bool :=
  match who with
  | .host => loc / 2 ^ 72 == 1 || loc / 2 ^ 72 == 2
  | .cxl => loc / 2 ^ 72 == 1
  | .peer n => loc / 2 ^ 72 == 3 && loc / 2 ^ 64 % 256 == n
  | .core _ | .engine _ => false

/-- What comes from outside. -/
def State.outside (s : State) : Outside → State
  | .ueLane gid op lane =>
    match s.group gid with
    | some g => if g.mcc || decide (32 ≤ lane) then s else s.setGroup gid (g.upset op lane)
    | none => s
  | .ueGroup gid =>
    match s.group gid with
    | some g => s.setGroup gid { g with ueGroup := true }
    | none => s
  | .ueMatrix c cell => { s with mccs := Tab.upd s.mccs c (fun m => if m.bad.contains cell then m else { m with bad := m.bad ++ [cell] }) }
  | .poison loc =>
    { s with poison := s.poison ++ ((List.range 4).map (fun j => loc / 4 * 4 + j)).filter (fun a => !s.poison.contains a) }
  | .ueDevice => (s.ctxs.filter (fun e => e.2.live)).foldl (fun s e => s.terminateContext e.1 .machineCheck) s
  | .write who loc bs =>
    if who.owns loc && who.owns (loc + bs.length) then (s.endRels loc bs.length).storeBytes loc bs else s
  | .decoder base size port =>
    let rest := s.decoders.filter (fun d => decide (d.1 + d.2.1 ≤ base) || decide (base + size ≤ d.1))
    if port < 2 then { s with decoders := if size = 0 then s.decoders.filter (fun d => d.1 != base) else rest ++ [(base, size, port)] } else s
  | .iommu ctx page deny =>
    let rest := s.atsDenied.filter (fun e => e != (ctx, page))
    { s with atsDenied := if deny then rest ++ [(ctx, page)] else rest }
  | .peerPage node page deny =>
    let rest := s.peerDenied.filter (fun e => e != (node, page))
    { s with peerDenied := if deny then rest ++ [(node, page)] else rest }

end Sys2Proof.Machine
end

