-- ==== Sys2Proof/Machine/Step.lean ====
section
/-! DEFINITION. One step of the machine: the next act of the agenda, or the party whose turn it is (R4, R40), and the
placing of one instruction where the next step finds it. -/
namespace Sys2Proof.Machine

/-- The party whose turn it is issues its next instruction, or an engine runs its next command. -/
def turnStep (s : State) : Host.Outcome State Fault Refusal :=
  match s.turn with
  | .engine k =>
    match engineFetch s k with
    | .past t => .next t
    | .run i t => exec i t
  | _ =>
    match fetch s with
    | .idle => .next s
    | .left t => .next t
    | .miss t => .next t
    | .word w t => exec (decode w) t

/-- One step of the machine (log 1, DESIGN CHOICE, safe). -/
def step (s : State) : Host.Outcome State Fault Refusal :=
  match s.agenda with
  | [] => turnStep s
  | .run t :: r => turnStep { s with turn := t, agenda := r }
  | .issue core :: r => .next ({ s with agenda := r }.issueCycle core)
  | .event i :: r => exec i { s with agenda := r }
  | .tick c n :: r => .next ({ s with agenda := r }.tick c n)
  | .hubTick n :: r => .next ({ s with agenda := r }.hubTick n)
  | .outside o :: r => .next ({ s with agenda := r }.outside o)

/-- The state with one instruction placed where the next step fetches: in the code of a group's kernel, of the MCC's
routine or of the context's handler, its line resident, or in an engine's list (log 21, DESIGN CHOICE, safe). -/
def State.withFetchWord (s : State) (nbits w : Nat) : State :=
  let bs := tableBytes nbits w
  let op := field (wordLE bs).toNat 31 22
  if 0x300 ≤ op ∧ op ≤ 0x30B then s.placeCommand bs
  else if 0x1C0 ≤ op ∧ op ≤ 0x1C7 then s.placeMcc bs
  else if 0x1F0 ≤ op ∧ op ≤ 0x1F4 then s.placeHandler bs
  else s.placeGroup bs

end Sys2Proof.Machine
end

