-- ==== Sys2Proof/Safety.lean ====
section
/-! DEFINITION. What counts as a safe run, and the terms in which claims speak of one instruction of a party: that it is issued,
that nothing else of the group acts with it, what the party has become, and what stays as it was. -/
namespace Sys2Proof

/-- A state from which the next step goes on. -/
def Machine.State.goesOn (s : Machine.State) : Prop := ∃ t, Machine.step s = .next t

/-- A run of `n` steps stays safe: no step of it faults or refuses. -/
def safeFor (n : Nat) (s : Machine.State) : Prop := ∃ t, core.run n s = .next t

end Sys2Proof

namespace Sys2Proof.Machine

/-- Party `x` issues `i` from `s`: its turn it is, the checks of R68 pass, it consumes no error of its registers (R349), takes no
queue fault (R259) and has no store held for a lost node that it must wait for (R377). -/
structure Ex.Issues (x : Ex) (i : Instr) (s : State) : Prop where
  load : Ex.load s = some x
  check : x.decodeCheck i = none
  sound : x.g.ueGroup = false
  queue : x.queueFault i = none
  held : x.heldStore i = none
  clean : x.badLanes i = 0

/-- Nothing acts beside the party's instruction: no other split's handler (R332), no single step (R345), no split of dead lanes only
(R39), no wait under way, no released window that an access still completes against (R144), and no counter that is full (R203). -/
structure Ex.Calm (x : Ex) : Prop where
  mate : x.mate = none
  stepping : x.g.stepping = none
  wait : x.sp.wait = none
  ghost : x.sp.ghost = []
  alive : x.g.mcc = true ∨ ∀ p ∈ x.g.splits, p.lanes &&& ~~~ x.g.dead ≠ 0
  checked : x.s.checked = false

/-- `y` is the party `x` in a later state `y.s`, which holds its group and its split. -/
structure Ex.Becomes (x y : Ex) : Prop where
  gid : y.gid = x.gid
  mate : y.mate = none
  group : y.s.group x.gid = some y.g
  split : y.g.split? x.sp.entry = some y.sp

/-- Of the whole machine nothing but the party's group and the performance counters differs. -/
def Ex.OnlyGroup (x y : Ex) : Prop := y.s = { x.s with counters := y.s.counters, groups := Tab.put x.s.groups x.gid y.g }

/-- Of the party's group nothing but its registers, flags, generators and the issuing split differs. -/
def Ex.OnlyRegs (x y : Ex) : Prop :=
  y.g = { x.g with v := y.g.v, s := y.g.s, p := y.g.p, sv := y.g.sv, ss := y.g.ss, absent := y.g.absent, fpx := y.g.fpx,
                   rngs := y.g.rngs, ueLane := y.g.ueLane, splits := y.g.splits }
  ∧ (∀ e, e ≠ x.sp.entry → y.g.split? e = x.g.split? e)

/-- What an instruction leaves of a split: nothing of its issue, unless it waits (R41). -/
def Split.rests (p : Split) : Split := if p.wait.isSome then p else p.settled

/-- Of the party's split nothing but the PC and the latches differs, and the PC is that of the next instruction; nothing is left of the
instruction's issue. -/
def Ex.StepsOn (x y : Ex) : Prop := y.sp = { x.sp with pc := x.sp.pc + 4, issued := none, latches := y.sp.latches }

/-- Every operand but `d` and the latches reads as it did, in every lane. -/
def Ex.KeepsBut (x y : Ex) (d : Operand) : Prop :=
  ∀ o l, o ≠ d → (∀ n, o ≠ .latch n) → y.rd o l = x.rd o l ∧ y.isAbsent o = x.isAbsent o

/-- The party has written `val` as R99 lays down: a vector destination in the active lanes whose guard is true, a scalar one if the
leader's guard is true, and nothing under `nw`. A vector result becomes the new `L0`, 0 in the other lanes (R45). Flags are sticky
(R71), generators move only under stochastic rounding (R89), and everything else is as it was. -/
structure Ex.Writes (x y : Ex) (nw : Bool) (d : Operand) (val : Nat → Word) : Prop where
  becomes : x.Becomes y
  stepsOn : x.StepsOn y
  onlyGroup : x.OnlyGroup y
  onlyRegs : x.OnlyRegs y
  vector : d.isVreg = true → nw = false → ∀ l < 32,
    y.rd d l = if Word.has x.acting l then val l else if x.acting ≠ 0 ∧ x.isAbsent d = true then 0 else x.rd d l
  scalar : d.isSreg = true → nw = false → ∀ l, y.rd d l = if x.go then val x.lead else x.rd d l
  others : x.KeepsBut y d
  same : nw = true → ∀ l, y.rd d l = x.rd d l
  latches : y.sp.latches =
    if d.isVreg then ⟨lanesOf (fun l => if Word.has x.acting l then val l else 0), false, 0⟩ :: x.sp.latches.take 3 else x.sp.latches
  flags : x.g.fpx &&& y.g.fpx = x.g.fpx
  rngs : field x.mode 11 9 ≠ 5 → y.g.rngs = x.g.rngs

/-- The party has written bits to predicate register `d` in the active lanes whose guard is true, unless `nw` is set or `d` is `p7`
(R43, R114, R116); the latches do not shift, flags are sticky, and everything else is as it was. -/
structure Ex.WritesBits (x y : Ex) (nw : Bool) (d : Operand) (val : Nat → Bool) : Prop where
  becomes : x.Becomes y
  stepsOn : y.sp = { x.sp with pc := x.sp.pc + 4, issued := none }
  onlyGroup : x.OnlyGroup y
  onlyRegs : x.OnlyRegs y
  bits : ∀ n, d = .preg n → n ≠ 7 → nw = false → ∀ l < 32, y.g.pred n.val l =
    if Word.has x.acting l then val l else if x.acting ≠ 0 ∧ x.isAbsent d = true then false else x.g.pred n.val l
  ignored : nw = true ∨ d = .preg 7 → y.g.p = x.g.p
  others : x.KeepsBut y d
  flags : x.g.fpx &&& y.g.fpx = x.g.fpx
  rngs : y.g.rngs = x.g.rngs

/-- The party's group has become `g` and its split what the instruction leaves of `sp`; the group's other splits, and the machine outside the group, are as they were
but for the performance counters. -/
structure Ex.Turns (x y : Ex) (g : Group) (sp : Split) : Prop where
  becomes : x.Becomes y
  onlyGroup : x.OnlyGroup y
  group : y.g = { g with splits := y.g.splits }
  others : ∀ e, e ≠ x.sp.entry → y.g.split? e = x.g.split? e
  split : y.sp = sp.rests

/-- The value that an instruction computes for a lane, of those that write one to `d` and do nothing else (R104-R112, R118,
R121, R123, R296, R328), with its `nw` and its destination. -/
def Ex.value? (x : Ex) (i : Instr) : Option (Bool × Operand × (Nat → Word)) :=
  let alu := fun (op : AluOp) (f : RForm) => some (f.nw, f.d, fun (l : Nat) =>
    word (aluWord op x.mode (x.rd f.a l).toNat (x.rd f.b l).toNat (x.rd f.d l).toNat (x.rng l)).x)
  let bits := fun (op : BitOp) (f : RForm) => some (f.nw, f.d, fun (l : Nat) => bitWord op (x.rd f.a l) (x.rd f.b l))
  let cvt := fun (dst : Ety) (f : RForm) => some (f.nw, f.d, fun (l : Nat) =>
    word (cvtWord dst x.mode (x.rd f.a l).toNat (x.rd f.b l).toNat (x.rd f.d l).toNat (x.rng l)).x)
  let lane := fun (f : RForm) (src : Nat → Nat → Nat) => some (f.nw, f.d, fun (l : Nat) =>
    (x.laneSource f.a (src l (x.rd f.b l).toNat)).1)
  match i with
  | .add f => alu .add f
  | .sub f => alu .sub f
  | .mul f => alu .mul f
  | .mulh f => alu .mulh f
  | .mac f => alu .mac f
  | .min f => alu .min f
  | .max f => alu .max f
  | .abs f => alu .abs f
  | .neg f => alu .neg f
  | .div f => alu .div f
  | .rem f => alu .rem f
  | .rcp f => alu .rcp f
  | .rsq f => alu .rsq f
  | .sqrt f => alu .sqrt f
  | .exp2 f => alu .exp2 f
  | .log2 f => alu .log2 f
  | .tanh f => alu .tanh f
  | .and_ f => bits .and_ f
  | .or_ f => bits .or_ f
  | .xor_ f => bits .xor_ f
  | .andn f => bits .andn f
  | .shl f => bits .shl f
  | .shr f => bits .shr f
  | .sar f => bits .sar f
  | .rot f => bits .rot f
  | .popc f => bits .popc f
  | .clz f => bits .clz f
  | .brev f => bits .brev f
  | .bfx f => some (f.nw, f.d, fun l => word (bfxWord x.mode (x.rd f.a l).toNat (x.rd f.b l).toNat))
  | .bfi f => some (f.nw, f.d, fun l => word (bfiWord (x.rd f.a l).toNat (x.rd f.b l).toNat (x.rd f.d l).toNat))
  | .prmt f => some (f.nw, f.d, fun l => word (prmtWord (x.rd f.a l).toNat (x.rd f.b l).toNat (x.rd f.d l).toNat))
  | .cvtF32 f => cvt (.flt .f32) f
  | .cvtBf16 f => cvt (.flt .bf16) f
  | .cvtF16 f => cvt (.flt .f16) f
  | .cvtE4m3 f => cvt (.flt .e4m3) f
  | .cvtE5m2 f => cvt (.flt .e5m2) f
  | .cvtE2m1 f => cvt (.flt .e2m1) f
  | .cvtDy8 f => cvt .dyad f
  | .cvtI32 f => cvt (.int 32 true) f
  | .cvtN32 f => cvt (.int 32 false) f
  | .cvtI8 f => cvt (.int 8 true) f
  | .cvtN8 f => cvt (.int 8 false) f
  | .shfl f => lane f (fun _ n => n % 32)
  | .shflx f => lane f (fun l n => l ^^^ n % 32)
  | .shflu f => lane f (fun l n => if n ≤ l then l - n else l)
  | .shfld f => lane f (fun l n => if l + n ≤ 31 then l + n else l)
  | .mov f => some (f.nw, f.d, x.rd f.a)
  | .ldi f => some (false, f.d, fun _ => sext32 15 f.k.toNat)
  | .ldih f => some (false, f.d, fun l => word (f.k.toNat * 2 ^ 17 + (x.rd f.d l).toNat % 2 ^ 17))
  | .ldc f => some (false, f.d, fun _ => x.grid.kernel.consts.getD f.k.toNat 0)
  | .vany f => some (f.nw, f.d, fun _ => if x.ballot f.a = 0 then 0 else 1)
  | .vall f => some (f.nw, f.d, fun _ => if x.ballot f.a = x.acting then 1 else 0)
  | .vbal f => some (f.nw, f.d, fun _ => x.ballot f.a)
  | .bcast f => some (f.nw, f.d, fun _ => (x.laneSource f.a ((x.rdU f.b).toNat % 32)).1)
  | .srd f => if f.k.toNat = 3 then none
      else if f.k.toNat = 9 then some (false, f.d, fun l => x.g.rngs.at l) else some (false, f.d, fun _ => x.special f.k.toNat)
  | .cntrd f =>
    some (false, f.d, fun _ => if x.s.allowed x.part f.k.toNat then x.counter f.k.toNat else 0)
  | .aqst f => if x.go && decide (1024 ≤ (x.rdU f.a).toNat) then none
      else some (f.nw, f.d, fun _ => x.stationWord (field (x.rdU f.a).toNat 7 0) (field (x.rdU f.a).toNat 9 8))
  | .tget f => if x.go && decide (11 < (x.rdU f.b).toNat) then none
      else some (f.nw, f.d, fun _ => x.ctx.tget (field (x.rdU f.a).toNat 7 0) (x.rdU f.b).toNat)
  | .clid f => some (f.nw, f.d, fun _ => x.clid)
  | .maprd f => some (false, f.d, fun _ => x.s.readMap x.ctx.ack f.k.toNat)
  | _ => none

/-- The bit that an instruction computes for a lane, of those that write a predicate register (R114-R116), with its `nw` and its
destination. -/
def Ex.bit? (x : Ex) (i : Instr) : Option (Bool × Operand × (Nat → Bool)) :=
  let cmp := fun (op : CmpOp) (f : RForm) => some (f.nw, f.d, fun (l : Nat) =>
    (cmpWord op x.mode (x.rd f.a l).toNat (x.rd f.b l).toNat).1)
  match i with
  | .cmpEq f => cmp .eq f
  | .cmpNe f => cmp .ne f
  | .cmpLt f => cmp .lt f
  | .cmpLe f => cmp .le f
  | .cmpGt f => cmp .gt f
  | .cmpGe f => cmp .ge f
  | .cmpOrd f => cmp .ord f
  | .cmpUnord f => cmp .unord f
  | .pand f => some (f.nw, f.d, fun l => x.bitOf f.a l && x.bitOf f.b l)
  | .por f => some (f.nw, f.d, fun l => x.bitOf f.a l || x.bitOf f.b l)
  | .pxor f => some (f.nw, f.d, fun l => x.bitOf f.a l != x.bitOf f.b l)
  | .pnot f => some (f.nw, f.d, fun l => !x.bitOf f.a l)
  | .pmov f => some (f.nw, f.d, x.bitOf f.a)
  | _ => none

/-- What an instruction makes of the party's group and of its split, of those that change nothing else: the hints, the writes of
special registers, and the transfers that neither divide the split nor travel (R103, R125-R127, R130-R142, R295). None where the
instruction takes a trap, waits, travels or divides. -/
def Ex.turn? (x : Ex) (i : Instr) : Option (Group × Split) :=
  let on := { x.sp with pc := x.sp.pc + 4 }
  let stays := fun (p : Split) => if x.travels p.pc then none else some (x.g, p)
  match i with
  | .nop _ => some (x.g, on)
  | .phase _ => some (x.g, on)
  | .mset f => some ({ x.g with mode := word f.k.toNat }, on)
  | .msetr f => some ({ x.g with mode := x.rdU f.a &&& 0x7FFF }, on)
  | .live f => some ({ x.g with live := word f.k.toNat }, on)
  | .swr f =>
    if f.k.toNat = 9 then
      some ({ x.g with rngs := if x.acting = 0 then x.g.rngs else lanesOf (fun l =>
        if Word.has x.acting l then (if x.rd f.d l = 0 then 1 else x.rd f.d l) else x.g.rngs.at l) }, on)
    else if !x.go then some (x.g, on)
    else
      let w := x.rdU f.d
      if f.k.toNat = 0 then
        match x.g.saved with
        | some sv => some ({ x.g with saved := some { sv with mode := w &&& 0x7FFF } }, on)
        | none => some ({ x.g with mode := w &&& 0x7FFF }, on)
      else if f.k.toNat = 1 then some ({ x.g with exec := x.g.exec &&& ~~~ x.sp.lanes ||| w &&& x.sp.lanes }, on)
      else if f.k.toNat = 10 then
        match x.g.saved with
        | some sv => some ({ x.g with saved := some { sv with fpx := sv.fpx &&& ~~~ w } }, on)
        | none => some ({ x.g with fpx := x.g.fpx &&& ~~~ w }, on)
      else if f.k.toNat = 16 then some ({ x.g with live := w &&& 0x1FFF }, on)
      else if f.k.toNat = 33 then
        some ({ x.g with trappc := w }, on)
      else if f.k.toNat = 39 then
        if bit w.toNat 2 then none else some ({ x.g with step := bit w.toNat 1 }, on)
      else none
  | .jmark f =>
    let t := pcPlus x.sp.pc (4 * f.k.toInt)
    if x.sup then some (x.g, on)
    else if x.travels t || decide (8 ≤ x.g.frames.length) then none
    else
      let fr : Frame := { join := t, loopDepth := x.sp.loops.length, retDepth := x.sp.rets.length, members := [x.sp.entry],
                          arrived := [], parked := [], sides := [] }
      some ({ x.g with frames := fr :: x.g.frames }, on)
  | .br off =>
    if x.way = .falls then some (x.g, on)
    else if x.way = .taken then stays { x.sp with pc := x.target off } else none
  | .call off =>
    if x.way = .falls then some (x.g, on)
    else if x.way = .taken ∧ x.depthOk (x.target off) = true then
      stays { x.sp with pc := x.target off, rets := ⟨x.sp.pc + 4, x.sp.pc⟩ :: x.sp.rets }
    else none
  | .callt f =>
    if !x.go then some (x.g, on)
    else
      match x.jump (x.rdU f.a) (x.rdU f.b) with
      | some t => if x.depthOk t then stays { x.sp with pc := t, rets := ⟨x.sp.pc + 4, x.sp.pc⟩ :: x.sp.rets } else none
      | none => none
  | .ret _ =>
    if !x.go then some (x.g, on)
    else
      match x.retCheck, x.sp.rets with
      | none, e :: rest => stays { x.sp with pc := e.addr, rets := rest }
      | _, _ => none
  | .lpb f =>
    match x.loopEnd with
    | none => none
    | some (e, lim) =>
      if !x.go then stays { x.sp with pc := e }
      else if 4 ≤ x.sp.loops.length then none
      else if f.a = .zero then some (x.g, { on with loops := ⟨x.sp.pc, e, none, 1, lim⟩ :: x.sp.loops })
      else if x.rdU f.a = 0 then stays { x.sp with pc := e }
      else some (x.g, { on with loops := ⟨x.sp.pc, e, some (x.rdU f.a).toNat, 1, lim⟩ :: x.sp.loops })
  | .lpe off =>
    match x.loopCheck, x.sp.loops with
    | none, e :: rest =>
      if x.way = .falls ∨ (∃ n, e.count = some n ∧ n ≤ e.trips) then stays { on with loops := rest }
      else if x.way = .taken ∧ e.limit ≠ some e.trips then
        stays { x.sp with pc := x.target off, loops := { e with trips := e.trips + 1 } :: rest }
      else none
    | _, _ => none
  | .lbrk _ =>
    if !x.go then some (x.g, on)
    else
      match x.loopCheck, x.sp.loops with
      | none, e :: rest => stays { x.sp with pc := e.endA, loops := rest }
      | _, _ => none
  | .yld _ =>
    if x.go && x.sp.ticket.isNone then none else some (x.g, { on with wait := none, count := 0, ticket := none }.stale)
  | .bkpt _ => if x.go then none else some (x.g, on)
  | .trap _ => if x.go then none else some (x.g, on.stale)
  | _ => none

/-- The party has entered its handler with trap `t` (R332, R334, R336): its split's `MODE`, `FPX`, latches, stacks, count and ticket
are saved with its address (the latches stale after `TRAP`, R46), a `JOIN` that it waits at has not been reached, `MODE` has its reset value, the trap registers tell of the trap, the split stands at
`HDLR` with empty stacks and stale latches, and nothing else has changed but the counters, the count of free values and, where the party's own access trapped, the entries that its
walks have cached (R154). -/
structure Ex.Enters (x y : Ex) (t : Trap) : Prop where
  becomes : x.Becomes y
  machine : y.s = { x.s with counters := y.s.counters, freeCtr := y.s.freeCtr, tlb := if t.seen = [] then x.s.tlb else y.s.tlb,
                             groups := Tab.put x.s.groups x.gid y.g }
  group : y.g = { x.g with
    splits := y.g.splits
    saved := some { entry := x.sp.entry, mode := x.g.mode, fpx := x.g.fpx,
                    latches := if t.cause = .swTrap then x.sp.stale.latches else x.sp.latches,
                    loops := x.sp.loops, rets := x.sp.rets, count := x.sp.count, ticket := x.sp.keptTicket,
                    pc := if t.next then x.sp.pc + 4 else x.sp.pc, cycles := 0 }
    frames := if x.sp.wait = some .join then (x.g.unarrive x.sp.entry).frames else x.g.frames
    mode := modeReset
    trapc := word (t.cause.code + t.under.code * 2 ^ 8 + t.info % 2 ^ 16 * 2 ^ 16)
    trappc := if t.next then x.sp.pc + 4 else x.sp.pc
    trapmask := t.mask.getD x.liveLanes
    trapaddrl := y.g.trapaddrl, trapaddrh := y.g.trapaddrh, stepping := none }
  addr : ∀ a, t.addr = some a → y.g.trapaddrl = word a ∧ y.g.trapaddrh = word (a / 2 ^ 32)
  split : y.sp = { x.sp with pc := x.ctx.hdlr, wait := none, loops := [], rets := [], count := 0, ticket := none, ghost := [], issued := none }.stale
  others : ∀ e, e ≠ x.sp.entry → y.g.split? e = x.g.split? e

/-- The party may take a trap of its own by entering its handler: it is in none, and no other split of its group is (R332, R334). -/
structure Ex.User (x : Ex) : Prop where
  sup : x.sup = false
  mate : x.mate = none
  checked : x.s.checked = false

/-- No combining update is on its way and none is in the buffers of the party's cluster (R192, R193). -/
structure Ex.Plain (x : Ex) : Prop where
  coms : x.s.coms = []
  qnt : (x.s.cluster x.cluster).qnt = []

/-- A release by the party does not fill its counters (R203). -/
structure Ex.Counts (x : Ex) : Prop where
  epoch : x.s.epochOf x.gid + 2 < 2 ^ 48
  kcount : (x.s.cluster x.cluster).kcount + 2 < 2 ^ 48

/-- `n` releases by the party do not fill its counters (R198, R203). -/
structure Ex.Room (x : Ex) (n : Nat) : Prop where
  epoch : x.s.epochOf x.gid + n < 2 ^ 48
  kcount : (x.s.cluster x.cluster).kcount + n < 2 ^ 48

/-- A load: whether it names the scratchpad, the words it moves in a lane, and its form (R209-R211). -/
def loadForm? : Instr → Option (Bool × Nat × RForm)
  | .lds32 f => some (true, 1, f)
  | .lds64 f => some (true, 2, f)
  | .lds128 f => some (true, 4, f)
  | .ldg32 f => some (false, 1, f)
  | .ldg64 f => some (false, 2, f)
  | .ldg128 f => some (false, 4, f)
  | _ => none

/-- A store, in the same terms. -/
def storeForm? : Instr → Option (Bool × Nat × RForm)
  | .sts32 f => some (true, 1, f)
  | .sts64 f => some (true, 2, f)
  | .sts128 f => some (true, 4, f)
  | .stg32 f => some (false, 1, f)
  | .stg64 f => some (false, 2, f)
  | .stg128 f => some (false, 4, f)
  | _ => none

/-- An atomic: its use, its operation and its form (R212). -/
def atmForm? : Instr → Option (AtmUse × AtmOp × RForm)
  | .atmUnp op f => some (.unp, op, f)
  | .atmCom op f => some (.com, op, f)
  | .atmNor op f => some (.nor, op, f)
  | .atmQnt op f => some (.qnt, op, f)
  | .atmSpc op f => some (.spc, op, f)
  | .atmAcq op f => some (.acq, op, f)
  | .atmRel op f => some (.rel, op, f)
  | .atmAr op f => some (.ar, op, f)
  | _ => none

/-- The lanes of a load or a store, each with the target that its checks lead to, where no lane traps and none waits (R146, R155). -/
def Ex.reaches (x : Ex) (inSpad : Bool) (n : Nat) (u : Use) (k : AccKind) (m : Word) (f : RForm) (ts : List (Nat × Target)) : Prop :=
  x.lookAll ⟨inSpad, n, u, k, false⟩ m (fun l => if inSpad then x.offsetAt f l else x.addrAt f l) = .all ts

/-- A byte of a page-table entry whose accessed and dirty bits an access may set (R150). -/
def walked (ts : List (Nat × Target)) (a : Nat) : Prop := ∃ e ∈ ts, ∃ p ∈ e.2.walk, a = p.loc + 1

/-- A byte that some lane of an access of `n` bytes touches. -/
def touched (ts : List (Nat × Target)) (n a : Nat) : Prop := ∃ e ∈ ts, e.2.loc ≤ a ∧ a < e.2.loc + n

/-- The word at a location as the lanes of an atomic leave it that act there, in ascending order (R182, R213). -/
def Ex.atmFold (x : Ex) (use : AtmUse) (op : AtmOp) (f : RForm) (ts : List (Nat × Target)) (loc : Nat) : Nat :=
  (ts.filter (fun e => e.2.loc == loc)).foldl (fun m e =>
    atmWord op (field x.mode 8 4) (field x.mode 11 9) m (x.atmArgs use op f e.1).1.toNat (x.atmArgs use op f e.1).2.toNat % 2 ^ 32)
    (x.s.word32 loc)

/-- The words of an atomic's lanes lie apart from each other or coincide, and no page-table entry of its walks lies in one. -/
def apart (ts : List (Nat × Target)) : Prop :=
  (∀ e ∈ ts, e.2.loc % 4 = 0) ∧ ∀ a, walked ts a → ¬ touched ts 4 a

/-- The machine has become `m`, but for the performance counters and the party's group, which has become `g` with what the instruction leaves of the
split `sp`; the group's other splits are as they were. -/
structure Ex.Acts (x y : Ex) (m : State) (g : Group) (sp : Split) : Prop where
  becomes : x.Becomes y
  machine : y.s = { m with counters := y.s.counters, groups := Tab.put m.groups x.gid y.g }
  group : y.g = { g with splits := y.g.splits }
  others : ∀ e, e ≠ x.sp.entry → y.g.split? e = x.g.split? e
  split : y.sp = sp.rests

/-- The machine has become `m`, but for the performance counters and the party's group, of which nothing differs but the registers and
the split; a scalar `d` has `val` unless `nw` is set, every other operand reads as it did, and the split is `sp` but for the latches. -/
structure Ex.ActsInto (x y : Ex) (m : State) (sp : Split) (nw : Bool) (d : Operand) (val : Word) : Prop where
  becomes : x.Becomes y
  machine : y.s = { m with counters := y.s.counters, groups := Tab.put m.groups x.gid y.g }
  onlyRegs : x.OnlyRegs y
  split : y.sp = { sp.rests with latches := y.sp.latches }
  scalar : nw = false → d.isSreg = true → y.rdU d = val
  others : x.KeepsBut y d
  same : nw = true → ∀ l, y.rd d l = x.rd d l

/-- The split after its instruction, and after an instruction that may wait. -/
def Ex.on (x : Ex) : Split := { x.sp with pc := x.sp.pc + 4 }
def Ex.past (x : Ex) : Split := { x.sp with pc := x.sp.pc + 4, wait := none, count := 0, ticket := none }

/-- The split that begins a wait: it keeps the `MODE` and the guard of its issue (R62, R126). -/
def Ex.waiting (x : Ex) (w : Wait) : Split :=
  { x.sp with wait := some w, since := (x.s.cluster x.cluster).lclk, issued := some ⟨word x.mode, maskOf x.guard⟩ }

/-- What a transfer makes of the split on the taken side and on the other, where it may divide it, apart from their lanes; and whether
the other side may travel too (R130, R133, R137, R281). -/
def Ex.sides? (x : Ex) (i : Instr) : Option (Split × Split × Bool) :=
  match i with
  | .br off => some ({ x.sp with pc := x.target off }, x.on, false)
  | .call off => if x.depthOk (x.target off) then some (x.called (x.target off), x.on, false) else none
  | .lpe off =>
    match x.loopCheck, x.sp.loops with
    | none, e :: rest =>
      if (match e.count with | none => true | some n => decide (e.trips < n)) && e.limit != some e.trips then
        some ({ x.sp with pc := x.target off, loops := { e with trips := e.trips + 1 } :: rest }, { x.on with loops := rest }, true)
      else none
    | _, _ => none
  | _ => none

/-- The split as a transfer of the whole of it makes it, the item that a travel of it is counted against, and whether it is a return
(R130, R133, R135-R138, R281, R282). -/
def Ex.goes? (x : Ex) (i : Instr) : Option (Split × Option Word × Bool) :=
  match i with
  | .br off => if x.way = .taken then some ({ x.sp with pc := x.target off }, some x.sp.pc, false) else none
  | .call off =>
    if x.way = .taken ∧ x.depthOk (x.target off) = true then some (x.called (x.target off), some x.sp.pc, false) else none
  | .ret _ =>
    match x.retCheck, x.sp.rets with
    | none, e :: rest => if x.go then some ({ x.sp with pc := e.addr, rets := rest }, x.retItem e, true) else none
    | _, _ => none
  | .lpb f =>
    match x.loopEnd with
    | some (e, _) =>
      if !x.go || (decide (x.sp.loops.length < 4) && f.a != .zero && x.rdU f.a == 0) then
        some ({ x.sp with pc := e }, some (e - 4), false)
      else none
    | none => none
  | .lpe off =>
    match x.loopCheck, x.sp.loops with
    | none, e :: rest =>
      let more := match e.count with | none => true | some n => decide (e.trips < n)
      if !more || x.way = .falls then some ({ x.on with loops := rest }, some x.sp.pc, false)
      else if x.way = .taken ∧ e.limit ≠ some e.trips then
        some ({ x.sp with pc := x.target off, loops := { e with trips := e.trips + 1 } :: rest }, some x.sp.pc, false)
      else none
    | _, _ => none
  | .lbrk _ =>
    match x.loopCheck, x.sp.loops with
    | none, e :: rest => if x.go then some ({ x.sp with pc := e.endA, loops := rest }, some (e.endA - 4), false) else none
    | _, _ => none
  | _ => none

/-- The limit of a travel, if it has one, is not reached (R282). -/
def Ex.travelsLeft (x : Ex) (item : Option Word) : Prop :=
  ∀ key n, x.travelLimit item = some (key, n) → Tab.read x.grid.travels key 0 < n

/-- A travel to an address, counted against an item, may depart, and goes to station `k` (R282, R285, R287). -/
def Ex.mayDepart (x : Ex) (pc : Word) (item : Option Word) (k : Nat) : Prop :=
  x.travelsLeft item ∧ ∃ c, x.grid.kernel.clauseAt pc = some c
    ∧ chooseStation (x.gang.openStations c.n) x.g.team x.g.grp pc.toNat = some k

/-- What has departed as `sig` to station `k`: a packet with what `LIVE` selects and what R284 lists, for which a place is reserved; and
the travel is counted (R282-R286). -/
structure Ex.Departs (x : Ex) (t : State) (sig : Split) (item : Option Word) (ret : Bool) (k : Nat) : Prop where
  packet : ∃ p, Tab.find t.packets x.s.nextPacket = some p ∧ p.gang = x.g.gang ∧ p.source = x.g.team ∧ p.station = k ∧ p.isReturn = ret
    ∧ p.arrived = false ∧ p.dest = sig.pc ∧ p.lanes = sig.lanes ∧ p.loops = sig.loops ∧ p.rets = sig.rets
    ∧ p.exec = x.g.exec &&& sig.lanes ∧ p.dead = x.g.dead &&& sig.lanes ∧ p.mode = x.g.mode ∧ p.fpx = x.g.fpx ∧ p.live = x.g.live
    ∧ p.rngs = x.g.rngs
    ∧ (∀ n < 32, Tab.find p.v n = (if bit x.g.live.toNat (n / 4) then Tab.find x.g.v n else none)
        ∧ Tab.find p.s n = if bit x.g.live.toNat (8 + n / 8) then Tab.find x.g.s n else none)
    ∧ ∀ n < 7, Tab.find p.p n = if bit x.g.live.toNat 12 then Tab.find x.g.p n else none
  place : (Tab.find (t.gang x.g.gang).stations k).map (·.reserved)
    = (Tab.find x.gang.stations k).map (fun st => st.reserved ++ [x.s.nextPacket])
  counted : ∀ key n, x.travelLimit item = some (key, n) → Tab.read (t.grid x.gridId).travels key 0 = Tab.read x.grid.travels key 0 + 1

/-- A tray as `TRI` leaves it (R165, R223): nothing claimed, filled or released, every slot EMPTY, and the rest as its descriptor says. -/
structure State.NewTray (m : State) (h : Nat) (d : TrayDesc) (loc : Bool) (part : Nat) : Prop where
  known : h ∈ m.trays
  granules : h / 32 ∈ m.sync ∧ h / 32 + 1 ∈ m.sync
  filled : m.trFilled h = 0
  released : m.trReleased h = 0
  claimed : m.trClaimed h = 0
  seq : m.trSeq h = 0
  resolved : m.trResolved h = 0
  empty : ∀ i, m.trState h i = slotEmpty
  count : m.trCount h = d.count + 1
  window : m.trWindow h = d.window
  size : m.trSize h = d.size * 64
  hold : m.trHold h = d.hold
  final : m.trFinal h = d.final
  checked : bit (m.hdr h 0x18) 2 = d.checked
  place : m.trLoc h = loc
  owner : m.trOwner h = part % 16
  holder : m.trHolder h = d.holder
  base : m.trBase h = if loc then d.base % 2 ^ 57 else wrapNat 64 (Sys2Proof.signed 57 (d.base % 2 ^ 57))

/-- The map of `s` has changed in the words `ws` and in those that follow from them: MAPV has risen by 1, every listed word reads as the
change says, and the log tells the version, the units and whether something became worse (R6, R12, R13, R19). -/
structure State.MapTo (s t : State) (ws : List (Nat × Word)) : Prop where
  version : t.mapv = s.mapv + 1
  words : ∀ k, mapListed k = true → 0 < k → k ≠ 3 → t.readMap 0 k = Tab.read (s.derived ws) k (s.readMap 0 k)
  log : ∃ e, t.mapLog.head? = some e ∧ e.version = s.mapv + 1
    ∧ (∀ w ∈ s.derived ws, w.2.toNat ≠ s.mapWord w.1 → (w.1, (word (s.mapWord w.1) ^^^ w.2).toNat) ∈ e.units)
    ∧ (e.deg = true ↔ ∃ w ∈ s.derived ws, w.2.toNat ≠ s.mapWord w.1 ∧ wordWorse w.1 (s.mapWord w.1) w.2.toNat = true)

/-- Words `ws` are each named once, and some word of the map would change with them. -/
def State.MapMoves (s : State) (ws : List (Nat × Word)) : Prop :=
  (ws.map (·.1)).Nodup ∧ ∃ w ∈ s.derived ws, w.2.toNat ≠ s.mapWord w.1

/-- The map of `s` has been built and can change once more (R13). -/
def State.MapOpen (s : State) : Prop := 0 < s.mapv ∧ s.mapv + 1 < 2 ^ 32 ∧ s.checked = false

/-- Engine `k` runs a command of list `l`, at place `p` among its jobs (R238, R242). -/
def State.Runs (s : State) (k p : Nat) (l : SList) : Prop := s.turn = .engine k ∧ s.job k = some (p, .list l)

/-- The lists of an engine after a command of list `l`, which has become `n`; a list whose teams have all retired ends with it (R246). -/
def Engine.after (e : Engine) (l n : SList) : List SList :=
  if l.closing then e.lists.filter (fun o => !(o.serial == l.serial && o.ctx == l.ctx))
  else e.lists.map (fun o => if o.serial = l.serial ∧ o.ctx = l.ctx then n else o)

/-- Engine `k` has changed list `l` into `n`, and the machine has become `m` but for the engines and the performance counters; no other
engine has changed, and no copy. -/
structure State.ListActs (s t m : State) (k : Nat) (l n : SList) : Prop where
  lists : (t.engine k).lists = (s.engine k).after l n
  copies : (t.engine k).copies = (s.engine k).copies
  engines : ∀ j, j ≠ k → t.engine j = s.engine j
  machine : t = { m with engines := t.engines, counters := t.counters }

/-- `n` releases by engine `k` do not fill its count, and no counter is full (R198, R203). -/
structure State.EngineRoom (s : State) (k n : Nat) : Prop where
  count : (s.engine k).count + n < 2 ^ 48
  checked : s.checked = false

/-- A list after a command. -/
def SList.ended (l : SList) : SList := { l with cur := none, tensor := none, named := none, row := 0, wait := none }

end Sys2Proof.Machine
end

