-- ==== Sys2Proof/Certificates/Slice0/Obligations.lean ====
section
/-! DEFINITION. The statements for the provers, each with the rule of the spec that it formalises. -/
open Sys2Proof Sys2Proof.Machine

/-- O1. Words that the spec writes out beside its examples decode to those instructions, with every operand. -/
def Obligations.WrittenWordsDecode : Prop :=
  decode 0x05010286 = .mac ⟨false, .vreg 4, .vreg 5, .vreg 6⟩
  ∧ decode 0x04D0A1C4 = .mulh ⟨false, .sreg 2, .sreg 3, .sreg 4⟩
  ∧ decode 0x0EC080C5 = .bfx ⟨false, .vreg 2, .vreg 1, .sreg 5⟩
  ∧ decode 0x10C0C06C = .cvtE4m3 ⟨false, .vreg 3, .vreg 0, .zero⟩
  ∧ decode 0x14994103 = .cmpLt ⟨false, .preg 1, .vreg 2, .vreg 3⟩
  ∧ decode 0x4001FFF4 = .ldi ⟨.vreg 3, 0x7FF4⟩
  ∧ decode 0x40E18003 = .srd ⟨.sreg 3, 3⟩
  ∧ decode 0x41400001 = .mset ⟨.vreg 0, 1⟩
  ∧ decode 0x00400000 = .nop ⟨false, .vreg 0, .vreg 0, .vreg 0⟩
  ∧ decode 0 = .illegalZero

/-- O2. For every well-formed instruction that has an encoding, the bytes of its words, followed by any others, decode to it with
every operand, and leave the others: by a core or the MCC, or for a command of a stream list by an engine. -/
def Obligations.EncodedInstructionsReadBack : Prop :=
  ∀ (i : Instr) (rest : List Byte), i.wellFormed = true → encode i ≠ [] →
    if i.isCommand = true then
      decodeStreamBytes ((encode i).flatMap (fun w => bytesLE 4 w.toNat) ++ rest) = .ok (i, rest)
    else decodeBytes ((encode i).flatMap (fun w => bytesLE 4 w.toNat) ++ rest) = some (i, rest)

/-- O3. Whatever word stands in the stream of a core or of the MCC, the instruction that it decodes to encodes as that very word: no
two words decode to one instruction, and no bit is dropped. -/
def Obligations.EveryWordIsItsInstruction : Prop :=
  ∀ w : Word, encode (decode w) = [w]

/-- O4. With an empty agenda, the party whose turn it is, if it may issue, its PC lies in its code and its line is in its store,
issues the instruction that the word at its PC decodes to, from a state that differs by the use of the line alone; with an event
next in the agenda, the step is that event. -/
def Obligations.StepRunsTheDecodedInstruction : Prop :=
  (∀ (s : State) (x : Ex), s.agenda = [] → Ex.load s = some x → x.mayIssue = true → x.leftCode = none → x.hit = true →
      ∃ st, step s = exec (decode (x.wordAt x.sp.pc)) { s with stores := st } ∧ (x.pinned = true → st = s.stores)
        ∧ (x.pinned = false → ∀ k, k ≠ x.storeKey → Tab.read st k [] = Tab.read s.stores k []))
  ∧ (∀ (s : State) (i : Instr) (r : List Act), s.agenda = .event i :: r → step s = exec i { s with agenda := r })
  ∧ (∀ (s : State) (k : Nat) (i : Instr) (t : State), s.agenda = [] → s.turn = .engine k → engineFetch s k = .run i t → step s = exec i t)

/-- O5. Every instruction of one of the arithmetic, logic, conversion, vote, lane, move and constant entries, and CLID, AQST, TGET,
MAPRD, CNTRD, and SRD but of LCLK, that is issued by a party at rest, completes: it writes the value that Ex.value? gives to its
destination in the vector or the scalar form of R99, shifts the latches after a vector result, clears no flag, moves no
generator but under stochastic rounding, moves the PC on by 4, and changes no other register, no other split, no memory and no
other part of the machine but the performance counters. -/
def Obligations.ComputeResultsLand : Prop :=
  ∀ (i : Instr) (s : State) (x : Ex) (nw : Bool) (d : Operand) (val : Nat → Word),
    x.Issues i s → x.Calm → x.value? i = some (nw, d, val) → ∃ y : Ex, exec i s = .next y.s ∧ x.Writes y nw d val

/-- O6. Every compare and every predicate operation issued by a party at rest completes: it writes its bits to the predicate
register in the active lanes whose guard is true, nothing to p7 and nothing under nw, shifts no latch, clears no flag, moves no
generator, moves the PC on by 4, and changes no other register, no memory and no other part of the machine but the performance
counters. -/
def Obligations.PredicateResultsLand : Prop :=
  ∀ (i : Instr) (s : State) (x : Ex) (nw : Bool) (d : Operand) (val : Nat → Bool),
    x.Issues i s → x.Calm → x.bit? i = some (nw, d, val) → ∃ y : Ex, exec i s = .next y.s ∧ x.WritesBits y nw d val

/-- O7. Under i32 and n32 with MODE.sat 0, ADD, SUB, MUL and MAC give the exact result modulo 2^32 and raise no flag, and NEG gives
the two's complement. -/
def Obligations.WordArithmeticWraps : Prop :=
  ∀ m a b d r : Nat, field m 8 4 ≤ 1 → bit m 12 = false → a < 2 ^ 32 → b < 2 ^ 32 → d < 2 ^ 32 →
    aluWord .add m a b d r = ⟨(a + b) % 2 ^ 32, 0, r⟩ ∧ aluWord .sub m a b d r = ⟨(2 ^ 32 + a - b) % 2 ^ 32, 0, r⟩
    ∧ aluWord .mul m a b d r = ⟨a * b % 2 ^ 32, 0, r⟩ ∧ aluWord .mac m a b d r = ⟨(d + a * b) % 2 ^ 32, 0, r⟩
    ∧ aluWord .neg m a b d r = ⟨(2 ^ 32 - a) % 2 ^ 32, 0, r⟩

/-- O8. Under every integer type, DIV by a word of zeros gives a quotient with every bit set, REM gives the dividend, both raise IDZ
and nothing else, and no generator moves. -/
def Obligations.DivisionByZeroNeverTraps : Prop :=
  ∀ (m a d r : Nat), (field m 8 4 ≤ 1 ∨ 5 ≤ field m 8 4) → field m 8 4 ≤ 8 → a < 2 ^ 32 →
    aluWord .div m a 0 d r = ⟨2 ^ 32 - 1, Fpx.idz, r⟩ ∧ aluWord .rem m a 0 d r = ⟨a, Fpx.idz, r⟩

/-- O9. SHL and SHR give 0 and SAR 32 copies of bit 31 when the amount is 32 or more; below 32 the bits move by the amount; ROT
turns by the amount modulo 32; POPC and CLZ lie in 0 to 32; BREV puts bit i at 31 - i. -/
def Obligations.ShiftsByAnyAmount : Prop :=
  ∀ (a b : Word) (i : Nat), i < 32 →
    (32 ≤ b.toNat → bitWord .shl a b = 0 ∧ bitWord .shr a b = 0 ∧ (bitWord .sar a b).getLsbD i = a.getLsbD 31)
    ∧ (b.toNat < 32 → (bitWord .shl a b).getLsbD i = (decide (b.toNat ≤ i) && a.getLsbD (i - b.toNat))
        ∧ (bitWord .shr a b).getLsbD i = a.getLsbD (b.toNat + i)
        ∧ (bitWord .sar a b).getLsbD i = a.getLsbD (if b.toNat + i < 32 then b.toNat + i else 31))
    ∧ (bitWord .rot a b).getLsbD ((i + b.toNat) % 32) = a.getLsbD i
    ∧ (bitWord .popc a b).toNat ≤ 32 ∧ (bitWord .clz a b).toNat ≤ 32 ∧ (bitWord .brev a b).getLsbD i = a.getLsbD (31 - i)

/-- O10. LWR issued by a party at rest completes: if lane k = rd(b)[4:0] is active, its guard true and nw clear, that lane of d
takes rd(a) and an absent d becomes present with its other lanes 0; the new L0 holds what d holds afterwards in the active lanes
whose guard is true, with rd(a) in lane k, and 0 elsewhere; no other register, flag, generator, memory or part of the machine
changes but the counters. -/
def Obligations.LwrWritesOneLane : Prop :=
  ∀ (f : RForm) (s : State) (x : Ex) (n : Fin 64), x.Issues (.lwr f) s → x.Calm → f.d = .vreg n →
    ∃ y : Ex, exec (.lwr f) s = .next y.s ∧ x.Becomes y ∧ x.StepsOn y ∧ x.OnlyGroup y ∧ x.OnlyRegs y ∧ x.KeepsBut y f.d
      ∧ y.g.fpx = x.g.fpx ∧ y.g.rngs = x.g.rngs
      ∧ (∀ l < 32, y.rd f.d l =
          if f.nw = false ∧ Word.has x.acting ((x.rdU f.b).toNat % 32) = true then
            (if l = (x.rdU f.b).toNat % 32 then x.rdU f.a else if x.isAbsent f.d = true then 0 else x.rd f.d l)
          else x.rd f.d l)
      ∧ y.sp.latches = ⟨lanesOf (fun l => if Word.has x.acting l then
            (if l = (x.rdU f.b).toNat % 32 then x.rdU f.a else if y.isAbsent f.d = true then 0 else y.rd f.d l) else 0), false, 0⟩
          :: x.sp.latches.take 3

/-- O11. SEL issued by a party at rest completes: every active lane of a vector d, or a scalar d, takes rd(a) where the guard is
true and rd(b) elsewhere, nothing under nw, the guard suppressing nothing; a vector result becomes the new L0; no other
register, flag, generator, memory or part of the machine changes but the counters. -/
def Obligations.SelChoosesBySource : Prop :=
  ∀ (f : RForm) (s : State) (x : Ex), x.Issues (.sel f) s → x.Calm →
    ∃ y : Ex, exec (.sel f) s = .next y.s ∧ x.Becomes y ∧ x.StepsOn y ∧ x.OnlyGroup y ∧ x.OnlyRegs y ∧ x.KeepsBut y f.d
      ∧ y.g.fpx = x.g.fpx ∧ y.g.rngs = x.g.rngs
      ∧ (f.d.isVreg = true → f.nw = false → ∀ l < 32, y.rd f.d l =
          if Word.has x.active l then (if x.guard l then x.rd f.a l else x.rd f.b l)
          else if x.active ≠ 0 ∧ x.isAbsent f.d = true then 0 else x.rd f.d l)
      ∧ (f.d.isSreg = true → f.nw = false → ∀ l, y.rd f.d l = if x.go then x.rdU f.a else x.rdU f.b)
      ∧ (f.nw = true → ∀ l, y.rd f.d l = x.rd f.d l)
      ∧ y.sp.latches =
          if f.d.isVreg then ⟨lanesOf (fun l => if Word.has x.active l then (if x.guard l then x.rd f.a l else x.rd f.b l) else 0), false, 0⟩
            :: x.sp.latches.take 3
          else x.sp.latches

/-- O12. SRD of LCLK writes the low half of the cluster's cycle count and captures the high half into the group when a lane of its
form acts; SWR of SUPSTAT with bit 2 set clears the error log's overflow flag of the context and sets the step bit. Each
completes, and does nothing else but as a write of a value, or a turn of the party, does. -/
def Obligations.ReadsWithAnEffect : Prop :=
  (∀ (f : KForm) (s : State) (x : Ex), x.Issues (.srd f) s → x.Calm → f.k.toNat = 3 →
    ∃ y : Ex, x.Writes y false f.d (fun _ => word (x.s.cluster x.cluster).lclk) ∧
      exec (.srd f) s = .next (y.s.setGroup x.gid { y.g with
        lclkh := if (if f.d.isVreg then x.acting ≠ 0 else x.go = true) then some (word ((x.s.cluster x.cluster).lclk / 2 ^ 32))
          else x.g.lclkh }))
  ∧ (∀ (f : KForm) (s : State) (x : Ex), x.Issues (.swr f) s → x.Calm → f.k.toNat = 0x27 → x.go = true → bit (x.rdU f.d).toNat 2 = true →
    ∃ y : Ex, x.Turns y { x.g with step := bit (x.rdU f.d).toNat 1 } { x.sp with pc := x.sp.pc + 4 } ∧
      exec (.swr f) s = .next (y.s.setCtx x.ctxId { x.ctx with logov := false }))

/-- O13. NOP, PHASE, MSET, MSETR, LIVE, SWR, JMARK, BR, CALL, CALLT, RET, LPB, LPE, LBRK, a YLD that has waited or whose guard is
false, and a BKPT or TRAP whose guard is false, issued by a party at rest where they neither trap, travel, divide nor wait,
complete: the party's group and split become what Ex.turn? says, and nothing else of the machine changes but the performance
counters. In a sentence-mode grid a BR, CALL, RET, LPB, LPE or LBRK of a whole split, which owes no side, to an address of
another clause departs where a station of that clause has a free place and the limit is not reached: the packet is made, its
place reserved and the travel counted, and the split leaves its group, which retires with its last one; otherwise the split
enters its handler with CLAUSE_UNMAPPED, LIMIT_TRAVEL or TRAVEL_OVERFLOW (with no quote in force, which the last two would
void). A CALLT to another clause enters it with CLAUSE_UNMAPPED; that this comes before the depth is tested is the model's
choice (log 141). -/
def Obligations.PartyTurns : Prop :=
  (∀ (i : Instr) (s : State) (x : Ex) (g : Group) (sp : Split),
    x.Issues i s → x.Calm → x.turn? i = some (g, sp) → ∃ y : Ex, exec i s = .next y.s ∧ x.Turns y g sp)
  ∧ (∀ (i : Instr) (s : State) (x : Ex) (sig : Split) (item : Option Word) (ret : Bool),
    x.Issues i s → x.Calm → x.goes? i = some (sig, item, ret) → x.travels sig.pc = true →
    (∀ k, x.mayDepart sig.pc item k → x.Plain → x.Counts → x.g.owedBy x.sp.entry = none →
      ∃ t, exec i s = .next t ∧ x.Departs t sig item ret k
        ∧ t.group x.gid = if (x.home.dropSplit x.sp.entry).splits.isEmpty = true then none else some (x.home.dropSplit x.sp.entry))
    ∧ (x.User → x.grid.kernel.clauseAt sig.pc = none → ∃ y : Ex, exec i s = .next y.s ∧ x.Enters y (.of .clauseUnmapped))
    ∧ (∀ c, x.User → x.grid.quote = none → x.grid.kernel.clauseAt sig.pc = some c →
        (¬ x.travelsLeft item → ∃ y : Ex, exec i s = .next y.s ∧ x.Enters y (.of .limitTravel))
        ∧ (x.travelsLeft item → x.gang.openStations c.n = [] → ∃ y : Ex, exec i s = .next y.s ∧ x.Enters y (.of .travelOverflow))))
  ∧ (∀ (f : RForm) (s : State) (x : Ex) (t : Word), x.Issues (.callt f) s → x.User → x.go = true →
    x.jump (x.rdU f.a) (x.rdU f.b) = some t → x.travels t = true →
    ∃ y : Ex, exec (.callt f) s = .next y.s ∧ x.Enters y (.of .clauseUnmapped))

/-- O14. A write of EXEC by a split changes only the bits of lanes of that split's lane set; bits of other lanes keep their values;
and a set bit of a dead lane has no effect, since no dead lane is active. -/
def Obligations.ExecWriteKeepsOtherLanes : Prop :=
  ∀ (x : Ex) (w : Word) (l : Nat), (Word.has (x.writeSpecial 1 w).g.exec l =
      if Word.has x.sp.lanes l then Word.has w l else Word.has x.g.exec l)
    ∧ (Word.has x.g.dead l = true → Word.has x.active l = false)

/-- O15. An instruction of a core or of the MCC whose decode checks fail, issued by a party in no handler, performs nothing: it
enters the handler with the first failing check of R68 as its cause. -/
def Obligations.FailedChecksEnterTheHandler : Prop :=
  ∀ (i : Instr) (s : State) (x : Ex) (c : Cause), encode i ≠ [] → i.isCommand = false → Ex.load s = some x → x.User →
    x.decodeCheck i = some c → ∃ y : Ex, exec i s = .next y.s ∧ x.Enters y (.of c)

/-- O16. BKPT and TRAP #k with a true guard, issued by a party in no handler, enter the handler with BKPT, or with SW_TRAP and info
k, and TRAPPC at the next instruction. -/
def Obligations.TrapInstructionsEnterTheHandler : Prop :=
  (∀ (f : RForm) (s : State) (x : Ex), x.Issues (.bkpt f) s → x.User → x.go = true →
      ∃ y : Ex, exec (.bkpt f) s = .next y.s ∧ x.Enters y { Trap.of .bkpt with next := true })
  ∧ (∀ (f : KForm) (s : State) (x : Ex), x.Issues (.trap f) s → x.User → x.go = true →
      ∃ y : Ex, exec (.trap f) s = .next y.s ∧ x.Enters y { Trap.of .swTrap with next := true, info := f.k.toNat })

/-- O17. The all-zero word, a word of an unassigned or illegal opcode, and a stream command word in a core's stream, issued by a
party in no handler, enter the handler with ILLEGAL_ZERO, ILLEGAL_OPCODE and STREAM_WORD, whatever the guard. -/
def Obligations.WordsThatAreNoInstructionTrap : Prop :=
  ∀ (w : Word) (s : State) (x : Ex), x.User →
    (x.Issues .illegalZero s → ∃ y : Ex, exec .illegalZero s = .next y.s ∧ x.Enters y (.of .illegalZero))
    ∧ (x.Issues (.illegalOpcode w) s → ∃ y : Ex, exec (.illegalOpcode w) s = .next y.s ∧ x.Enters y (.of .illegalOpcode))
    ∧ (x.Issues (.streamWord w) s → ∃ y : Ex, exec (.streamWord w) s = .next y.s ∧ x.Enters y (.of .streamWord))

/-- O18. An instruction of a core or of the MCC whose decode checks fail, issued in a handler, terminates the context: it is no
longer live, and each of its grids has completed. -/
def Obligations.TrapInAHandlerEndsTheContext : Prop :=
  ∀ (i : Instr) (s : State) (x : Ex) (c : Cause), encode i ≠ [] → i.isCommand = false → Ex.load s = some x → x.sup = true →
    x.decodeCheck i = some c →
    ∃ t, exec i s = .next t ∧ (t.ctx x.ctxId).live = false
      ∧ ∀ k g, Tab.find s.grids k = some g → g.ctx = x.ctxId → (t.grid k).complete = true

/-- O19. RTT with a true guard, issued in a handler by a group of a core whose trap is not HOST_ABORT, with no further trap waiting
or pending, restores the split's MODE, FPX, latches with their stale flags, loop stack and return stack, and, where TRAPPC is
still the address that the entry saved, its count and ticket, leaves the handler with the PC at TRAPPC, makes the split step
alone if SUPSTAT.step is set, and changes nothing else but the performance counters and the places of the XACQ order that end
with the handler: no user register, not EXEC, no memory. Which places of that order end with the handler is the model's choice
(log 120). -/
def Obligations.RttReturns : Prop :=
  ∀ (f : RForm) (s : State) (x : Ex) (sv : Saved), x.Issues (.rtt f) s → x.Calm → x.go = true → x.g.mcc = false →
    x.g.saved = some sv → sv.entry = x.sp.entry → x.g.trapc.toNat % 128 ≠ Cause.hostAbort.code → x.g.trapq = [] → x.g.apend = [] →
    ∃ y : Ex, exec (.rtt f) s = .next (if x.team.xq.all (fun q => q.outlives x.gid x.g sv) then y.s
        else y.s.setTeam x.teamId { x.team with xq := x.team.xq.filter (fun q => q.outlives x.gid x.g sv) }) ∧
      x.Turns y { x.g with saved := none, mode := sv.mode, fpx := sv.fpx, stepping := if x.g.step then some x.sp.entry else none }
        { x.sp with pc := x.g.trappc, wait := none, latches := sv.latches, loops := sv.loops, rets := sv.rets,
                    count := if x.g.trappc = sv.pc then sv.count else 0
                    ticket := if x.g.trappc = sv.pc then sv.ticket else none }

/-- O20. KILL with a true guard, issued in a handler of a group of a core: mode 0 ends the trapped split, if it has no side left to
take up; mode 1 ends the group, and its grid has a status other than 0; mode 2 terminates the context and completes each of its
grids; mode 3, with no counter full, suspends the group, out of its handler. -/
def Obligations.KillModes : Prop :=
  ∀ (f : RForm) (s : State) (x : Ex) (sv : Saved), x.Issues (.kill f) s → x.Calm → x.go = true → x.g.mcc = false →
    x.g.saved = some sv → sv.entry = x.sp.entry →
    ((x.rdU f.a).toNat = 0 → x.g.owedBy x.sp.entry = none →
      ∃ t, exec (.kill f) s = .next t ∧ ∀ g, t.group x.gid = some g → g.split? x.sp.entry = none)
    ∧ ((x.rdU f.a).toNat = 1 → ∃ t, exec (.kill f) s = .next t ∧ t.group x.gid = none ∧ (t.grid x.gridId).status ≠ 0)
    ∧ ((x.rdU f.a).toNat = 2 → ∃ t, exec (.kill f) s = .next t ∧ (t.ctx x.ctxId).live = false
        ∧ ∀ k g, Tab.find s.grids k = some g → g.ctx = x.ctxId → (t.grid k).complete = true)
    ∧ ((x.rdU f.a).toNat = 3 → x.Counts → ∃ t g, exec (.kill f) s = .next t ∧ t.group x.gid = some g ∧ g.run = .suspended ∧ g.saved = none
        ∧ g.mode = sv.mode ∧ g.v = x.g.v ∧ g.s = x.g.s)

/-- O21. A BR, CALL or LPE of a group of a core that diverges under a pending frame, neither side travelling, with a free buffer
entry on the core: the fall-through side goes on in the split's entry at PC + 4 with the other lanes, after an LPE without its
loop; the taken side starts in the free entry at the target with the acting lanes, after a CALL with one return entry more,
after an LPE with one trip more; both have stale latches and are members of the innermost frame; the other splits, and
everything outside the group but the counters, are unchanged. That the new split belongs to every other frame too to which the
first belongs, where it may come to stand for it at a JOIN (R37), is the model's choice (log 119). -/
def Obligations.DivergenceMakesTwoSplits : Prop :=
  ∀ (i : Instr) (s : State) (x : Ex) (m : Word) (tk ft : Split) (pops : Bool) (e : Nat) (h : Frame) (rest : List Frame),
    x.Issues i s → x.Calm → x.g.mcc = false → x.sides? i = some (tk, ft, pops) → x.way = .diverges m → x.travels tk.pc = false →
    (pops && x.travels ft.pc) = false → x.g.frames = h :: rest → x.freeEntry = some e →
    ∃ y : Ex, exec i s = .next y.s ∧ x.Becomes y ∧ x.OnlyGroup y
      ∧ y.g = { x.g with
            splits := y.g.splits,
            frames := { h with members := addNew (addNew h.members x.sp.entry) e }
                :: rest.map (fun r => if r.members.contains x.sp.entry then { r with members := addNew r.members e } else r) }
      ∧ y.sp = { ft.settled with lanes := x.sp.lanes &&& ~~~ m }.stale
      ∧ y.g.split? e = some { tk.settled with entry := e, lanes := m, slices := [], area := x.g.freeArea }.stale
      ∧ (∀ k, k ≠ x.sp.entry → k ≠ e → y.g.split? k = x.g.split? k)

/-- O22. A BR, CALL or LPE that diverges under a pending frame with no free buffer entry on the core, neither side travelling, goes
on with the taken side alone, its latches stale, and records the fall-through side, with its PC, lanes and stacks, first in the
innermost frame's side list; one that diverges with no pending frame, in no handler, enters the handler with NO_JOIN. In a
sentence-mode grid a taken side whose target lies in another clause departs, where a station has a free place and its limit is
not reached, and the fall-through side goes on in the split with the other lanes; where the fall-through side of an LPE alone
leaves the clause it departs likewise, and the taken side goes on; where both sides of an LPE leave it, each to another clause,
both depart and the split leaves its group. No frame is needed for a side that departs. -/
def Obligations.SerialDivergenceRecordsASide : Prop :=
  ∀ (i : Instr) (s : State) (x : Ex) (m : Word) (tk ft : Split) (pops : Bool), x.Issues i s → x.Calm → x.g.mcc = false →
    x.sides? i = some (tk, ft, pops) → x.way = .diverges m →
    (x.travels tk.pc = false → (pops && x.travels ft.pc) = false →
      (∀ (h : Frame) (rest : List Frame), x.g.frames = h :: rest → x.freeEntry = none →
        ∃ y : Ex, exec i s = .next y.s ∧ x.Turns y
          { x.g with frames := { h with
              members := addNew h.members x.sp.entry
              sides := ⟨ft.pc, x.sp.lanes &&& ~~~ m, ft.loops, ft.rets, x.sp.entry, x.g.freeArea⟩ :: h.sides } :: rest }
          { tk with lanes := m }.stale)
      ∧ (x.g.frames = [] → x.User → ∃ y : Ex, exec i s = .next y.s ∧ x.Enters y (.of .noJoin)))
    ∧ (∀ k, x.travels tk.pc = true → (pops && x.travels ft.pc) = false → x.mayDepart tk.pc (some x.sp.pc) k → x.Plain → x.Counts →
        ∃ y : Ex, exec i s = .next y.s ∧ x.Becomes y ∧ x.Departs y.s { tk with lanes := m } (some x.sp.pc) false k
          ∧ y.g = { x.g with splits := y.g.splits } ∧ (∀ e, e ≠ x.sp.entry → y.g.split? e = x.g.split? e)
          ∧ y.sp = { ft.settled with lanes := x.sp.lanes &&& ~~~ m }.stale)
    ∧ (∀ k, x.travels tk.pc = false → (pops && x.travels ft.pc) = true → x.mayDepart ft.pc (some x.sp.pc) k → x.Plain → x.Counts →
        x.sp.lanes &&& ~~~ m &&& ~~~ x.g.dead ≠ 0 →
        ∃ y : Ex, exec i s = .next y.s ∧ x.Becomes y ∧ x.Departs y.s { ft with lanes := x.sp.lanes &&& ~~~ m } (some x.sp.pc) false k
          ∧ y.g = { x.g with splits := y.g.splits } ∧ (∀ e, e ≠ x.sp.entry → y.g.split? e = x.g.split? e)
          ∧ y.sp = { tk.settled with lanes := m }.stale)
    ∧ (∀ k j, x.travels tk.pc = true → (pops && x.travels ft.pc) = true → x.mayDepart tk.pc (some x.sp.pc) k → x.Plain → x.Room 3 →
        x.sp.lanes &&& ~~~ m &&& ~~~ x.g.dead ≠ 0 → x.mayDepart ft.pc (some x.sp.pc) j → x.g.splits = [x.sp] →
        x.g.owedBy x.sp.entry = none → (∀ key n, x.travelLimit (some x.sp.pc) = some (key, n) → Tab.read x.grid.travels key 0 + 1 < n) →
        (x.grid.kernel.clauseAt tk.pc).map (·.n) ≠ (x.grid.kernel.clauseAt ft.pc).map (·.n) →
        ∃ t p, exec i s = .next t ∧ t.group x.gid = none ∧ t.nextPacket = x.s.nextPacket + 2
          ∧ Tab.find t.packets x.s.nextPacket = some p ∧ p.dest = tk.pc ∧ p.lanes = m
          ∧ ∃ q, Tab.find t.packets (x.s.nextPacket + 1) = some q ∧ q.dest = ft.pc ∧ q.lanes = x.sp.lanes &&& ~~~ m)

/-- O23. A JOIN in a handler, with no frame pending, or at an address that is not the innermost frame's join, only passes, with
stale latches. At the innermost frame's JOIN, with the recorded stack depths, a split that has a side left takes it up, and the
lanes it came with stay at the JOIN; with none left it waits while another member has not arrived. Once every other member has
arrived it re-gangs with them: one split goes on after the JOIN with the lanes of all of them, also those left there, the frame
is popped, the splits that had not arrived are as they were, and nothing else of the machine changes but the counters. That the
lanes of a side stay recorded at the JOIN, and re-gang from there, is read from R36 and R132 and is the model's choice (log 67). -/
def Obligations.JoinRegangs : Prop :=
  ∀ (f : RForm) (s : State) (x : Ex), x.Issues (.join f) s → x.Calm →
    ((x.sup = true ∨ x.g.frames = []) →
      ∃ y : Ex, exec (.join f) s = .next y.s ∧
        x.Turns y x.g { x.sp with pc := x.sp.pc + 4, wait := none, count := 0, ticket := none }.stale)
    ∧ (∀ (h : Frame) (rest : List Frame), x.sup = false → x.g.frames = h :: rest → x.sp.ticket = none →
        (∀ r ∈ h :: rest, x.sp.entry ∉ r.arrived) →
        (h.join ≠ x.sp.pc → ∃ y : Ex, exec (.join f) s = .next y.s ∧
          x.Turns y x.g { x.sp with pc := x.sp.pc + 4, wait := none, count := 0, ticket := none }.stale)
        ∧ (h.join = x.sp.pc → x.sp.rets.length = h.retDepth → x.sp.loops.length = h.loopDepth →
            (∀ sd, h.sides.find? (fun sd => sd.owner == x.sp.entry) = some sd → sd.lanes &&& ~~~ x.g.dead ≠ 0 →
              ∃ y : Ex, exec (.join f) s = .next y.s ∧ x.Turns y
                { x.g with frames := { h with sides := h.sides.erase sd
                                              parked := Tab.put h.parked x.sp.entry (Tab.read h.parked x.sp.entry 0 ||| x.sp.lanes) } :: rest }
                { x.sp with pc := sd.pc, lanes := sd.lanes, loops := sd.loops, rets := sd.rets, wait := none, count := 0, ticket := none }.stale)
            ∧ ((∀ sd ∈ h.sides, sd.owner ≠ x.sp.entry) → (∃ k ∈ h.members, k ≠ x.sp.entry ∧ k ∉ h.arrived) →
              ∃ y : Ex, exec (.join f) s = .next y.s ∧ x.Turns y
                { x.g with frames := { h with members := addNew h.members x.sp.entry, arrived := addNew h.arrived x.sp.entry } :: rest }
                (x.waiting .join))
            ∧ ((∀ sd ∈ h.sides, sd.owner ≠ x.sp.entry) → (∀ k ∈ h.members, k = x.sp.entry ∨ k ∈ h.arrived) →
              ∃ (t : State) (g : Group) (p : Split), exec (.join f) s = .next t
                ∧ t = { x.s with counters := t.counters, groups := Tab.put x.s.groups x.gid g }
                ∧ g = { x.g with splits := g.splits, frames := g.frames } ∧ g.frames.length = rest.length
                ∧ p ∈ g.splits ∧ p.pc = h.join + 4 ∧ p.wait = none ∧ (∀ l ∈ p.latches, l.stale = true)
                ∧ (x.sp.lanes ||| Tab.read h.parked x.sp.entry 0) &&& ~~~ p.lanes = 0
                ∧ (∀ q ∈ x.g.splits, q.entry ≠ x.sp.entry → q.entry ∈ h.arrived →
                    (q.lanes ||| Tab.read h.parked q.entry 0) &&& ~~~ p.lanes = 0 ∧ ∀ r ∈ g.splits, r.entry = q.entry → r = p)
                ∧ (∀ q ∈ x.g.splits, q.entry ≠ x.sp.entry → q.entry ∉ h.arrived → q ∈ g.splits))))

/-- O24. EXIT issued in no handler by a group of a core: with no lane leaving, the split goes on after it unchanged; with some
leaving and some live lane left, it goes on with the lanes that stay; with none left, no side to take up and no other split, the
group retires and is gone. On the MCC with a true guard, the MCC has ended. -/
def Obligations.ExitLeaves : Prop :=
  ∀ (f : RForm) (s : State) (x : Ex), x.Issues (.exit f) s → x.Calm → x.sup = false →
    (x.g.mcc = false → (x.leaving = 0 ∨ x.sp.lanes &&& ~~~ x.leaving &&& ~~~ x.g.dead ≠ 0) →
      ∃ y : Ex, exec (.exit f) s = .next y.s ∧
        x.Turns y x.g { x.sp with pc := x.sp.pc + 4, lanes := x.sp.lanes &&& ~~~ x.leaving })
    ∧ (x.g.mcc = false → x.leaving ≠ 0 → x.sp.lanes &&& ~~~ x.leaving &&& ~~~ x.g.dead = 0 → x.g.owedBy x.sp.entry = none → x.g.splits = [x.sp] →
      ∃ t, exec (.exit f) s = .next t ∧ t.group x.gid = none)
    ∧ (x.g.mcc = true → x.gid = gidOf x.cluster 64 → x.leaving ≠ 0 →
      (∀ m, Tab.find x.s.mccs x.cluster = some m → m.qf = none) →
      ∃ t g, exec (.exit f) s = .next t ∧ t.group x.gid = some g ∧ g.run = .ended ∧ g.splits = [])

/-- O25. A YLD with a true guard that has not waited yet begins a wait of 8 local cycles. An XACQ with a true guard of a window that
its group does not hold, while its team has no free block, waits in the team's service order. Each wait keeps the MODE and the
guard of its issue. Nothing else changes: neither the PC, nor the latches, nor a register. -/
def Obligations.WaitsBegin : Prop :=
  (∀ (f : RForm) (s : State) (x : Ex), x.Issues (.yld f) s → x.Calm → x.go = true → x.sp.ticket = none →
    ∃ y : Ex, exec (.yld f) s = .next y.s ∧
      x.Turns y x.g (x.waiting (.yield 8)))
  ∧ (∀ (f : KForm) (s : State) (x : Ex), x.Issues (.xacq f) s → x.Calm → x.go = true → Tab.find x.g.held f.k.toNat = none →
      x.team.free = [] →
    ∃ y : Ex, x.Turns y x.g (x.waiting (.xacq f.k.toNat)) ∧
      exec (.xacq f) s = .next (y.s.setTeam x.teamId { x.team with
        xq := if x.team.xq.contains (x.poolPlace f.k.toNat) then x.team.xq else x.team.xq ++ [x.poolPlace f.k.toNat] }))

/-- O26. An XACQ with a true guard of a window that the group does not hold, with a free block and no earlier XACQ of the team
waiting, takes the first free block, the window's registers start at zero, and the split goes on with stale latches; of a window
already held it only goes on. An XREL with a true guard of a held window gives its block back, and a sibling's access to the
window that has been issued already keeps the block's registers; one of a window that is not held only goes on. With a false
guard both only go on; that such an XACQ gives up a place in the order that it still had is the model's choice (log 120). All
complete, and nothing else changes but the counters. -/
def Obligations.WindowsAreLentAndGivenBack : Prop :=
  (∀ (f : KForm) (s : State) (x : Ex), x.Issues (.xacq f) s → x.Calm → x.go = true →
    (∀ b rest, Tab.find x.g.held f.k.toNat = none → x.team.free = b :: rest → x.aheadAtPool f.k.toNat = [] →
      ∃ y : Ex, x.Turns y { x.g with
            held := Tab.put x.g.held f.k.toNat b,
            v := x.g.v.filter (fun e => e.1 / 16 != f.k.toNat + 2),
            ueLane := x.g.ueLane.filter (fun e => e.1 / 16 != f.k.toNat + 2) }
          { x.sp with pc := x.sp.pc + 4, wait := none, count := 0, ticket := none }.stale ∧
        exec (.xacq f) s = .next (y.s.setTeam x.teamId
          { x.team with free := rest, xq := x.team.xq.filter (fun q => q != x.poolPlace f.k.toNat) }))
    ∧ (∀ b, Tab.find x.g.held f.k.toNat = some b →
      ∃ y : Ex, x.Turns y x.g { x.sp with pc := x.sp.pc + 4, wait := none, count := 0, ticket := none }.stale ∧
        exec (.xacq f) s = .next (y.s.setTeam x.teamId
          { x.team with xq := x.team.xq.filter (fun q => q != x.poolPlace f.k.toNat) })))
  ∧ (∀ (f : KForm) (s : State) (x : Ex) (b : Nat), x.Issues (.xrel f) s → x.Calm → x.go = true → Tab.find x.g.held f.k.toNat = some b →
    ∃ y : Ex, x.Becomes y ∧ x.OnlyGroup y ∧ y.sp = x.on.settled
      ∧ y.g = { x.g with
            splits := y.g.splits,
            held := Tab.del x.g.held f.k.toNat,
            v := x.g.v.filter (fun e => e.1 / 16 != f.k.toNat + 2),
            ueLane := x.g.ueLane.filter (fun e => e.1 / 16 != f.k.toNat + 2) }
      ∧ (∀ e, e ≠ x.sp.entry → y.g.split? e = (x.overtaken f.k.toNat).find? (fun p => p.entry == e))
      ∧ exec (.xrel f) s = .next (y.s.setTeam x.teamId { x.team with free := x.team.free ++ [b] }))
  ∧ (∀ (f : KForm) (s : State) (x : Ex), x.Issues (.xrel f) s → x.Calm → x.go = false ∨ Tab.find x.g.held f.k.toNat = none →
    ∃ y : Ex, exec (.xrel f) s = .next y.s ∧ x.Turns y x.g { x.sp with pc := x.sp.pc + 4 })
  ∧ (∀ (f : KForm) (s : State) (x : Ex), x.Issues (.xacq f) s → x.Calm → x.go = false →
    ∃ y : Ex, x.Turns y x.g { x.sp with pc := x.sp.pc + 4, wait := none, count := 0, ticket := none }.stale ∧
      exec (.xacq f) s = .next (y.s.leaveOrder x.gid x.sp.entry))

/-- O27. A load of one, two or four words from the allotment or from global memory, issued by a party at rest, none of whose lanes
traps, waits or reads poison, with no combining update pending, completes: register d + j takes word j of each lane, nothing
under nw; the latches are stale, the PC moves on by 4, and no other register, flag or generator changes; every byte of memory
reads as before but the accessed bits of the entries walked; besides these, only the cached entries, the stamps, the users of
objects, the count of free values and the performance counters change. -/
def Obligations.LoadsWriteTheirDestination : Prop :=
  ∀ (i : Instr) (s : State) (x : Ex) (inSpad : Bool) (w : Nat) (f : RForm) (ts : List (Nat × Target)),
    loadForm? i = some (inSpad, w, f) → x.Issues i s → x.Calm → x.Plain →
    x.reaches inSpad (4 * w) (.load (4 * w)) .read (x.memLanes f.d.isVreg) f ts → x.s.poisonLanes ts (4 * w) = 0 →
    ∃ y : Ex, exec i s = .next y.s ∧ x.Becomes y ∧ x.OnlyRegs y ∧ x.StepsOn y ∧ (∀ t ∈ y.sp.latches, t.stale = true)
      ∧ y.g.fpx = x.g.fpx ∧ y.g.rngs = x.g.rngs
      ∧ y.s = { x.s with counters := y.s.counters, freeCtr := y.s.freeCtr, groups := Tab.put x.s.groups x.gid y.g, mem := y.s.mem,
                         tlb := y.s.tlb, stamps := y.s.stamps, users := y.s.users }
      ∧ (∀ a, ¬ walked ts a → Memory.read y.s.mem a = Memory.read x.s.mem a)
      ∧ (f.nw = false → f.d.isVreg = true → ∀ j < w, ∀ l < 32, y.rd (opPlus f.d j) l =
          match Tab.find ts l with
          | some t => x.s.loadWord t j
          | none => if ts ≠ [] ∧ x.isAbsent (opPlus f.d j) = true then 0 else x.rd (opPlus f.d j) l)
      ∧ (f.nw = false → f.d.isSreg = true → ∀ j < w, ∀ l, y.rd (opPlus f.d j) l =
          match Tab.find ts x.lead with
          | some t => x.s.loadWord t j
          | none => x.rd (opPlus f.d j) l)
      ∧ (∀ o l, (f.nw = true ∨ ∀ j < w, o ≠ opPlus f.d j) → (∀ n, o ≠ .latch n) → y.rd o l = x.rd o l)

/-- O28. A store of one, two or four words into the allotment or global memory, issued by a party at rest, none of whose lanes
traps, waits or names a hub register, with no combining update pending, completes: each byte that a lane stores holds that byte
of register d + j, the lane of highest number prevailing where lanes meet; every other byte of memory reads as before but the
accessed and dirty bits of the entries walked; no register, latch, flag or generator changes, the PC moves on by 4, and besides
these only poison marks, cached entries, stamps, release sequences, the users of objects, the count of free values and the
performance counters change. -/
def Obligations.StoresWriteTheirBytesOnly : Prop :=
  ∀ (i : Instr) (s : State) (x : Ex) (inSpad : Bool) (w : Nat) (f : RForm) (ts : List (Nat × Target)),
    storeForm? i = some (inSpad, w, f) → x.Issues i s → x.Calm → x.Plain →
    x.reaches inSpad (4 * w) (.store (4 * w)) .write (x.memLanes (anyVec [f.d, f.a, f.b])) f ts → (∀ e ∈ ts, e.2.ty ≠ 5) →
    ∃ y : Ex, exec i s = .next y.s ∧ x.Becomes y ∧ y.sp = x.on.settled ∧ y.g = { x.g with splits := y.g.splits }
      ∧ (∀ e, e ≠ x.sp.entry → y.g.split? e = x.g.split? e)
      ∧ y.s = { x.s with counters := y.s.counters, freeCtr := y.s.freeCtr, groups := Tab.put x.s.groups x.gid y.g, mem := y.s.mem,
                         tlb := y.s.tlb, stamps := y.s.stamps, users := y.s.users, poison := y.s.poison, rels := y.s.rels }
      ∧ (∀ a, ¬ touched ts (4 * w) a → ¬ walked ts a → Memory.read y.s.mem a = Memory.read x.s.mem a)
      ∧ (∀ e ∈ ts, ∀ j < w, ∀ k < 4, ¬ touched (ts.filter (fun g => decide (e.1 < g.1))) (4 * w) (e.2.loc + 4 * j + k) →
          ¬ walked ts (e.2.loc + 4 * j + k) →
          Memory.read y.s.mem (e.2.loc + 4 * j + k) = BitVec.ofNat 8 ((x.rd (opPlus f.d j) e.1).toNat / 256 ^ k))

/-- O29. A 32-bit global store issued by a party at rest whose one lane reaches a page of hub registers completes: it writes the
register at that offset as the write of the register does, and moves the PC on by 4; no memory is written but the accessed and
dirty bits of the entries walked. -/
def Obligations.StoresToHubRegisters : Prop :=
  ∀ (f : RForm) (s : State) (x : Ex) (l : Nat) (t : Target), x.Issues (.stg32 f) s → x.Calm →
    x.reaches false 4 (.store 4) .write (x.memLanes (anyVec [f.d, f.a, f.b])) f [(l, t)] → t.ty = 5 →
    ∃ y : Ex, x.Becomes y ∧ y.sp = { x.sp with pc := x.sp.pc + 4 } ∧ y.g = { x.g with splits := y.g.splits }
      ∧ y.s = { x.s with counters := y.s.counters, freeCtr := y.s.freeCtr, groups := Tab.put x.s.groups x.gid y.g, mem := y.s.mem,
                         tlb := y.s.tlb }
      ∧ (∀ a, ¬ walked [(l, t)] a → Memory.read y.s.mem a = Memory.read x.s.mem a)
      ∧ exec (.stg32 f) s = .next (x.finish (.stg32 f) (y.s.hubWrite (t.loc - 5 * 2 ^ 72) (x.rd f.d l)))

/-- O30. An atomic of a use other than com and qnt, and no spc cas, issued by a party at rest, none of whose lanes traps, waits or
reads poison, with no combining update pending and room in its counters for its releases (one, or for spc one for each fence
before it), completes: in ascending order each lane reads its word and writes the operation's result; the destination takes the
words read, nothing under nw; the latches are stale; every other byte reads as before but the accessed and dirty bits of the
entries walked; no other register, flag or generator changes; only an acquire use changes the party's vectors; besides these
only cached entries, stamps, the users of objects, poison marks, releases, epochs, core counts, the count of free values and the
performance counters change. -/
def Obligations.AtomicsReadAndWriteOnce : Prop :=
  ∀ (i : Instr) (s : State) (x : Ex) (use : AtmUse) (op : AtmOp) (f : RForm) (ts : List (Nat × Target)),
    atmForm? i = some (use, op, f) → use ≠ .com → use ≠ .qnt → (use = .spc → op ≠ .cas) → x.Issues i s → x.Calm → x.Plain → x.Room (if use = .spc then x.g.fences.length else 1) →
    x.lookAll ⟨false, 4, .atomic, .atomic, use.acquires || use.releases⟩ (x.memLanes f.d.isVreg) (x.addrAt f) = .all ts →
    x.s.poisonLanes ts 4 = 0 → apart ts → (∀ e ∈ ts, e.2.ty ≠ 5) →
    ∃ y : Ex, exec i s = .next y.s ∧ x.Becomes y ∧ x.StepsOn y ∧ (∀ t ∈ y.sp.latches, t.stale = true)
      ∧ y.g.fpx = x.g.fpx ∧ y.g.rngs = x.g.rngs ∧ (use.acquires = false → y.g.vecs = x.g.vecs)
      ∧ (∀ e ∈ ts, y.s.word32 e.2.loc = x.atmFold use op f ts e.2.loc)
      ∧ (∀ a, ¬ touched ts 4 a → ¬ walked ts a → Memory.read y.s.mem a = Memory.read x.s.mem a)
      ∧ (f.nw = false → ∀ e ∈ ts, y.rd f.d e.1 = word (x.atmFold use op f (ts.takeWhile (fun g => g.1 != e.1)) e.2.loc))
      ∧ (∀ o l, (f.nw = true ∨ o ≠ f.d) → (∀ n, o ≠ .latch n) → y.rd o l = x.rd o l)
      ∧ y.s = { x.s with counters := y.s.counters, freeCtr := y.s.freeCtr, groups := Tab.put x.s.groups x.gid y.g, mem := y.s.mem,
                         tlb := y.s.tlb, stamps := y.s.stamps, users := y.s.users, poison := y.s.poison, rels := y.s.rels,
                         epochs := y.s.epochs, slotRel := y.s.slotRel, clusters := y.s.clusters }

/-- O31. An ATM.com issued by a party at rest, none of whose lanes traps or waits, completes: its updates join those on their way,
in lane order, and no register changes. An ATM.qnt, with no combining update pending before it, completes: its updates join the
cluster's buffers, and each lane's destination takes the word combined with the earlier lanes' updates there; that it does not
count the lane's own update in is the model's choice (log 138). In both, every byte of memory reads as before but the accessed
and dirty bits of the entries walked, and the latches are stale. -/
def Obligations.CombiningAtomicsWait : Prop :=
  ∀ (op : AtmOp) (f : RForm) (s : State) (x : Ex) (ts : List (Nat × Target)), x.Calm →
    (x.Issues (.atmCom op f) s →
      x.lookAll ⟨false, 4, .atomic, .combining, false⟩ (x.memLanes (anyVec [f.a, f.b])) (x.pair f.a) = .all ts →
      ∃ y : Ex, exec (.atmCom op f) s = .next y.s ∧ x.Becomes y ∧ x.StepsOn y ∧ (∀ t ∈ y.sp.latches, t.stale = true)
        ∧ y.g = { x.g with splits := y.g.splits }
        ∧ y.s.coms = x.s.coms ++ ts.map (fun e =>
            ⟨.core x.gid, e.2.loc, op, field x.mode 8 4, field x.mode 11 9, x.rd f.b e.1⟩)
        ∧ (∀ a, ¬ walked ts a → Memory.read y.s.mem a = Memory.read x.s.mem a))
    ∧ (x.Issues (.atmQnt op f) s → x.Plain → op ≠ .cas →
      x.lookAll ⟨false, 4, .atomic, .combining, false⟩ (x.memLanes f.d.isVreg) (x.addrAt f) = .all ts →
      x.s.poisonLanes ts 4 = 0 → apart ts →
      ∃ y : Ex, exec (.atmQnt op f) s = .next y.s ∧ x.Becomes y ∧ x.StepsOn y ∧ (∀ t ∈ y.sp.latches, t.stale = true)
        ∧ (f.nw = false → ∀ e ∈ ts, y.rd f.d e.1 = word (x.atmFold .qnt op f (ts.takeWhile (fun g => g.1 != e.1)) e.2.loc))
        ∧ (∀ o l, (f.nw = true ∨ o ≠ f.d) → (∀ n, o ≠ .latch n) → y.rd o l = x.rd o l)
        ∧ (∀ e ∈ ts, (y.s.cluster x.cluster).qnt.find? (fun b => b.loc == e.2.loc) = some ⟨e.2.loc,
            (ts.filter (fun g => g.2.loc == e.2.loc)).map (fun g =>
              ⟨.core x.gid, g.2.loc, op, field x.mode 8 4, field x.mode 11 9, (x.atmArgs .qnt op f g.1).1⟩)⟩)
        ∧ (∀ a, ¬ walked ts a → Memory.read y.s.mem a = Memory.read x.s.mem a))

/-- O32. An ATM.cas.spc whose one lane neither traps, waits nor reads poison, issued by a party at rest with no combining update
pending and room in its counters for a release for each fence before it, completes: d takes the word read; the word stays as it
was unless it equals the compare value, and then either stays or becomes the new one, by a free choice; every other byte of
memory reads as before but the accessed and dirty bits of the entries walked; no other register, flag or generator changes. -/
def Obligations.SpcCasMayFail : Prop :=
  ∀ (f : RForm) (s : State) (x : Ex) (l : Nat) (t : Target), x.Issues (.atmSpc .cas f) s → x.Calm → x.Plain → x.Room x.g.fences.length →
    x.lookAll ⟨false, 4, .atomic, .atomic, false⟩ (x.memLanes f.d.isVreg) (x.addrAt f) = .all [(l, t)] →
    x.s.poisonLanes [(l, t)] 4 = 0 → apart [(l, t)] → t.ty ≠ 5 →
    ∃ y : Ex, exec (.atmSpc .cas f) s = .next y.s ∧ x.Becomes y ∧ x.StepsOn y ∧ (∀ q ∈ y.sp.latches, q.stale = true)
      ∧ (f.nw = false → y.rd f.d l = word (x.s.word32 t.loc))
      ∧ (x.s.word32 t.loc ≠ (x.rd f.d l).toNat → y.s.word32 t.loc = x.s.word32 t.loc)
      ∧ (y.s.word32 t.loc = x.s.word32 t.loc ∨ y.s.word32 t.loc = (x.rd (opPlus f.d 1) l).toNat)
      ∧ y.g.fpx = x.g.fpx ∧ y.g.rngs = x.g.rngs ∧ (∀ o k, (f.nw = true ∨ o ≠ f.d) → (∀ n, o ≠ .latch n) → y.rd o k = x.rd o k)
      ∧ (∀ a, ¬ touched [(l, t)] 4 a → ¬ walked [(l, t)] a → Memory.read y.s.mem a = Memory.read x.s.mem a)

/-- O33. FENCE.acq, FENCE.rel and FENCE.ar with a true guard, issued by a party at rest with no combining update pending and no
counter full, complete: FENCE.acq merges the releases that the party's spc reads have seen into its vectors; FENCE.rel makes a
release at MODE.scope that later spc writes carry, and raises the epoch of the party's slot by 1; FENCE.ar does both. That the
epoch rises at the fence, by R183 and R198, and once more at the spc write that carries the fence's release, is the model's
choice (log 48). FLUSHQ with a true guard leaves no update in the buffers of the cluster. The latches are stale, the PC moves on
by 4 and no register changes; the fences write no memory. -/
def Obligations.FencesOrder : Prop :=
  ∀ (f : RForm) (s : State) (x : Ex), x.Calm → x.go = true →
    (x.Issues (.fenceAcq f) s → ∃ y : Ex, exec (.fenceAcq f) s = .next y.s ∧
      x.Turns y { x.g with vecs := acquireAll { x.g.vecs with home := x.cluster } (.core x.gid) x.teamId x.scope x.g.seen }
        { x.sp with pc := x.sp.pc + 4 }.stale)
    ∧ (x.Issues (.fenceRel f) s → x.Plain → x.Counts → ∃ y : Ex, exec (.fenceRel f) s = .next y.s ∧ x.Becomes y
        ∧ y.sp = x.on.settled.stale
        ∧ y.g = { x.g with splits := y.g.splits, fences := x.g.fences.filter (fun q => q.scope != x.scope) ++
            [⟨.core x.gid, x.scope, x.teamId, Machine.publish x.s x.gid x.scope x.g.vecs⟩] }
        ∧ y.s.epochOf x.gid = x.s.epochOf x.gid + 1 ∧ y.s.mem = x.s.mem)
    ∧ (x.Issues (.fenceAr f) s → x.Plain → x.Counts → ∃ y : Ex, exec (.fenceAr f) s = .next y.s ∧ x.Becomes y
        ∧ y.sp = x.on.settled.stale
        ∧ y.g.vecs = acquireAll { x.g.vecs with home := x.cluster } (.core x.gid) x.teamId x.scope x.g.seen
        ∧ y.g.v = x.g.v ∧ y.g.s = x.g.s ∧ y.s.epochOf x.gid = x.s.epochOf x.gid + 1 ∧ y.s.mem = x.s.mem)
    ∧ (x.Issues (.flushq f) s → ∃ y : Ex, exec (.flushq f) s = .next y.s ∧ x.Becomes y
        ∧ y.sp = x.on.settled.stale ∧ y.g = { x.g with splits := y.g.splits }
        ∧ (y.s.cluster x.cluster).qnt = [])

/-- O34. BARI with a true guard at a barrier it may set, of a count in 1 to 2^24 - 1, writes the count, the partition and the valid
bit, no arrival and generation 0, marks the barrier valid and its granule sync-typed. BARA with a true guard, with no combining
update pending and no counter full, counts one arrival, or, as the last that is expected, sets the arrivals to 0 and raises the
generation by 1; a scalar d takes the generation that it found. Both complete with stale latches and the PC moved on; no other
byte of memory changes but the accessed and dirty bits of the entries of the object's page. -/
def Obligations.BarriersCountArrivals : Prop :=
  ∀ (f : RForm) (s : State) (x : Ex) (loc : Nat), x.Calm → x.go = true →
    x.s.object x.walker x.allot (x.syncWord f.a) 32 32 false = .at loc →
    (x.Issues (.bari f) s → 1 ≤ (x.rdU f.b).toNat → (x.rdU f.b).toNat ≤ 0xFFFFFF →
      (Tab.find x.s.bars loc = none ∨ (Tab.find x.s.bars loc = some x.part ∧ x.s.barArrived loc = 0)) →
      ∃ y : Ex, exec (.bari f) s = .next y.s ∧ x.Becomes y ∧ y.sp = x.on.settled.stale
        ∧ y.g = { x.g with splits := y.g.splits }
        ∧ y.s.word32 loc = (x.rdU f.b).toNat + x.part % 16 * 2 ^ 24 + 2 ^ 31 ∧ y.s.word32 (loc + 4) = 0 ∧ y.s.barGen loc = 0
        ∧ Tab.find y.s.bars loc = some x.part ∧ loc / 32 ∈ y.s.sync
        ∧ (∀ a, a < loc ∨ loc + 32 ≤ a → Memory.read y.s.mem a = Memory.read (x.touchObject f.a true).s.mem a))
    ∧ (x.Issues (.bara f) s → x.Plain → x.Counts → Tab.find x.s.bars loc = some x.part →
      ∃ y : Ex, exec (.bara f) s = .next y.s ∧ x.Becomes y ∧ x.OnlyRegs y ∧ x.StepsOn y ∧ (∀ t ∈ y.sp.latches, t.stale = true)
        ∧ (f.nw = false → f.d.isSreg = true → y.rdU f.d = word (x.s.barGen loc))
        ∧ (∀ o l, (f.nw = true ∨ o ≠ f.d) → (∀ n, o ≠ .latch n) → y.rd o l = x.rd o l)
        ∧ ((x.touchObject f.a true).s.barArrived loc + 1 ≠ (x.touchObject f.a true).s.barExpected loc →
            y.s.word32 (loc + 4) = (x.touchObject f.a true).s.barArrived loc + 1
            ∧ ∀ a, a < loc + 4 ∨ loc + 8 ≤ a → Memory.read y.s.mem a = Memory.read (x.touchObject f.a true).s.mem a)
        ∧ ((x.touchObject f.a true).s.barArrived loc + 1 = (x.touchObject f.a true).s.barExpected loc →
            y.s.word32 (loc + 4) = 0 ∧ y.s.barGen loc = (x.s.barGen loc + 1) % 2 ^ 32
            ∧ ∀ a, a < loc + 4 ∨ loc + 12 ≤ a → Memory.read y.s.mem a = Memory.read (x.touchObject f.a true).s.mem a))

/-- O35. BARW with a true guard of a complete ticket goes on with stale latches, having acquired the arrivals of that generation at
MODE.scope; of a ticket that is not complete it waits. BARAW with a true guard first counts its arrival, as BARA does: as the
last that is expected it completes the generation and goes on, and otherwise it waits with the generation that it found as its
ticket; one that has arrived already does as BARW with the ticket it holds. TBAR of a group that has arrived goes on once the
team barrier has passed its ticket, having acquired the arrivals at team scope; one that has not arrived waits with the
barrier's generation as its ticket. None writes a register, nor memory but the barrier's words at an arrival and the marks on
the entries of the object's page. -/
def Obligations.BarrierWaitsEnd : Prop :=
  (∀ (f : RForm) (s : State) (x : Ex) (loc : Nat), x.Issues (.barw f) s → x.Calm → x.go = true →
    x.s.object x.walker x.allot (x.syncWord f.a) 32 32 false = .at loc → Tab.find x.s.bars loc = some x.part →
    (x.s.barDone loc (x.rdU f.b).toNat = true → (x.touchObject f.a false).s.barGen loc = x.s.barGen loc →
      ∃ y : Ex, exec (.barw f) s = .next y.s ∧ x.Becomes y
        ∧ y.sp = x.past.settled.stale
        ∧ y.g = { x.g with
            splits := y.g.splits
            vecs := acquireAll { x.g.vecs with home := x.cluster } (.core x.gid) x.teamId x.scope (x.s.relsAt (barKey loc (x.rdU f.b).toNat)) }
        ∧ y.s.mem = (x.touchObject f.a false).s.mem)
    ∧ (x.s.barDone loc (x.rdU f.b).toNat = false → (x.touchObject f.a false).s.barGen loc = x.s.barGen loc →
      ∃ y : Ex, exec (.barw f) s = .next y.s ∧ x.Becomes y ∧ y.g = { x.g with splits := y.g.splits }
        ∧ y.sp = x.waiting (.bar loc (word (x.rdU f.b).toNat))
        ∧ y.s.mem = (x.touchObject f.a false).s.mem))
  ∧ (∀ (f : RForm) (s : State) (x : Ex) (loc : Nat) (t : Word), x.Issues (.baraw f) s → x.Calm → x.sp.ticket = some t →
    x.s.object x.walker x.allot (x.syncWord f.a) 32 32 false = .at loc → Tab.find x.s.bars loc = some x.part →
    (x.s.barDone loc t.toNat = true → ∃ y : Ex, exec (.baraw f) s = .next y.s ∧
      x.Turns y { x.g with vecs := acquireAll { x.g.vecs with home := x.cluster } (.core x.gid) x.teamId x.scope (x.s.relsAt (barKey loc t.toNat)) }
        { x.sp with pc := x.sp.pc + 4, wait := none, count := 0, ticket := none }.stale)
    ∧ (x.s.barDone loc t.toNat = false → ∃ y : Ex, exec (.baraw f) s = .next y.s ∧
      x.Turns y x.g (x.waiting (.bar loc t))))
  ∧ (∀ (f : RForm) (s : State) (x : Ex) (loc : Nat), x.Issues (.baraw f) s → x.Calm → x.Plain → x.Counts → x.go = true → x.sp.ticket = none →
    x.s.object x.walker x.allot (x.syncWord f.a) 32 32 false = .at loc → Tab.find x.s.bars loc = some x.part →
    (x.touchObject f.a true).s.barGen loc = x.s.barGen loc →
    (let m := (x.touchObject f.a true).s
     let t := x.s.barGen loc
     (m.barArrived loc + 1 ≠ m.barExpected loc → ∃ y : Ex, exec (.baraw f) s = .next y.s ∧ x.Becomes y ∧ y.g = { x.g with splits := y.g.splits }
        ∧ y.sp = { x.waiting (.bar loc (word t)) with ticket := some (word t) }
        ∧ y.s.word32 (loc + 4) = m.barArrived loc + 1 ∧ y.s.barGen loc = t
        ∧ ∀ a, a < loc + 4 ∨ loc + 8 ≤ a → Memory.read y.s.mem a = Memory.read m.mem a)
     ∧ (m.barArrived loc + 1 = m.barExpected loc → ∃ (y : Ex) (r : Release), exec (.baraw f) s = .next y.s ∧ x.Becomes y
        ∧ y.sp = x.past.settled.stale ∧ r.party = .core x.gid ∧ r.scope = x.scope ∧ r.team = x.teamId
        ∧ y.g = { x.g with
            splits := y.g.splits
            vecs := acquireAll { x.g.vecs with home := x.cluster } (.core x.gid) x.teamId x.scope (r :: x.s.relsAt (barKey loc t)) }
        ∧ y.s.word32 (loc + 4) = 0 ∧ y.s.barGen loc = (t + 1) % 2 ^ 32
        ∧ ∀ a, a < loc + 4 ∨ loc + 12 ≤ a → Memory.read y.s.mem a = Memory.read m.mem a)))
  ∧ (∀ (f : RForm) (s : State) (x : Ex), x.Issues (.tbar f) s → x.Calm → x.g.mcc = false →
    (∀ t : Word, x.sp.ticket = some t → t.toNat < x.team.barGen → ∃ y : Ex, exec (.tbar f) s = .next y.s ∧
      x.Turns y { x.g with vecs := acquireAll { x.g.vecs with home := x.cluster } (.core x.gid) x.teamId 0 (x.s.relsAt (tbarKey x.teamId t.toNat)) }
        { x.sp with pc := x.sp.pc + 4, wait := none, count := 0, ticket := none }.stale)
    ∧ (x.sp.ticket = none → x.go = true → (∃ p ∈ x.g.splits, p.entry ≠ x.sp.entry ∧ p.wait = none) →
      ∃ y : Ex, exec (.tbar f) s = .next y.s ∧ x.Turns y x.g
        { x.waiting (.tbar x.team.barGen) with ticket := some (word x.team.barGen) }))

/-- O36. A TBAR with a true guard by the only split of a group, every other group of whose team has arrived, with no combining
update pending and no counter full, begins its wait, arrives with a release at team scope, and completes the generation: the
team barrier's generation rises by 1 and no group is left arrived. -/
def Obligations.LastGroupCompletesTheTeamBarrier : Prop :=
  ∀ (f : RForm) (s : State) (x : Ex), x.Issues (.tbar f) s → x.Calm → x.Plain → x.Counts → x.g.mcc = false → x.sp.ticket = none →
    x.go = true → x.g.splits = [x.sp] → x.g.grp ∉ x.team.arrived → (Tab.find x.s.teams x.teamId).isSome = true →
    (∀ e ∈ x.s.members x.g.gang x.g.team, e.2.grp = x.g.grp ∨ e.2.grp ∈ x.team.arrived) →
    ∃ t, exec (.tbar f) s = .next t ∧ (t.team x.teamId).barGen = x.team.barGen + 1 ∧ (t.team x.teamId).arrived = []
      ∧ t.epochOf x.gid = x.s.epochOf x.gid + 1

/-- O37. A claim is refused while claimed - released is the window; otherwise it gives index claimed, raises claimed by 1 and makes
the index CLAIMED, leaving every byte outside the header's claimed word and slot states. A fill of a CLAIMED index of a tray
without HOLD makes it FILLED. An index may be released only if it is not behind released and is FILLED, or under HOLD OPEN or
VETOED. Writing the state of an index from released to claimed gives it that state, and no index of another place changes. -/
def Obligations.TraySlotsMove : Prop :=
  ∀ (s : State) (h : Nat),
    (sub32 (s.trClaimed h) (s.trReleased h) < s.trWindow h →
      ∃ t, s.claim h = some (s.trClaimed h, t) ∧ t.trClaimed h = (s.trClaimed h + 1) % 2 ^ 32 ∧ t.trReleased h = s.trReleased h
        ∧ t.trFilled h = s.trFilled h ∧ (s.trWindow h ≤ 64 → t.trState h (s.trClaimed h) = slotClaimed)
        ∧ ∀ a, ¬ (h + 8 ≤ a ∧ a < h + 12) → ¬ (h + 0x28 ≤ a ∧ a < h + 0x40) → Memory.read t.mem a = Memory.read s.mem a)
    ∧ (s.trWindow h ≤ sub32 (s.trClaimed h) (s.trReleased h) → s.claim h = none)
    ∧ (∀ i c r, s.trState h i = slotClaimed → s.trHold h = false → (s.fillSlot h i c r).trState h i = slotFilled)
    ∧ (∀ i, s.canRelease h i = true → s.trBehind h i = false ∧
        (if s.trHold h then s.trState h i = slotOpen ∨ s.trState h i = slotVetoed else s.trState h i = slotFilled))
    ∧ (∀ i code j, j % 64 ≠ i % 64 → code < 8 → (s.setTrState h i code).trState h j = s.trState h j)
    ∧ (∀ i code, code < 8 → s.trBelow h i (s.trClaimed h) = true → (s.setTrState h i code).trState h i = code)

/-- O38. With a true guard, at a tray that the party may use, MODE.scope being high enough for the slot of the index: TRC with room
claims an index for d, and waits without room; TRF fills a CLAIMED index as a release at MODE.scope; TRW of an index whose wait
is over gives d its code; TRR releases an index that may be; TRO and TRV decide a HELD index and resolve; TRQ of a selector
below 8 gives d a header word, of 8 it lets the team's parked commands at the tray go on, of 9 it abandons them, their claimed
indices filled, and d is their number; of a greater one it traps with TRAY_STATE. Each else completes: latches stale, PC moved
on, and no register but a d of TRC, TRW and TRQ changes. -/
def Obligations.TrayInstructionsAct : Prop :=
  ∀ (f : RForm) (s : State) (x : Ex) (h : Nat), x.Calm → x.go = true → x.s.trayOk h x.part = true →
    let lies := fun (view : Bool) => x.s.object x.walker x.allot (x.syncWord f.a) 64 64 view = .at h
    (x.Issues (.trc f) s → lies false → x.reportAt h = none → (x.s.trHold h = true → x.s.trOwner h = x.part) →
      (∀ i t, x.s.claim h = some (i, t) → x.slotLow h i = false → ∃ y : Ex, exec (.trc f) s = .next y.s ∧ x.Becomes y
        ∧ y.sp = x.past.settled.stale
        ∧ (f.nw = false → f.d.isSreg = true → y.rdU f.d = word i)
        ∧ (∀ o l, (f.nw = true ∨ o ≠ f.d) → (∀ n, o ≠ .latch n) → y.rd o l = x.rd o l)
        ∧ y.s.mem = (({ x with s := t } : Ex).touchObject f.a true).s.mem)
      ∧ (x.s.claim h = none → ∃ y : Ex, exec (.trc f) s = .next y.s ∧
          x.Turns y x.g (x.waiting (.claim h))))
    ∧ (x.Issues (.trf f) s → lies false → x.Plain → x.Counts → x.s.trState h (x.rdU f.b).toNat = slotClaimed →
        x.slotLow h (x.rdU f.b).toNat = false → ∃ y : Ex, exec (.trf f) s = .next y.s ∧ x.Becomes y ∧ y.sp = x.on.settled.stale
          ∧ y.g = { x.g with splits := y.g.splits }
          ∧ y.s.mem = (((x.touchObject f.a true).release x.scope).1.s.fillSlot h (x.rdU f.b).toNat x.cluster
              ((x.touchObject f.a true).release x.scope).2).mem)
    ∧ (x.Issues (.trw f) s → lies true → x.reportAt h = none → (bit (x.syncWord f.a) 1 = true → x.s.trHold h = true ∧ x.s.trHolder h = x.part) →
        (x.s.waitDone h (x.rdU f.b).toNat (bit (x.syncWord f.a) 1) = true →
          (x.s.trBehind h (x.rdU f.b).toNat = true ∨ x.slotLow h (x.rdU f.b).toNat = false) →
          ∃ y : Ex, exec (.trw f) s = .next y.s ∧ x.Becomes y
            ∧ y.sp = x.past.settled.stale
            ∧ (f.nw = false → f.d.isSreg = true → y.rdU f.d = word (x.s.waitCode h (x.rdU f.b).toNat))
            ∧ (∀ o l, (f.nw = true ∨ o ≠ f.d) → (∀ n, o ≠ .latch n) → y.rd o l = x.rd o l)
            ∧ y.s.mem = (x.touchObject f.a false).s.mem)
        ∧ (x.s.waitDone h (x.rdU f.b).toNat (bit (x.syncWord f.a) 1) = false →
            (x.s.trBehind h (x.rdU f.b).toNat = true ∨ x.slotLow h (x.rdU f.b).toNat = false) → ∃ y : Ex, exec (.trw f) s = .next y.s ∧
            x.Turns y x.g (x.waiting (.fill h (word (x.rdU f.b).toNat) (bit (x.syncWord f.a) 1)))))
    ∧ (x.Issues (.trr f) s → lies false → x.Plain → x.Counts → x.s.canRelease h (x.rdU f.b).toNat = true → x.s.egressOn h = false →
        x.slotLow h (x.rdU f.b).toNat = false → ∃ y : Ex, exec (.trr f) s = .next y.s ∧ x.Becomes y ∧ y.sp = x.on.settled.stale
          ∧ y.g = { x.g with splits := y.g.splits }
          ∧ y.s.mem = (((x.touchObject f.a true).release x.scope).1.s.releaseSlot h (x.rdU f.b).toNat
              ((x.touchObject f.a true).release x.scope).2).mem)
    ∧ (x.s.trHold h = true → x.s.trHolder h = x.part → x.s.trBelow h (x.rdU f.b).toNat (x.s.trFilled h) = true →
        x.s.trState h (x.rdU f.b).toNat = slotHeld → x.slotLow h (x.rdU f.b).toNat = false →
        (x.Issues (.tro f) s → lies false → ∃ y : Ex, exec (.tro f) s = .next y.s ∧ x.Becomes y ∧ y.sp = x.on.settled.stale
          ∧ y.g = { x.g with splits := y.g.splits }
          ∧ y.s.mem = (resolveTray h 65 ((x.touchObject f.a true).s.setTrState h (x.rdU f.b).toNat slotHeldOpen)).mem)
        ∧ (x.Issues (.trv f) s → lies false → ∃ y : Ex, exec (.trv f) s = .next y.s ∧ x.Becomes y ∧ y.sp = x.on.settled.stale
          ∧ y.g = { x.g with splits := y.g.splits }
          ∧ y.s.mem = (resolveTray h 65 ((x.touchObject f.a true).s.setTrState h (x.rdU f.b).toNat slotHeldVeto)).mem))
    ∧ (x.Issues (.trq f) s → lies false → (x.rdU f.b).toNat < 8 → ∃ y : Ex, exec (.trq f) s = .next y.s ∧ x.Becomes y
          ∧ y.sp = x.on.settled.stale
          ∧ (f.nw = false → f.d.isSreg = true → y.rdU f.d = word (x.s.hdr h (trqOffset (x.rdU f.b).toNat)))
          ∧ (∀ o l, (f.nw = true ∨ o ≠ f.d) → (∀ n, o ≠ .latch n) → y.rd o l = x.rd o l)
          ∧ y.s.mem = (x.touchObject f.a false).s.mem)
    ∧ (x.Issues (.trq f) s → lies false → (x.s.engines.map (·.1)).Nodup →
        (∀ k, ((x.s.engine k).lists.map (fun l => (l.serial, l.ctx))).Nodup ∧ ((x.s.engine k).copies.map (fun c => (c.serial, c.ctx))).Nodup) →
        (let at_ := fun (k gang team ctx tray : Nat) (p : Option Park) =>
           p.isSome && gang == x.g.gang && team == x.g.team && x.s.trayLoc k ctx x.g.gang x.g.team tray == some h
         let js := x.s.parkedAt x.g.gang x.g.team h
         let gone := js.foldl (fun (s : State) e => match e.2 with | .list l => s.abandonList e.1 l | .copy c => s.abandonCopy e.1 c) x.s
         ((x.rdU f.b).toNat = 8 → ∃ y : Ex, exec (.trq f) s = .next y.s
            ∧ x.ActsInto y { x.s with engines := y.s.engines } x.on f.nw f.d (word js.length) ∧ (∀ t ∈ y.sp.latches, t.stale = true)
            ∧ ∀ k, (y.s.engine k).lists = (x.s.engine k).lists.map (fun l =>
                  if at_ k l.gang l.team l.ctx l.tray l.park then { l with park := none } else l)
              ∧ (y.s.engine k).copies = (x.s.engine k).copies.map (fun c =>
                  if at_ k c.gang c.team c.ctx c.tray c.park then { c with park := none } else c))
         ∧ ((x.rdU f.b).toNat = 9 → gone.checked = false → ∃ y : Ex, exec (.trq f) s = .next y.s
            ∧ x.ActsInto y gone x.on f.nw f.d (word js.length) ∧ (∀ t ∈ y.sp.latches, t.stale = true)
            ∧ ∀ k, (y.s.engine k).lists = (x.s.engine k).lists.filter (fun l => !at_ k l.gang l.team l.ctx l.tray l.park)
              ∧ (y.s.engine k).copies = (x.s.engine k).copies.filter (fun c => !at_ k c.gang c.team c.ctx c.tray c.park))
         ∧ (10 ≤ (x.rdU f.b).toNat → x.User → ∃ y : Ex, exec (.trq f) s = .next y.s ∧ x.Enters y (.of .trayState))))

/-- O39. TRI with a true guard completes at a 64-byte aligned place that is no tray, or a tray that the party may use (R221) with no
claimed slot and no waiter, of a descriptor that obeys R165: in the allotment, if header and slots lie in it and the holder is
the party's own partition; in a sync page, if the pages of the slots are of types 0 to 3 and the holder is the party's own
partition or one for which the party's holds the right. The header then says filled, released, claimed, sequence and resolved 0;
every slot is EMPTY; count, window, slot size, attributes, owner and holder partition and base are those of the descriptor; the
tray is known and its granules sync-typed. No register changes, and no byte of memory outside the header but the marks on the
entries of the header's page. -/
def Obligations.TrayIsInitialised : Prop :=
  ∀ (f : RForm) (s : State) (x : Ex), x.Issues (.tri f) s → x.Calm → x.go = true → bit (x.syncWord f.a) 1 = false →
    let off := x.syncWord f.a / 4 * 4
    off % 64 = 0 →
    let free := fun (h : Nat) => h ∉ x.s.trays ∨ (x.s.trayOk h x.part = true ∧ x.s.trClaimed h = x.s.trReleased h ∧ x.s.trayAwaited h = false)
    (∀ t : Allot, bit (x.syncWord f.a) 0 = true → x.syncWord f.a < 2 ^ 32 → x.allot = some t → off + 64 ≤ t.rows * 2048 → free (t.loc off) →
      let d := trayDesc (x.run4 f.b) true
      d.ok = true → d.base + d.span ≤ t.rows * 2048 → d.holder = x.part →
      ∃ y : Ex, exec (.tri f) s = .next y.s ∧ x.Becomes y ∧ y.sp = x.on.settled.stale ∧ y.g = { x.g with splits := y.g.splits }
        ∧ y.s.NewTray (t.loc off) d true x.part
        ∧ ∀ a, a < t.loc off ∨ t.loc off + 64 ≤ a → Memory.read y.s.mem a = Memory.read x.s.mem a)
    ∧ (∀ t : Target, bit (x.syncWord f.a) 0 = false → x.s.translate x.walker .probe off 4 = .ok t → t.ty = 6 → free t.loc →
      let d := trayDesc (x.run4 f.b) false
      d.ok = true → (d.holder = x.part ∨ x.s.holds x.part d.holder = true) → x.slotFailure d = none →
      ∃ y : Ex, exec (.tri f) s = .next y.s ∧ x.Becomes y ∧ y.sp = x.on.settled.stale ∧ y.g = { x.g with splits := y.g.splits }
        ∧ y.s.NewTray t.loc d false x.part ∧ (d.checked = true → (t.loc, x.ctxId) ∈ y.s.checkedAreas)
        ∧ ∀ a, a < t.loc ∨ t.loc + 64 ≤ a → Memory.read y.s.mem a = Memory.read (x.touchObject f.a true).s.mem a)

/-- O40. MSHAPE with a true guard, with m = rd(a): traps with MATRIX_SHAPE where m[31:4] is not 0 or m[3:0] is 0; else traps with
BAND_DOWN where m[3:0] has a band that is not in MSTAT.live; else it writes m[3:0] to MSHP, moves on, and changes nothing else
but the counters: the operations already queued are as they were. 0x70002080 is MSHAPE s1, and a mask of 3 selects columns 0 to
255. -/
def Obligations.MshapeWritesTheMask : Prop :=
  (∀ (f : RForm) (s : State) (x : Ex), x.Issues (.mshape f) s → x.Calm → x.go = true →
    ((x.rdU f.a).toNat / 16 ≠ 0 ∨ (x.rdU f.a).toNat % 16 = 0 → x.User →
      ∃ y : Ex, exec (.mshape f) s = .next y.s ∧ x.Enters y (.of .matrixShape))
    ∧ ((x.rdU f.a).toNat / 16 = 0 → (x.rdU f.a).toNat % 16 ≠ 0 →
        (∃ b < 4, bit (x.rdU f.a).toNat b = true ∧ bit (x.s.liveBands x.cluster) b = false) → x.User →
      ∃ y : Ex, exec (.mshape f) s = .next y.s ∧ x.Enters y (.of .bandDown))
    ∧ ((x.rdU f.a).toNat / 16 = 0 → (x.rdU f.a).toNat % 16 ≠ 0 →
        (∀ b < 4, bit (x.rdU f.a).toNat b = true → bit (x.s.liveBands x.cluster) b = true) →
      ∃ y : Ex, exec (.mshape f) s = .next y.s ∧
        x.Acts y { x.s with mccs := Tab.put x.s.mccs x.cluster { x.mcc with mshp := (x.rdU f.a).toNat } } x.g x.on))
  ∧ decode 0x70002080 = .mshape { nw := false, d := .vreg 0, a := .sreg 1, b := .vreg 0 }
  ∧ ∀ n < 512, bit 3 (n / 128) = decide (n < 256)

/-- O41. With a true guard on the MCC, with no combining update pending: MSCL writes the drain scale. MWL, MSTR, MDRN, MCLR and
MSWAP that pass the checks at issue put an operation, with the mask, the scale and the scope of the moment, at the end of a
queue that has room, and count it; on a full queue they wait. MWAIT of n below 8 goes on when none but the n last operations is
outstanding, and waits otherwise; of 8 or more it goes on at once. Nothing else changes, but that an MWAIT that goes on acquires
what its operations wrote, for which its vectors may rise (the model's choice, log 55). -/
def Obligations.MatrixInstructionsQueueTheirWork : Prop :=
  ∀ (f : RForm) (s : State) (x : Ex), x.Calm → x.Plain → x.go = true →
    (let put := fun (m : Mcc) => ({ x.s with mccs := Tab.put x.s.mccs x.cluster m } : State)
     let r := x.run4 f.a
     let b := (x.rdU f.b).toNat
     let queues := fun (i : Instr) (kind tile count first rps : Nat) (tensor : List Word) (tray : Option Nat) =>
       x.Issues i s →
       (x.mcc.queue.length < 8 → ∃ (y : Ex) (q : QOp), exec i s = .next y.s
          ∧ x.Acts y (put { x.mcc with queue := x.mcc.queue ++ [q], issued := x.mcc.issued + 1 }) x.g x.past
          ∧ q.kind = kind ∧ q.tile = tile ∧ q.count = count ∧ q.first = first ∧ q.rps = rps ∧ q.tensor = tensor ∧ q.tray = tray
          ∧ q.mask = x.mcc.mshp ∧ q.scale = x.mcc.dscale ∧ q.scope = x.scope ∧ q.started = false ∧ q.cursor = 0
          ∧ q.site = x.sp.pc ∧ q.seq = x.mcc.issued + 1 ∧ q.vecs = x.given)
       ∧ (8 ≤ x.mcc.queue.length → ∃ y : Ex, exec i s = .next y.s ∧ x.Turns y x.g (x.waiting .place))
     (x.Issues (.mscl f) s → (x.rdU f.a).toNat < 2 ^ 12 → field (x.rdU f.a).toNat 10 8 ≤ 4 →
        ∃ y : Ex, exec (.mscl f) s = .next y.s ∧ x.Acts y (put { x.mcc with dscale := x.rdU f.a }) x.g x.on)
     ∧ (∀ ws, (r.getD 0 0).toNat < 2 ^ 9 → x.matTensor (field (r.getD 0 0).toNat 7 0) = some ws → (matClass (tensorOf ws).fmt).isSome = true →
          (fmtScaled (tensorOf ws).fmt = true → (r.getD 1 0).toInt % 32 = 0) → queues (.mwl f) 1 0 256 0 1 ws none)
     ∧ queues (.mswap f) 5 0 0 0 1 [] none
     ∧ (bandsIn x.mcc.mshp (x.s.liveBands x.cluster) = true → queues (.mclr f) 4 (tileOf f.d) 128 0 1 [] none)
     ∧ (∀ ws wf, shapeBad false r b (x.tidScaled (field (r.getD 0 0).toNat 7 0)) = false → field b 14 8 + field b 6 0 < 128 →
          x.matTensor (field (r.getD 0 0).toNat 7 0) = some ws → x.mcc.tracked = some wf → (payload2 (tensorOf ws).fmt wf).isSome = true →
          (tensorOf ws).fmt ≠ 6 → bandsIn x.mcc.mshp (x.s.liveBands x.cluster) = true →
          (bit (r.getD 0 0).toNat 8 = true → x.wordFault (runTray r) 64 64 = none) →
          queues (.mstr f) 2 (tileOf f.d) (field b 6 0 + 1) (field b 14 8)
            (if bit (r.getD 0 0).toNat 8 then field (r.getD 1 0).toNat 7 0 + 1 else 1) ws
            (if bit (r.getD 0 0).toNat 8 then some (runTray r) else none))
     ∧ (∀ ws, shapeBad true r b (x.tidScaled (field (r.getD 0 0).toNat 7 0)) = false → field b 14 8 + field b 6 0 < 128 →
          x.matTensor (field (r.getD 0 0).toNat 7 0) = some ws → drainFormat (tensorOf ws).fmt = true →
          (bit (r.getD 0 0).toNat 8 = true → x.wordFault (runTray r) 64 64 = none) →
          queues (.mdrn f) 3 (tileOf f.d) (field b 6 0 + 1) (field b 14 8)
            (if bit (r.getD 0 0).toNat 8 then field (r.getD 1 0).toNat 7 0 + 1 else 1) ws
            (if bit (r.getD 0 0).toNat 8 then some (runTray r) else none))
     ∧ (x.Issues (.mwait f) s → (8 ≤ (x.rdU f.a).toNat ∨ ∀ q ∈ x.mcc.queue, x.mcc.issued < q.seq + (x.rdU f.a).toNat) →
          ∃ y : Ex, exec (.mwait f) s = .next y.s
            ∧ x.Acts y (put { x.mcc with landed := .zero }) { x.g with vecs := y.g.vecs } x.past.stale)
     ∧ (x.Issues (.mwait f) s → (x.rdU f.a).toNat < 8 → (∃ q ∈ x.mcc.queue, q.seq + (x.rdU f.a).toNat ≤ x.mcc.issued) →
          ∃ y : Ex, exec (.mwait f) s = .next y.s ∧ x.Turns y x.g (x.waiting (.mwait (x.rdU f.a).toNat))))

/-- O42. With a true guard in a handler: PFMAP of an address whose level-1 entry alone is missing takes a page of the pool, zeroes
it, writes the leaf of kind 2 with the bits of b, and gives 0; of one for which n tables are missing too it takes n + 1 pages
and gives 0; where the pool is too short it writes nothing and gives 1; at a present entry it gives 2; below a leaf or of an
address that is not canonical 3, and, which is the model's choice (log 110), of a root table outside memory 3 too. Then the n
table pointers and the leaf are written, and no byte of memory changes outside the first of them and the pages taken. TLBI
removes from every TLB the context's entries that cover the range, for a range of 0 pages all of them, and no others. ERRRD
gives a word of the error log, 0 where there is none, and of word 0 marks its entry read. Nothing else changes but the counters,
the pool, and what the device kept of the pages taken. -/
def Obligations.SupervisorInstructionsAct : Prop :=
  ∀ (f : RForm) (s : State) (x : Ex), x.Calm → x.go = true →
    (x.Issues (.pfmap f) s → (x.rdU f.b).toNat < 64 → canonical (x.pair f.a x.lead) = true → x.s.hbmOk x.ctx.root = true →
      (∀ loc, x.s.wayDown (x.pair f.a x.lead) 5 x.ctx.root = .entry loc →
        (natLE (Memory.load x.s.mem loc 8) % 4 = 2 →
          ∃ y : Ex, exec (.pfmap f) s = .next y.s ∧ x.ActsInto y x.s x.on f.nw f.d 2)
        ∧ (natLE (Memory.load x.s.mem loc 8) % 4 ≠ 2 → x.ctx.pool = [] →
          ∃ y : Ex, exec (.pfmap f) s = .next y.s ∧ x.ActsInto y x.s x.on f.nw f.d 1)
        ∧ (natLE (Memory.load x.s.mem loc 8) % 4 ≠ 2 → ∀ p rest, x.ctx.pool = p :: rest →
          ∃ (y : Ex) (m : State), exec (.pfmap f) s = .next y.s ∧ x.ActsInto y m x.on f.nw f.d 0
            ∧ m = { x.s.setCtx x.ctxId { x.ctx with pool := rest } with
                  mem := m.mem, poison := m.poison, stamps := m.stamps, sync := m.sync, trays := m.trays, bars := m.bars,
                  fills := m.fills, proofed := m.proofed, vetoed := m.vetoed, checkedAreas := m.checkedAreas, rels := m.rels }
            ∧ natLE (Memory.load m.mem loc 8)
                = (2 + field (x.rdU f.b).toNat 3 0 * 2 ^ 5 + field (x.rdU f.b).toNat 5 4 * 2 ^ 52 + p) % 2 ^ 64
            ∧ ∀ a, a < loc ∨ loc + 8 ≤ a →
                Memory.read m.mem a = if hbmLoc p ≤ a ∧ a < hbmLoc p + 4096 then 0 else Memory.read x.s.mem a))
      ∧ (∀ loc lvl, x.s.wayDown (x.pair f.a x.lead) 5 x.ctx.root = .missing loc lvl →
        (x.ctx.pool.length < lvl + 1 → ∃ y : Ex, exec (.pfmap f) s = .next y.s ∧ x.ActsInto y x.s x.on f.nw f.d 1)
        ∧ (lvl + 1 ≤ x.ctx.pool.length → ∃ (y : Ex) (m : State), exec (.pfmap f) s = .next y.s ∧ x.ActsInto y m x.on f.nw f.d 0
            ∧ m = { x.s.setCtx x.ctxId { x.ctx with pool := x.ctx.pool.drop (lvl + 1) } with
                  mem := m.mem, poison := m.poison, stamps := m.stamps, sync := m.sync, trays := m.trays, bars := m.bars,
                  fills := m.fills, proofed := m.proofed, vetoed := m.vetoed, checkedAreas := m.checkedAreas, rels := m.rels }
            ∧ m.mem = (x.s.mapDown (x.pair f.a x.lead) (field (x.rdU f.b).toNat 3 0 * 2 ^ 5 + field (x.rdU f.b).toNat 5 4 * 2 ^ 52) lvl loc
                (x.ctx.pool.take (lvl + 1))).mem
            ∧ ((∀ p ∈ x.ctx.pool.take (lvl + 1), p % 4096 = 0 ∧ p < 2 ^ 52) →
              ∀ a, a < loc ∨ loc + 8 ≤ a → (∀ p ∈ x.ctx.pool.take (lvl + 1), a < p ∨ p + 4096 ≤ a) →
                Memory.read m.mem a = Memory.read x.s.mem a)))
      ∧ (x.s.wayDown (x.pair f.a x.lead) 5 x.ctx.root = .leaf →
        ∃ y : Ex, exec (.pfmap f) s = .next y.s ∧ x.ActsInto y x.s x.on f.nw f.d 3))
    ∧ (x.Issues (.pfmap f) s → (x.rdU f.b).toNat < 64 → (canonical (x.pair f.a x.lead) = false ∨ x.s.hbmOk x.ctx.root = false) →
        ∃ y : Ex, exec (.pfmap f) s = .next y.s ∧ x.ActsInto y x.s x.on f.nw f.d 3)
    ∧ (x.Issues (.tlbi f) s → ∃ y : Ex, exec (.tlbi f) s = .next y.s ∧ x.Acts y { x.s with tlb := y.s.tlb } x.g x.on
        ∧ ∀ e, e ∈ y.s.tlb ↔ e ∈ x.s.tlb ∧ (e.ctx = x.ctxId →
            (x.rdU f.b).toNat ≠ 0 ∧ e.covers (x.pair f.a x.lead / 4096) (x.rdU f.b).toNat = false))
    ∧ (x.Issues (.errrd f) s → (x.rdU f.a).toNat < 2 ^ 9 → ∃ (y : Ex) (m : State), exec (.errrd f) s = .next y.s
        ∧ x.ActsInto y m x.on f.nw f.d (match Tab.find x.ctx.log ((x.rdU f.a).toNat / 8) with
            | some l => l.words.getD ((x.rdU f.a).toNat % 8) 0
            | none => 0)
        ∧ m = x.s.setCtx x.ctxId { x.ctx with log := (m.ctx x.ctxId).log }
        ∧ (∀ e, e ≠ (x.rdU f.a).toNat / 8 ∨ (x.rdU f.a).toNat % 8 ≠ 0 → Tab.find (m.ctx x.ctxId).log e = Tab.find x.ctx.log e)
        ∧ ((x.rdU f.a).toNat % 8 = 0 → Tab.find (m.ctx x.ctxId).log ((x.rdU f.a).toNat / 8)
            = (Tab.find x.ctx.log ((x.rdU f.a).toNat / 8)).map (fun l => { l with read := true })))

/-- O43. With a true guard: TSET of good words writes its entry of the tensor table, and with bit 31 of word 3 removes it. TCOPY and
TCOPYV of valid tensors, with room for the team, give an engine of the grid's share one copy more, with the box, the origins and
the tray given. SLRUN at a tray that the party may use gives an engine of the share, the one named or one with the fewest lists,
one list more, and d its handle. STAIL raises the tail of the list that it names, and of no other. SLSEQ gives d the sequence
word of its tray. Memory is unchanged but for the accessed bits of the entries of a tray's page. -/
def Obligations.TensorsCopiesAndListsBegin : Prop :=
  ∀ (f : RForm) (s : State) (x : Ex), x.Calm → x.Plain → x.Counts → x.go = true →
    (x.Issues (.tset f) s →
      (let ws := x.run4 f.d ++ x.run4 f.a ++ x.run4 f.b
       let tid := field (ws.getD 3 0).toNat 7 0
       (bit (ws.getD 3 0).toNat 31 = true → ∃ y : Ex, exec (.tset f) s = .next y.s
          ∧ x.Acts y (x.s.setCtx x.ctxId { x.ctx with tensors := Tab.del x.ctx.tensors tid }) x.g x.on)
       ∧ (bit (ws.getD 3 0).toNat 31 = false → tsetOk ws = true → ∃ y : Ex, exec (.tset f) s = .next y.s
          ∧ x.Acts y (x.s.setCtx x.ctxId { x.ctx with tensors := Tab.put x.ctx.tensors tid (ws.take 11) }) x.g x.on)))
    ∧ (let w := ((x.run4 f.d).getD 0 0).toNat
       let tray := ((x.run4 f.d).getD 2 0).toNat + 2 ^ 32 * ((x.run4 f.d).getD 3 0).toNat
       let begins := fun (i : Instr) (versioned : Bool) => ∃ (y : Ex) (k : Nat) (c : Copy), k ∈ x.s.share x.gridId x.tile
         ∧ exec i s = .next y.s ∧ x.Becomes y ∧ y.sp = x.on.settled ∧ y.g = { x.g with splits := y.g.splits } ∧ y.s.mem = x.s.mem
         ∧ (y.s.engine k).copies = (x.s.engine k).copies ++ [c] ∧ (y.s.engine k).lists = (x.s.engine k).lists
         ∧ (∀ j, j ≠ k → y.s.engine j = x.s.engine j)
         ∧ c.versioned = versioned ∧ c.flags = w ∧ c.box = (x.run4 f.d).getD 1 0 ∧ c.tray = tray ∧ c.coords = x.run4 f.a
         ∧ c.dcoords = x.run4 f.b ∧ c.slot = none ∧ c.begun = false ∧ c.gang = x.g.gang ∧ c.team = x.g.team
         ∧ some c.src = Tab.find x.ctx.tensors (field w 7 0)
         ∧ c.dst = (Tab.find x.ctx.tensors (field w 15 8)).getD []
       w < 2 ^ 20 → (Tab.find x.ctx.tensors (field w 7 0)).isSome = true → x.wordFault tray 64 64 = none →
       x.s.share x.gridId x.tile ≠ [] → x.s.copiesOf x.g.gang x.g.team < 16 →
       (x.Issues (.tcopy f) s → (bit w 19 = true ∨ (Tab.find x.ctx.tensors (field w 15 8)).isSome = true) → begins (.tcopy f) false)
       ∧ (x.Issues (.tcopyv f) s → bit w 19 = false → (Tab.find x.ctx.tensors (field w 15 8)).isSome = true → begins (.tcopyv f) true))
    ∧ (x.Issues (.slrun f) s →
       (let r := x.run4 f.a
        let start := (r.getD 0 0).toNat + 2 ^ 32 * (r.getD 1 0).toNat
        let tray := (r.getD 2 0).toNat + 2 ^ 32 * (r.getD 3 0).toNat
        let b := (x.rdU f.b).toNat
        ∀ h, field b 15 5 = 0 →
          (bit b 4 = false → 16 * x.tile + field b 3 0 ∈ x.s.share x.gridId x.tile ∧ (x.s.engine (16 * x.tile + field b 3 0)).lists.length < 8) →
          (bit b 4 = true → field b 3 0 = 0 ∧ ∃ j ∈ x.s.share x.gridId x.tile, (x.s.engine j).lists.length < 8) →
          x.wordFault start 4 4 = none → x.s.object x.walker x.allot tray 64 64 false = .at h → x.s.trayOk h x.part = true →
          ∃ (y : Ex) (k : Nat) (l : SList), exec (.slrun f) s = .next y.s ∧ k ∈ x.s.share x.gridId x.tile
            ∧ (bit b 4 = false → k = 16 * x.tile + field b 3 0)
            ∧ (bit b 4 = true → ∀ j ∈ x.s.share x.gridId x.tile, (x.s.engine k).lists.length ≤ (x.s.engine j).lists.length)
            ∧ x.Becomes y ∧ x.OnlyRegs y ∧ x.StepsOn y ∧ y.s.mem = x.s.mem
            ∧ (f.nw = false → f.d.isSreg = true →
                y.rdU f.d = word (k % 16 + x.tile * 2 ^ 4 + x.ctx.serial % 2 ^ 24 * 2 ^ 8))
            ∧ (∀ o j, (f.nw = true ∨ o ≠ f.d) → (∀ n, o ≠ .latch n) → y.rd o j = x.rd o j)
            ∧ (y.s.engine k).lists = (x.s.engine k).lists ++ [l] ∧ l.serial = x.ctx.serial ∧ l.ctx = x.ctxId ∧ l.tray = tray
            ∧ l.loc = bit start 0 ∧ l.addr = (if bit start 0 then start / 4 * 4 % 2 ^ 32 else start / 4 * 4) ∧ l.p = 0
            ∧ l.tail = field b 31 16 ∧ l.c = [] ∧ l.loops = [] ∧ l.slot = none ∧ l.consume = word (x.s.trReleased h)))
    ∧ (x.Issues (.stail f) s →
       (let w := (x.rdU f.a).toNat
        let k := field w 6 4 * 16 + field w 3 0
        ∃ y : Ex, exec (.stail f) s = .next y.s ∧ x.Acts y { x.s with engines := y.s.engines } x.g x.on
          ∧ (bit w 7 = false → (y.s.engine k).lists = (x.s.engine k).lists.map (fun l =>
              if l.ctx = x.ctxId ∧ l.serial % 2 ^ 24 = w / 2 ^ 8 then { l with tail := l.tail + (x.rdU f.b).toNat } else l))
          ∧ (bit w 7 = true → y.s.engines = x.s.engines) ∧ (∀ j, j ≠ k → y.s.engine j = x.s.engine j)
          ∧ (y.s.engine k).copies = (x.s.engine k).copies))
    ∧ (x.Issues (.slseq f) s → ∀ h, x.s.object x.walker x.allot (x.syncWord f.a) 64 64 false = .at h → x.s.trayOk h x.part = true →
        ∃ y : Ex, exec (.slseq f) s = .next y.s ∧ x.Becomes y ∧ x.OnlyRegs y ∧ x.StepsOn y
          ∧ (f.nw = false → f.d.isSreg = true → y.rdU f.d = word (x.s.trSeq h))
          ∧ (∀ o j, (f.nw = true ∨ o ≠ f.d) → (∀ n, o ≠ .latch n) → y.rd o j = x.rd o j)
          ∧ y.s.mem = (x.touchObject f.a false).s.mem)

/-- O44. A command that an engine runs for a list of its own, with its reserved bits 0: SLOOP begins a loop of which fewer than 4
are open; SNEXT goes round again or ends the loop; SADV adds its signed step to a register, SSET writes one; SLINK moves the
list to its words' address; SSEQ raises the tray's sequence word and marks the entries of its page; SWAITF claims an index as
the list's slot, where the scope is high enough for it, or waits while the window is full; SACQ changes only what the engine
knows; SREL, with no update in its cluster's buffers and room in the engine's count, counts the engine's release up and keeps it
for the list's later fills and releases; SHALT ends the list. The machine outside the engines and the counters changes in
nothing else. That an SREL is kept for the later fills and releases, where a later one of its scope takes its place, is the
model's choice (log 125), and so are the marks of SSEQ on the page (R150, log 144) and the end of a list of retired teams with
the command in progress (R246, log 146). -/
def Obligations.ListCommandsAct : Prop :=
  ∀ (s : State) (k p : Nat) (l : SList), s.Runs k p l →
    (∀ trips : BitVec 16, l.loops.length < 4 → ∃ t, exec (.sloop trips 0) s = .next t
        ∧ s.ListActs t s k l { l.ended with loops := ⟨l.p, l.loc, l.addr, trips.toNat + 1, 1⟩ :: l.loops })
    ∧ (∀ e rest, l.loops = e :: rest → ∃ t, exec (.snext 0) s = .next t
        ∧ s.ListActs t s k l (if e.begun < e.trips then
            { l.ended with loops := { e with begun := e.begun + 1 } :: rest, p := e.start, loc := e.loc, addr := e.addr }
          else { l.ended with loops := rest }))
    ∧ (∀ (c : BitVec 3) (d : BitVec 19), ∃ t, exec (.sadv c d) s = .next t
        ∧ s.ListActs t s k l { l.ended with c := Tab.put l.c c.toNat (Tab.read l.c c.toNat 0 + d.signExtend 32) })
    ∧ (∀ (c : BitVec 3) (v : Word), ∃ t, exec (.sset c 0 v) s = .next t ∧ s.ListActs t s k l { l.ended with c := Tab.put l.c c.toNat v })
    ∧ (∀ lo hi : Word, bit lo.toNat 1 = false → (bit lo.toNat 0 = true → hi = 0) → ∃ t, exec (.slink 0 lo hi) s = .next t
        ∧ s.ListActs t s k l { l.ended with loc := bit lo.toNat 0, addr := (lo.toNat + 2 ^ 32 * hi.toNat) / 4 * 4 })
    ∧ (∀ h, s.engineTray k l.ctx l.gang l.team l.tray = .ok h → ∃ t, exec (.sseq 0) s = .next t
        ∧ s.ListActs t ((s.setHdr h 0x0C ((s.trSeq h + 1) % 2 ^ 32)).touchTray k l.ctx l.gang l.tray true) k l l.ended)
    ∧ (∀ h, s.engineTray k l.ctx l.gang l.team l.tray = .ok h → l.slot = none → s.mayClaim h (s.ctx l.ctx).part = true →
        (∀ i m, s.claim h = some (i, m) → s.slotScopeLow (engineWalker s k l.ctx) h i l.rel.scope = false → ∃ t v, exec (.swaitf 0) s = .next t
          ∧ s.ListActs t (m.touchTray k l.ctx l.gang l.tray true) k l { l.ended with slot := some (word i), vecs := v })
        ∧ (s.claim h = none → ∃ t, exec (.swaitf 0) s = .next t ∧ s.ListActs t s k l { l with wait := some .claim }))
    ∧ (∀ scope : BitVec 2, ∃ t v, exec (.sacq 0 scope) s = .next t ∧ s.ListActs t s k l { l.ended with vecs := v })
    ∧ (∀ scope : BitVec 2, (scope = 0 ∨ (s.cluster l.vecs.home).qnt = []) → s.EngineRoom k 1 → ∃ t r, exec (.srel 0 scope) s = .next t
        ∧ r.scope = scope.toNat ∧ r.party = .engine k ∧ (t.engine k).count = (s.engine k).count + 1
        ∧ s.ListActs t s k l { l.ended with srel := l.srel.filter (fun q => q.scope != scope.toNat) ++ [r] })
    ∧ (∃ t, exec (.shalt 0) s = .next t
        ∧ (t.engine k).lists = (s.engine k).lists.filter (fun o => !(o.serial == l.serial && o.ctx == l.ctx))
        ∧ (t.engine k).copies = (s.engine k).copies ∧ (∀ j, j ≠ k → t.engine j = s.engine j)
        ∧ t = { s with engines := t.engines, counters := t.counters })

/-- O45. With no counter full: an SFETCH in progress writes a row of its box into its slot, and after the last one fills the slot
and has none; an SSTORE in progress writes a row of its consumed slot into the tensor, and after the last one releases that
index and goes on to the next. A copy that has not begun claims a slot, at a scope that the slot admits; one to a slot that has
written its last row fills the slot and is gone; a versioned copy whose version word is not the one asked for writes status 1
and ends with nothing else written. Where an index is filled or released, no update lies in the buffers of the cluster at home,
and the engine has room in its count. The marks of a fill or a release on the pages of the tray's header are the model's choice,
from R150 (log 144), and so is that a list whose teams have all retired ends with its command (R246, log 146). A list that waits
at its tail goes on once the tail has risen. -/
def Obligations.BoxCommandsAndCopiesTransfer : Prop :=
  (∀ (s : State) (k p : Nat) (l : SList) (f : BoxForm) (h : Nat) (ws : List Word), s.Runs k p l → f.rsv = 0 →
    s.engineTray k l.ctx l.gang l.team l.tray = .ok h → l.tensor = some ws →
    (let ag := boxAgents s k l.ctx l.gang l.team f.scope.toNat l.vecs (f.acq || f.rel)
     let t := tensorOf ws
     let b := boxOf f.box
     (∀ i es s0 s1, l.slot = some i → ag.1.readRow s t f.mirror b (l.origin f.quad) l.row = .ok (es, s0) →
        ag.2.slotPut s0 (s.trLoc h) (s.slotAt h i.toNat) t.fmt b l.row es = .ok s1 → s1.EngineRoom k 2 →
        (l.row + 1 < b.rows → exec (.sfetch f) s = .next (s1.setList k { l with row := l.row + 1 }))
        ∧ (b.rows ≤ l.row + 1 → s1.trState h i.toNat = slotClaimed → (s1.cluster l.vecs.home).qnt = [] → ∃ (t m : State) (r : Release), exec (.sfetch f) s = .next t
            ∧ m = { s1 with engines := m.engines } ∧ (t.engine k).lists = (s1.engine k).after l { l.ended with slot := none }
            ∧ t.mem = ((m.touchTray k l.ctx (r.team / 256) l.tray true).fillSlot h i.toNat (gidCluster l.issuer) r).mem))
     ∧ (∀ codes scales s0 s1 s2,
        ag.2.slotGet s (s.trLoc h) (s.slotAt h l.consume.toNat) t.fmt b l.row = .ok ((codes, scales), s0) →
        Acc.fold (fun (s : State) (e : Nat × Nat) => ag.1.putElement s t (b.coord (l.origin f.quad) l.row e.1) e.2)
          ((List.range b.b0).zip codes) s0 = .ok s1 →
        Acc.fold (fun (s : State) (e : Nat × Nat) => ag.1.putScale s t (b.coord (l.origin f.quad) l.row (32 * e.1)) e.2)
          ((List.range b.blocks).zip scales) s1 = .ok s2 → s2.EngineRoom k 2 →
        (l.row + 1 < b.rows → exec (.sstore f) s = .next (s2.setList k { l with row := l.row + 1 }))
        ∧ (b.rows ≤ l.row + 1 → s2.canRelease h l.consume.toNat = true → s2.egressOn h = false →
            s2.slotScopeLow (engineWalker s2 k l.ctx) h l.consume.toNat f.scope.toNat = false → (s2.cluster l.vecs.home).qnt = [] →
            ∃ (t m : State) (r : Release), exec (.sstore f) s = .next t ∧ m = { s2 with engines := m.engines }
            ∧ (t.engine k).lists = (s2.engine k).after l { l.ended with consume := l.consume + 1 }
            ∧ t.mem = ((m.touchTray k l.ctx l.gang l.tray true).releaseSlot h l.consume.toNat r).mem))))
  ∧ (∀ (s : State) (k p : Nat) (c : Copy) (h : Nat), s.job k = some (p, .copy c) → s.EngineRoom k 2 → c.ended = none →
    s.engineTray k c.ctx c.gang c.team c.tray = .ok h →
    (∀ i m, c.begun = false → s.mayClaim h (s.ctx c.ctx).part = true → s.claim h = some (i, m) →
      s.slotScopeLow (engineWalker s k c.ctx) h i c.scope = false → ∃ t v, exec (.engineCopy k) s = .next t ∧ t.mem = (m.touchTray k c.ctx c.gang c.tray true).mem
        ∧ (t.engine k).copies = (m.engine k).copies.map (fun o =>
            if o.serial = c.serial ∧ o.ctx = c.ctx then { c with slot := some (word i), begun := true, vecs := v } else o))
    ∧ (∀ i, c.begun = true → c.toSlot = true → c.versioned = false → c.slot = some i → (tensorOf c.src).usable = true →
        (boxOf c.box).bytes (tensorOf c.src).fmt ≤ s.trSize h → (boxOf c.box).rows ≤ c.row → s.trState h i.toNat = slotClaimed →
          (s.cluster c.vecs.home).qnt = [] →
        ∃ (t m : State) (r : Release), exec (.engineCopy k) s = .next t ∧ m = { s with engines := m.engines }
          ∧ t.mem = ((m.touchTray k c.ctx (r.team / 256) c.tray true).fillSlot h i.toNat (gidCluster c.issuer) r).mem
          ∧ (t.engine k).copies = (s.engine k).copies.filter (fun o => !(o.serial == c.serial && o.ctx == c.ctx)))
    ∧ (∀ i v s1 s2 s3, c.begun = true → c.toSlot = false → c.versioned = true → c.rels = false → c.slot = some i →
        (tensorOf c.src).usable = true → (tensorOf c.dst).usable = true → (boxOf c.box).rows ≤ c.row →
        (engineAgent s k c.ctx c.gang c.team c.vecs (if c.acq then some c.scope else none)).version s (tensorOf c.dst) = .ok (v, s1) →
        v ≠ (c.dcoords.getD 2 0).toNat + 2 ^ 32 * (c.dcoords.getD 3 0).toNat →
        s2 = s1.setCopy k { c with compared := v, ended := some (1, 0, v) } →
        (engineAgent s2 k c.ctx c.gang c.team c.vecs (some c.scope)).writeRange s2 (s2.trLoc h) (s2.slotAt h i.toNat)
          ((statusRecord 1 0 v).map (fun b _ => b)) = .ok s3 →
        s3.trState h i.toNat = slotClaimed → (s3.cluster c.vecs.home).qnt = [] → s3.EngineRoom k 2 →
        ∃ (t m : State) (r : Release), exec (.engineCopy k) s = .next t ∧ m = { s3 with engines := m.engines }
          ∧ t.mem = ((m.touchTray k c.ctx (r.team / 256) c.tray true).fillSlot h i.toNat (gidCluster c.issuer) r).mem
          ∧ (t.engine k).copies = (s3.engine k).copies.filter (fun o => !(o.serial == c.serial && o.ctx == c.ctx))))
  ∧ (∀ (s : State) (k : Nat) (l : SList), l ∈ (s.engine k).lists → l.wait = some .tail → l.p < l.tail →
    ∃ t, exec (.engineWaitEnd k l.serial) s = .next t ∧ { l with wait := none } ∈ (t.engine k).lists
      ∧ (∀ o ∈ (s.engine k).lists, o.serial ≠ l.serial → o ∈ (t.engine k).lists) ∧ t = { s with engines := t.engines }
      ∧ ∀ j, j ≠ k → t.engine j = s.engine j)

/-- O46. An operation that may start is started; an MSWAP exchanges the planes then, and an MSTR from a tray takes the index that is
released then. A running operation brings in the rows of the step, each from the state that the last one left. One whose rows
have all landed leaves the queue. A row that faults leaves a pending queue fault, and no operation starts while it stands. -/
def Obligations.QueuedOperationsRun : Prop :=
  ∀ (s : State) (c i : Nat) (m : Mcc) (q : QOp), Tab.find s.mccs c = some m → m.queue[i]? = some q →
    (m.canStart i q = true →
      (q.kind = 5 → ∃ t n r, exec (.queueStart c i 0) s = .next t ∧ Tab.find t.mccs c = some n ∧ n.active = 1 - m.active
          ∧ n.plane0 = m.plane0 ∧ n.plane1 = m.plane1 ∧ n.queue[i]? = some r ∧ r.started = true ∧ t.mem = s.mem)
      ∧ (q.kind ≠ 5 → q.kind ≠ 2 ∨ q.tray = none → ∃ t n r, exec (.queueStart c i 0) s = .next t ∧ Tab.find t.mccs c = some n
          ∧ n = { m with queue := n.queue } ∧ n.queue[i]? = some r ∧ r = { q with started := true, tail := r.tail } ∧ t.mem = s.mem)
      ∧ (∀ w h, q.kind = 2 → q.tray = some w → s.queueTray c w = .ok h → ∃ t n r, exec (.queueStart c i 0) s = .next t
          ∧ Tab.find t.mccs c = some n ∧ n = { m with queue := n.queue } ∧ n.queue[i]? = some r
          ∧ r = { q with started := true, tail := r.tail, index := some (word (s.trReleased h)) } ∧ t.mem = s.mem))
    ∧ (q.started = true → q.streamed = false → q.tail = 0 → m.qf = none → m.inputFree i q = true →
      (∀ q1 s1, s.rowOf c q = .ok q1 s1 → exec (.queueStart c i 1) s = .next ((s1.countBeats c q).setOp c i { q1 with waiting := false }))
      ∧ (∀ cause a q1 s1 n g, s.rowOf c q = .fault cause a q1 s1 → Tab.find s1.mccs c = some n → n.qf = none →
          s1.group (gidOf c 64) = some g → g.run = .running → g.splits.all (fun p => p.wait.isNone) = true → s1.checked = false →
          cause ≠ .limitWait →
          ∃ t n1, exec (.queueFault c i) s = .next t ∧ Tab.find t.mccs c = some n1 ∧ n1.qf = some (cause, a, i)
            ∧ n1.qfTaken = false ∧ ∀ j r, n1.queue[j]? = some r → n1.canStart j r = false))
    ∧ (q.started = true → q.streamed = true → q.tail = 0 → ∃ t n, exec (.queueComplete c i) s = .next t ∧ Tab.find t.mccs c = some n
        ∧ q ∉ n.queue ∧ (∀ r, r ≠ q → (r ∈ n.queue ↔ r ∈ m.queue)) ∧ n.acc = m.acc ∧ n.plane0 = m.plane0 ∧ n.plane1 = m.plane1
        ∧ t.mem = s.mem)

/-- O47. With a true guard: a LAUNCH whose block was read without a trap, with an untouched standing quote for it, a free entry of
the child table and its limit not reached, creates a grid on that quote with the next handle, enters it in the child table and
gives d its handle. LWAIT of a handle that names no child gives 0xF; of a completed child its outcome, and the entry is free; of
a child that runs it waits. -/
def Obligations.ChildGridsAreLaunchedAndAwaited : Prop :=
  (∀ (f : RForm) (s : State) (x y0 : Ex) (bs : List Byte) (qid e : Nat) (q : Quote) (kb : Bucket), x.Issues (.launch f) s → x.Calm → x.Plain →
    x.Counts → x.go = true →
    x.readBlock ((x.pair f.a x.lead + ((x.rdU f.b).signExtend 64).toNat) % 2 ^ 64) = .bytes bs y0 →
    (blockOf bs).ok = true → y0.standing (blockOf bs) = some (qid, q, kb) → y0.s.quoteTouched q = false → y0.team.freeChild = some e →
    (∀ l, y0.limit 4 y0.sp.pc = some l → Tab.read y0.team.launches y0.sp.pc.toNat 0 < l.n) → y0.grid.replay = none →
    ∃ y : Ex, exec (.launch f) s = .next y.s ∧ x.Becomes y ∧ x.OnlyRegs y ∧ x.StepsOn y
      ∧ (f.nw = false → f.d.isSreg = true → y.rdU f.d = word (e + 16 * (y0.team.serial % 2 ^ 28)))
      ∧ y.s.nextGrid = y0.s.nextGrid + 1
      ∧ Tab.find (y.s.team x.teamId).children e = some ⟨y0.team.serial, y0.s.nextGrid⟩
      ∧ (y.s.team x.teamId).serial = y0.team.serial + 1
      ∧ (y.s.grid y0.s.nextGrid).quote = some qid ∧ (y.s.grid y0.s.nextGrid).kernel = q.req.kernel
      ∧ (y.s.grid y0.s.nextGrid).counts = q.req.counts ∧ (y.s.grid y0.s.nextGrid).args = (blockOf bs).args
      ∧ (y.s.grid y0.s.nextGrid).seed = (blockOf bs).seed ∧ (y.s.grid y0.s.nextGrid).entry = word kb.entry
      ∧ (y.s.grid y0.s.nextGrid).parent = some (x.teamId, e) ∧ (y.s.grid y0.s.nextGrid).complete = false)
  ∧ (∀ (f : RForm) (s : State) (x : Ex), x.Issues (.lwait f) s → x.Calm → x.go = true → x.sp.ticket = none →
    (let h := (x.rdU f.a).toNat
     ((∀ c, Tab.find x.team.children (h % 16) = some c → c.serial % 2 ^ 28 ≠ h / 16) →
       ∃ y : Ex, exec (.lwait f) s = .next y.s ∧ x.ActsInto y x.s x.past f.nw f.d 0xF)
     ∧ (∀ c, Tab.find x.team.children (h % 16) = some c → c.serial % 2 ^ 28 = h / 16 →
         ((x.s.grid c.grid).complete = true → ∃ y : Ex, exec (.lwait f) s = .next y.s ∧ x.Becomes y ∧ y.sp.pc = x.sp.pc + 4
             ∧ y.sp.wait = none
             ∧ (f.nw = false → f.d.isSreg = true → y.rdU f.d = word (x.s.childCode c.grid))
             ∧ (∀ o j, (f.nw = true ∨ o ≠ f.d) → (∀ n, o ≠ .latch n) → y.rd o j = x.rd o j)
             ∧ Tab.find (y.s.team x.teamId).children (h % 16) = none ∧ y.s.mem = x.s.mem)
         ∧ ((x.s.grid c.grid).complete = false → ∃ y : Ex, exec (.lwait f) s = .next y.s ∧ x.Turns y x.g (x.waiting (.child c.grid))))))

/-- O48. MAPACK admits S or zero as d and a uniform a, with b 0. With a false guard it only moves on. With a true one, of v = rd(a):
above MAPV it changes nothing and gives 2; at or below the acknowledged version it changes nothing and gives 1; otherwise v is
the acknowledged version, the windows of versions up to v are closed, and it gives 0. No quote changes, no latch and no vector:
it is no switch point and no acquire. A host MAPACK above MAPV changes nothing but that the packet is consumed, with a record of
status 2. 0x7890E200 is MAPACK s3, s4. -/
def Obligations.MapackAcknowledges : Prop :=
  (∀ (f : RForm) (s : State) (x : Ex), x.Issues (.mapack f) s → x.Calm →
    (x.go = false → ∃ y : Ex, exec (.mapack f) s = .next y.s ∧ x.Turns y x.g x.on)
    ∧ (x.go = true →
      (let v := (x.rdU f.a).toNat
       (x.s.mapv < v → ∃ y : Ex, exec (.mapack f) s = .next y.s ∧ x.ActsInto y x.s x.on f.nw f.d 2 ∧ y.sp = x.on.settled)
       ∧ (v ≤ x.s.mapv → v ≤ x.ctx.ack → ∃ y : Ex, exec (.mapack f) s = .next y.s ∧ x.ActsInto y x.s x.on f.nw f.d 1 ∧ y.sp = x.on.settled)
       ∧ (v ≤ x.s.mapv → x.ctx.ack < v → ∃ y : Ex, exec (.mapack f) s = .next y.s ∧ y.sp = x.on.settled
          ∧ x.ActsInto y (x.s.setCtx x.ctxId { x.ctx with ack := v, windows := x.ctx.windows.filter (fun w => decide (v < w.version)) })
              x.on f.nw f.d 0))))
  ∧ (∀ (r : QRef) (s : State) (bs : List Byte), s.head (qiKey r) = some bs → packetKind bs = 5 → s.mapv < wordAt bs 8 →
    exec (.mapackPacket r) s = .next (((s.consume (qiKey r)).ack (qiKey r) (packetSeq bs) 2 0 0).proceed (qiKey r) ringMax))
  ∧ (∀ f : RForm, (Instr.mapack f).wellFormed = true ↔
      (f.d.isSreg = true ∨ f.d = .zero) ∧ f.a.isUni = true ∧ f.b = .vreg 0)
  ∧ decode 0x7890E200 = .mapack { nw := false, d := .sreg 3, a := .sreg 4, b := .vreg 0 }

/-- O49. A line fill ends the wait of its split and puts the line into the store. A ready event ends a wait whose condition holds,
and no other wait. A limit event of a declared wait at its limit, of a split in no handler, takes LIMIT_WAIT, with the wait
backed out, the entries of a barrier written to the error log, and the quote in force void; one of a queued operation leaves a
queue fault and voids the quote. A ready JOIN re-gangs the frame that it waits at. The delivery of a pending flag to a group in
no handler, whose first split runs, enters the handler with the flag's cause and address, and the flag is gone; with MAP_CHANGED
of a version that is not acknowledged the window opens. The watchdog, with no counter full, takes a group out of a handler that
has run 2^20 cycles and suspends it. An energy refresh that is due shows the energy, which does not fall, and what the quote has
left; one that is not due does nothing. -/
def Obligations.EventsOfOneGroup : Prop :=
  (∀ (s : State) (gid entry : Nat) (x : Ex), Ex.of s gid entry = some x → x.sp.wait = some .line →
    ∃ t, exec (.lineFill gid entry) s = .next t
      ∧ t = { s with stores := t.stores, groups := Tab.put s.groups gid ({ x with sp := { x.sp with wait := none } } : Ex).home }
      ∧ ({ x with s := t, sp := { x.sp with wait := none } } : Ex).hit = true)
  ∧ (∀ (s : State) (gid entry : Nat) (x : Ex) (w : Wait), Ex.of s gid entry = some x → x.sp.wait = some w →
    (x.waitOver w = true → w ≠ .join → ∃ t h p, exec (.splitReady gid entry) s = .next t ∧ t = { s with groups := t.groups }
        ∧ t.group gid = some h ∧ h.split? entry = some p ∧ p = { x.sp with wait := none, ticket := p.ticket } ∧ h = ({ x with sp := p } : Ex).home
        ∧ (∀ e, e ≠ entry → h.split? e = x.g.split? e))
    ∧ (∀ k f, w = .join → x.g.readyFrame entry = some k → x.g.frames[k]? = some f →
        exec (.splitReady gid entry) s = .next ((x.putGroup (x.g.regang f (dropAt x.g.frames k))).stepDone gid))
    ∧ (x.waitOver w = false → exec (.splitReady gid entry) s = .next s))
  ∧ (∀ (s : State) (gid entry : Nat) (x : Ex) (w : Wait), Ex.of s gid entry = some x → x.sp.wait = some w → x.atLimit w = true → x.User →
    ∃ y : Ex, exec (.limitWait (.split gid entry)) s = .next y.s
      ∧ Ex.Enters { x.overLimit w with s := (x.diagnose w).draw.voidQuote x.gridId blameCaller 0 .limitWait false false } y (.of .limitWait))
  ∧ (∀ (s : State) (c i n : Nat) (m : Mcc) (q : QOp) (g : Group), Tab.find s.mccs c = some m → m.queue[i]? = some q → m.qf = none →
    q.waiting = true → q.kind ≠ 3 → s.queuedLimit c q = some n → n ≤ q.waited → s.queuePeer c q = none → s.group (gidOf c 64) = some g →
    s.frozen (s.gang g.gang).grid = false → g.run = .running → g.splits.all (fun p => p.wait.isNone) = true → s.checked = false →
    ∃ t n1, exec (.limitWait (.queued c i)) s = .next t ∧ Tab.find t.mccs c = some n1 ∧ n1.qf = some (.limitWait, none, i)
      ∧ n1.qfTaken = false ∧ (∀ j r, n1.queue[j]? = some r → n1.canStart j r = false)
      ∧ (∀ qid q, (s.grid (s.gang g.gang).grid).quote = some qid → s.quote? qid = some q →
          (t.grid (s.gang g.gang).grid).quote = none ∧ ∃ v, t.quote? qid = some v ∧ v.state = .void))
  ∧ (∀ (s : State) (gid : Nat) (g : Group) (a : Pending) (p : Split), s.group gid = some g → g.saved = none → g.trapq = [] → g.run = .running →
    g.flagged = some a → g.first = some p → p.wait = none → g.split? p.entry = some p →
    ∃ t h q sv, exec (.asyncTrapDelivery gid) s = .next t ∧ t.group gid = some h ∧ h.saved = some sv ∧ sv.entry = p.entry ∧ sv.mode = g.mode
      ∧ h.mode = modeReset ∧ h.trapc.toNat % 128 = a.cause.code ∧ h.trappc = p.pc ∧ h.trapaddrl = word a.addr
      ∧ h.trapaddrh = word (a.addr / 2 ^ 32) ∧ (∀ b ∈ h.apend, b.cause ≠ a.cause) ∧ h.split? p.entry = some q
      ∧ q.pc = (s.ctx (s.ctxOf g)).hdlr ∧ q.loops = [] ∧ q.rets = []
      ∧ t = { s with groups := t.groups, counters := t.counters, ctxs := t.ctxs } ∧ (a.cause ≠ .mapChanged → t.ctxs = s.ctxs)
      ∧ (a.cause = .mapChanged → (s.ctx (s.ctxOf g)).ack < a.addr → a.addr < 2 ^ 64 → ∃ w ∈ (t.ctx (s.ctxOf g)).windows,
          w.version = a.addr ∧ w.gid = gid ∧ w.cycles = 0 ∧ w.hostWin = false))
  ∧ (∀ (s : State) (gid : Nat) (g : Group) (sv : Saved), s.group gid = some g → g.saved = some sv → g.run = .running → 2 ^ 20 ≤ sv.cycles → s.checked = false →
    s.epochOf gid + 1 < 2 ^ 48 → (s.cluster (gidCluster gid)).kcount + 1 < 2 ^ 48 →
    ∃ t h, exec (.watchdog gid) s = .next t ∧ t.group gid = some h ∧ h.saved = none ∧ h.run = .suspended ∧ h.mode = sv.mode
      ∧ h.fpx = sv.fpx ∧ h.v = g.v ∧ h.s = g.s
      ∧ ∃ e, Tab.find (t.ctx (s.ctxOf g)).log ((s.ctx (s.ctxOf g)).logSeq % 64) = some e ∧ (e.words.getD 0 0).toNat / 2 ^ 24 = 6
          ∧ e.words.getD 6 0 = g.trapc ∧ e.words.getD 7 0 = g.trappc)
  ∧ (∀ (s : State) (gid n : Nat) (g : Group), s.group gid = some g → (g.age < 65536 → exec (.energyRefresh gid n) s = .next s)
    ∧ (65536 ≤ g.age → ∃ t h, exec (.energyRefresh gid n) s = .next t ∧ t.group gid = some h
      ∧ (s.grid (s.gang g.gang).grid).energy ≤ (t.grid (s.gang g.gang).grid).energy
      ∧ h = { g with energy := h.energy, qnrg := h.qnrg, age := g.age - 65536 } ∧ t = { s with grids := t.grids, groups := t.groups }
      ∧ h.energy = word (min (t.grid (s.gang g.gang).grid).energy (2 ^ 32 - 1))
      ∧ (∀ q, (s.grid (s.gang g.gang).grid).quote.bind s.quote? = some q →
          h.qnrg = word (min (q.energy - ((t.grid (s.gang g.gang).grid).energy - (t.grid (s.gang g.gang).grid).waived)) (2 ^ 32 - 1)))))

/-- O50. With no counter full: a gang that may be formed on the places chosen has its teams there, on those cores, slots, rows and
blocks, and the grid counts them as formed. A pre-emption that R357 admits suspends the gang whole, with none of its groups in a
slot. A gang that may resume on the places chosen is suspended no more, on the cluster of its first place. A grid of which
everything has ended is complete. A packet that reaches its station takes its reserved place, after what waits there but for
those of the same cycle that it goes before; a station with a free slot admits the oldest return, or else the oldest packet, as
a new group at its destination. -/
def Obligations.GangsFormSuspendResumeAndEnd : Prop :=
  (∀ (s : State) (k stage : Nat) (g : Grid) (p : List TeamPlace), Tab.find s.grids k = some g → s.formable k g stage p = true →
    s.checked = false → g.replay = none → g.kernel.mcc = none → p.length ≤ 255 →
    (∀ gid, s.epochOf gid + p.length * g.groups < 2 ^ 48) →
    ∃ t, exec (.gangForm k stage p) s = .next t ∧ t.nextGang = s.nextGang + 1 ∧ (t.gang s.nextGang).grid = k
      ∧ (t.gang s.nextGang).size = p.length ∧ (t.gang s.nextGang).stage = stage
      ∧ Tab.read (t.grid k).formed stage 0 = Tab.read g.formed stage 0 + p.length
      ∧ ∀ j pl, p[j]? = some pl → (let u := t.team (teamKey s.nextGang j)
          u.core = pl.core ∧ u.slots = pl.slots ∧ u.row0 = pl.row0 ∧ u.rows = g.kernel.rows ∧ u.free = pl.blocks ∧ u.idx = j))
  ∧ (∀ (s : State) (k : Nat) (ga : Gang) (r : Requester), Tab.find s.gangs k = some ga → ga.done = false → ga.suspended = false →
    ga.usesMcc = false → s.admits k r = true → s.checked = false → (∀ gid, s.epochOf gid + s.groups.length < 2 ^ 48) →
    (∀ c, (s.cluster c).kcount + s.groups.length < 2 ^ 48) →
    ∃ t, exec (.preEmption k r) s = .next t ∧ (t.gang k).suspended = true ∧ (t.gang k).byHost = (r == .halt || r == .shrink)
      ∧ (∀ gid h, t.group gid = some h → h.gang = k → h.mcc = true)
      ∧ (∀ gid h, s.group gid = some h → (∀ e ∈ s.groups, e.1 = gid → e.2.gang ≠ k) → t.group gid = some h)
      ∧ (∀ gid h, s.group gid = some h → h.gang = k → h.mcc = false → ∃ sg ∈ (t.gang k).groups, sg.team = h.team ∧ sg.grp = h.grp
          ∧ sg.group.v = h.v ∧ sg.group.s = h.s ∧ sg.group.p = h.p ∧ sg.group.mode = h.mode ∧ sg.group.exec = h.exec
          ∧ sg.group.splits = h.splits.map Split.halted))
  ∧ (∀ (s : State) (k : Nat) (ga : Gang) (p : List TeamPlace), Tab.find s.gangs k = some ga → p ≠ [] → s.checked = false →
    s.resumable k ga (s.gangTeams k) p = true → ga.mcc = none →
    (∀ gid, s.epochOf gid + ga.groups.length + 1 < 2 ^ 48) →
    ∃ t, exec (.gangResume k p) s = .next t ∧ (t.gang k).suspended = false ∧ (t.gang k).groups = []
      ∧ (t.gang k).cluster = (p.map (·.core)).headD 0 / 4)
  ∧ (∀ (s : State) (k : Nat) (g : Grid), Tab.find s.grids k = some g → g.complete = false → s.gridOver k g = true →
    ∃ t, exec (.gridComplete k) s = .next t ∧ (t.grid k).complete = true)
  ∧ (∀ (s : State) (id : Nat) (pk : Packet) (st : Station), Tab.find s.packets id = some pk → pk.arrived = false →
    (s.gang pk.gang).suspended = false → Tab.find (s.gang pk.gang).stations pk.station = some st →
    let now := (s.cluster ((s.team (teamKey pk.gang pk.station)).core / 4)).lclk
    ∃ t n first rest, exec (.packetArrival id) s = .next t ∧ Tab.find (t.gang pk.gang).stations pk.station = some n
      ∧ st.waiting = first ++ rest ∧ n.waiting = first ++ id :: rest ∧ (∀ j ∈ first, s.goesBefore now pk j = false)
      ∧ (∀ j, rest.head? = some j → s.goesBefore now pk j = true) ∧ n.reserved = st.reserved.erase id
      ∧ Tab.find t.packets id = some { pk with arrived := true, cycle := some now }
      ∧ t = { s with gangs := t.gangs, packets := t.packets })
  ∧ (∀ (s : State) (k n : Nat) (st : Station) (slot grp id : Nat) (pk : Packet), Tab.find (s.gang k).stations n = some st →
    (s.gang k).suspended = false → (s.gang k).done = false → s.checked = false →
    s.freePlace k n (s.team (teamKey k n)) = some (slot, grp) → s.nextPacketAt st = some (id, pk) →
    (∀ gid, s.epochOf gid + 2 < 2 ^ 48) →
    (let core := (s.team (teamKey k n)).core
     ∃ t h q, exec (.admission k n) s = .next t ∧ t.group (gidOf (core / 4) (16 * (core % 4) + slot)) = some h
      ∧ h.v = pk.v ∧ h.s = pk.s ∧ h.p = pk.p ∧ h.mode = pk.mode ∧ h.exec = pk.exec ∧ h.grp = grp
      ∧ h.splits = [q] ∧ q.pc = pk.dest ∧ q.lanes = pk.lanes ∧ q.loops = pk.loops ∧ q.rets = pk.rets
      ∧ Tab.find t.packets id = none
      ∧ ∃ m, Tab.find (t.gang k).stations n = some m ∧ m.waiting = st.waiting.erase id))

/-- O51. A quote whose validity has ended lapses, and its reservation is free if no other quote holds it; one whose validity has not
ended stays. An energy budget or a bound that is exhausted for the first time brings one BREACH record, and a budget of any kind
for the second time nothing. With no counter full, a context of which a window has run out is late: its running grids are
halted, their quotes void, and no window is open. The rail vote of a partition without work on a tile lapses after 2^14 cycles. -/
def Obligations.QuotesLapseBreakAndAreLate : Prop :=
  (∀ (s : State) (qid : Nat) (q : Quote), s.quote? qid = some q → (q.state = .issued ∨ (q.state = .accepted ∧ q.parent = 0)) →
    (1000000 ≤ (s.hub + 2 ^ 64 - q.issued) % 2 ^ 64 → ∃ t, exec (.quoteLapse qid) s = .next t ∧ t.quote? qid = some { q with state := .lapsed }
        ∧ (s.resHeld q.res qid = false → Tab.find t.reservations q.res = none)
        ∧ t = { s with quotes := t.quotes, reservations := t.reservations, votes := t.votes, settle := t.settle })
    ∧ ((s.hub + 2 ^ 64 - q.issued) % 2 ^ 64 < 1000000 → exec (.quoteLapse qid) s = .next s))
  ∧ (∀ (s : State) (k team cause qid : Nat) (q : Quote), (s.grid k).quote = some qid → s.quote? qid = some q → 1 ≤ cause → cause ≤ 7 →
    (q.energy ≤ (s.grid k).energy - (s.grid k).waived → BreachKind.energy ∉ (s.grid k).breaches →
      exec (.breach k team .energy cause) s = .next ((s.setGrid k { s.grid k with
          breaches := (s.grid k).breaches ++ [.energy], deviceBreach := (s.grid k).deviceBreach || cause != 6 }).record
        (s.grid k).ctx 3 0 [word qid, word ((if cause = 6 then 0 else 1) + 16 + cause * 2 ^ 8), word s.mapv, word k, 0x1FFFFF]))
    ∧ (∀ kind, kind ∈ (s.grid k).breaches → exec (.breach k team kind cause) s = .next s)
    ∧ ((s.grid k).boundLeft = 0 → (s.grid k).complete = false → BreachKind.bound ∉ (s.grid k).breaches →
      exec (.breach k team .bound cause) s = .next ((s.setGrid k { s.grid k with
          breaches := (s.grid k).breaches ++ [.bound], deviceBreach := (s.grid k).deviceBreach || cause != 6 }).record
        (s.grid k).ctx 3 0 [word qid, word ((if cause = 6 then 0 else 1) + 32 + cause * 2 ^ 8), word s.mapv, word k, 0x1FFFFF])))
  ∧ (∀ (s : State) (c : Nat), (s.ctx c).live = true → (∃ w ∈ (s.ctx c).windows, 2 ^ 24 ≤ w.cycles) → s.checked = false →
    (∀ gid, s.epochOf gid + s.groups.length < 2 ^ 48) → (∀ j, (s.cluster j).kcount + s.groups.length < 2 ^ 48) →
    ∃ t, exec (.mapAckLate c) s = .next t ∧ (t.ctx c).late = true ∧ (t.ctx c).windows = []
      ∧ (∀ k ∈ s.gridsOf c, (t.grid k).halted = true)
      ∧ (∀ k ∈ s.gridsOf c, ∀ qid q, (s.grid k).quote = some qid → s.quote? qid = some q →
          (t.grid k).quote = none ∧ ∃ r, t.quote? qid = some r ∧ r.state = .void))
  ∧ (∀ (s : State) (tile part : Nat), part < 8 → tile < 8 → s.worksOn part tile = false → 2 ^ 14 ≤ Tab.read s.settle (8 * tile + part) 0 →
    ∃ t, exec (.railVoteLapse tile part) s = .next t ∧ Tab.find t.votes (8 * tile + part) = none
      ∧ (∀ k, k ≠ 8 * tile + part → Tab.find t.votes k = Tab.find s.votes k) ∧ t = { s with votes := t.votes, settle := t.settle })

/-- O52. The packet at the head of an interface is consumed and takes its effect. QUOTE begins a walk of the map as it stands. The
end of a walk with a reservation that can be held, on the map as the walk had it, issues a quote for each bucket, and holds it;
a walk that is refused ends with a QUOTED record of its reason. ACCEPT of a quote that is offered and not touched makes it
accepted, if clusters can be had for its standing quotes; DECLINE of one ends it. LAUNCH on an accepted, untouched quote that
fits its block creates a grid on it, with the next handle in its ACK record. -/
def Obligations.QuotesAreAskedForAndTakenUp : Prop :=
  ∀ (r : QRef) (s : State),
    (∀ w v, s.walks.find? (fun w => w.qi == qiKey r) = some w → (s.ctx (qiKey r)).live = true →
      (w.refusal = 0 → (s.atWalk w).walkRefusal w.req = 0 → v.clusters ≠ [] → v.ceil ≠ 0 →
        (({ s with walks := s.walks.erase w } : State).atWalk w).holdable w.req v = true → w.reports = [] →
        ∃ t qs, exec (.quoted r v) s = .next t ∧ t.walks = s.walks.erase w ∧ t.quotes = s.quotes ++ qs
          ∧ Tab.find t.reservations s.nextReservation = some v ∧ t.nextQid = s.nextQid + qs.length
          ∧ qs.length = (w.req.kernel.bucketsByNo.length + (w.req.sites.map (fun e => e.kernel.bucketsByNo.length)).foldr (· + ·) 0)
          ∧ (∀ e ∈ qs, e.2.state = .issued ∧ e.2.res = s.nextReservation ∧ e.2.mapv = w.mapv ∧ e.2.issued = s.hub ∧ s.nextQid ≤ e.1))
      ∧ (w.refusal ≠ 0 → w.reports = [] → exec (.quoted r v) s = .next
          (({ s with walks := s.walks.erase w } : State).record (qiKey r) 7 2 [w.hseq, 0, 0, word w.refusal])))
    ∧ (∀ bs, s.head (qiKey r) = some bs →
      (let k := qiKey r
       let c := s.consume k
       (packetKind bs = 1 → ∃ (m : State) (w : Walk), exec (.quote r) s = .next (m.proceed k ringMax) ∧ m = { c with walks := s.walks ++ [w] }
          ∧ w.qi = k ∧ w.hseq = packetSeq bs ∧ w.mapv = s.mapv ∧ w.map = s.map ∧ w.costs = s.costs ∧ w.reports = [] ∧ w.req.ctx = k)
       ∧ (∀ qid q, packetKind bs = 2 → packetQids bs = [qid] → c.mine k qid = some q → c.past q = false → c.quoteTouched q = false →
          q.state = .issued → q.parent = 0 → q.grid = 0 → ∀ m, (c.setQuoteState qid .accepted).acceptStanding q = some m →
          ∃ a : Quote, exec (.accept r) s = .next ((m.ack k (packetSeq bs) 0 0 (word qid)).proceed k ringMax)
            ∧ m.quote? qid = some a ∧ a.state = .accepted ∧ a.req = q.req ∧ a.budget = q.budget ∧ m.grids = s.grids ∧ m.mem = s.mem)
       ∧ (∀ qid q, packetKind bs = 2 → packetQids bs = [qid] → c.mine k qid = some q → c.past q = true →
          exec (.accept r) s = .next ((c.ack k (packetSeq bs) 2 7 (word qid)).proceed k ringMax))
       ∧ (∀ qid q, packetKind bs = 3 → packetQids bs = [qid] → c.mine k qid = some q → q.state = .issued →
          ∃ (m : State) (a : Quote), exec (.decline r) s = .next ((m.ack k (packetSeq bs) 0 0 (word qid)).proceed k ringMax)
            ∧ m.quote? qid = some a ∧ a = { q with state := .declined } ∧ m.grids = s.grids ∧ m.mem = s.mem)
       ∧ (∀ q0 kb qid q, packetKind bs = 4 → c.mine k (wordAt bs 8) = some q0 →
          (let b := blockOf (Memory.load s.mem (hostLoc (longAt bs 0x10)) 256)
           b.argc ≤ 32 → c.past q0 = false → q0.parent = 0 → (q0.state = .issued ∨ q0.state = .accepted) → b.fits q0.req = true →
           q0.req.kernel.bucketFor b.shapes = some kb →
           c.quotes.find? (fun e => e.2.first == q0.first && e.2.parent == 0 && e.2.bucket == kb.n) = some (qid, q) →
           q.state = .accepted → c.quoteTouched q = false →
           ∃ (m : State) (g : Grid), exec (.launchPacket r) s = .next ((m.ack k (packetSeq bs) 0 0 (word s.nextGrid)).proceed k ringMax)
             ∧ m.nextGrid = s.nextGrid + 1 ∧ m.grid s.nextGrid = g ∧ g.ctx = k ∧ g.quote = some qid ∧ g.kernel = q.req.kernel
             ∧ g.counts = q.req.counts ∧ g.args = b.args ∧ g.seed = b.seed ∧ g.entry = word kb.entry ∧ g.parent = none
             ∧ g.complete = false ∧ g.halted = false))))

/-- O53. The packet at the head of an interface is consumed. With no counter full, HALT of a running grid suspends it and halts it;
with abort, every group of it that is in a slot and has not ended has HOST_ABORT pending, and that the grid may go on to take it
is the model's choice (log 44). A MAPACK of a later version acknowledges it; that one of the current version ends a late
acknowledgement is the model's choice (log 88). RESUME of a halted grid of a context that is not late lets it go on. RECORD
appends to a grid's replay log an entry whose bytes are the model's choice (log 33). CONTEXT without a running grid sets the
interface's context; that it empties the pool, the tensor table, the log and the TLBs and keeps the grants is the model's choice
(log 89). POOL adds pages. EGREG registers a held tray that the context may give out; EGACK releases the OPEN indices up to the
one named for which a record has been written, as a release of the host. An egress copies an OPEN slot into its buffer and
writes an EGRESS record, and releases a VETOED one. -/
def Obligations.PacketsActOnContextsAndGrids : Prop :=
  (∀ (r : QRef) (s : State) (bs : List Byte), s.head (qiKey r) = some bs →
    (let k := qiKey r
     let c := s.consume k
     let done := fun (i : Instr) (status : Nat) (result : Word) (post : State → Prop) =>
       ∃ m : State, exec i s = .next ((m.ack k (packetSeq bs) status 0 result).proceed k ringMax) ∧ post m
     let h := wordAt bs 8
     (∀ v, packetKind bs = 5 → v = wordAt bs 8 → v ≤ s.mapv → (s.ctx k).ack < v → done (.mapackPacket r) 0 0 (fun m =>
        (m.ctx k).ack = v ∧ (∀ w ∈ (m.ctx k).windows, v < w.version) ∧ (v = s.mapv → (m.ctx k).late = false)))
     ∧ (∀ g, packetKind bs = 6 → aborts bs = false → Tab.find s.grids h = some g → g.ctx = k → g.complete = false → g.halted = false →
        (c.haltGrid h).checked = false → done (.halt r) 0 (word h) (fun m => (m.grid h).halted = true
          ∧ ∀ n ga, Tab.find s.gangs n = some ga → ga.grid = h → ga.done = false → (m.gang n).suspended = true))
     ∧ (∀ g, aborts bs = true → Tab.find s.grids h = some g → g.ctx = k → g.complete = false →
        (∀ e ∈ s.gangs, e.2.grid = h → e.2.told = false) → (c.abortGrid h).checked = false →
        done (.haltAbort r) 0 (word h) (fun m => (m.grid h).halted = false
          ∧ ∀ gid u, s.group gid = some u → (s.gang u.gang).grid = h → u.run ≠ .ended →
              ∃ w, m.group gid = some w ∧ ∃ a ∈ w.apend, a.cause = .hostAbort))
     ∧ (∀ g, packetKind bs = 7 → bit (wordAt bs 0x0C) 31 = false → Tab.find s.grids h = some g → g.ctx = k → g.halted = true →
        (s.ctx k).late = false → done (.resume r) 0 (word h) (fun m => (m.grid h).halted = false ∧ m.mem = s.mem))
     ∧ (∀ g b, packetKind bs = 8 → Tab.find s.grids h = some g → g.ctx = k → g.parent = none → g.replay = some b →
        done (.record r) 0 (word h) (fun m => (m.grid h).replayLog = g.replayLog ++ (bytesLE 4 (packetSeq bs).toNat
          ++ (sha3 (Memory.load s.mem (hostLoc (longAt bs 0x10)) (wordAt bs 0x18))).take 12)))
     ∧ (packetKind bs = 9 → s.gridsOf k = [] → s.checked = false → done (.context r) 0 0 (fun m =>
          (m.ctx k).live = true ∧ (m.ctx k).root = longAt bs 8 ∧ (m.ctx k).hdlr = wordOf bs 0x1C ∧ (m.ctx k).pool = []
          ∧ (m.ctx k).code = Memory.load s.mem (hostLoc (longAt bs 0x10)) (wordAt bs 0x18) ∧ (m.ctx k).tensors = []
          ∧ (m.ctx k).log = [] ∧ (m.ctx k).grants = (s.ctx k).grants ∧ ∀ e ∈ m.tlb, e.ctx ≠ k))
     ∧ (packetKind bs = 10 → done (.pool r) 0 0 (fun m => m = c.setCtx k { s.ctx k with
          pool := (s.ctx k).pool ++ (List.range (wordAt bs 0x10)).map (fun j => longAt bs 8 + 4096 * j) }))
     ∧ (∀ a, packetKind bs = 11 → c.object (hostWalker c k) none (longAt bs 8) 64 64 false = .at a → a ∈ s.trays → s.trHold a = true →
        s.trLoc a = false → s.trOwner a = (s.ctx k).part → s.egressOn a = false → s.atsDenied = [] →
        done (.egreg r) 0 (word s.nextEgress) (fun m => ∃ e, m = { c with egresses := Tab.put s.egresses s.nextEgress e, nextEgress := s.nextEgress + 1 }
          ∧ e.ctx = k ∧ e.tray = a ∧ e.buffer = longAt bs 0x10 ∧ e.e = word (s.trReleased a) ∧ e.recorded = [] ∧ e.live = true))
     ∧ (∀ e, packetKind bs = 12 → Tab.find s.egresses h = some e → e.ctx = k → e.live = true → s.trBelow e.tray (wordAt bs 0x0C) e.e.toNat = true →
        (let r0 := s.trReleased e.tray
         let free := ((List.range (sub32 (wordAt bs 0x0C) r0 + 1)).map (fun d => (r0 + d) % 2 ^ 32)).filter (fun j =>
           e.recorded.contains (word j) && s.trState e.tray j == slotOpen)
         done (.egack r) 0 (word h) (fun m =>
           m.mem = (free.foldl (fun t j => t.releaseSlot e.tray j (c.hostRelease (k / 8) e.tray free)) c).mem
           ∧ Tab.find m.egresses h = some { e with recorded := e.recorded.filter (fun w => !free.contains w.toNat) })))))
  ∧ (∀ (s : State) (n : Nat) (e : Egress), Tab.find s.egresses n = some e → e.live = true → e.tray ∈ s.trays →
    s.trBelow e.tray e.e.toNat (s.trResolved e.tray) = true →
    (s.trState e.tray e.e.toNat = slotVetoed → ∃ t, exec (.egress n) s = .next t ∧ Tab.find t.egresses n = some { e with e := e.e + 1 }
        ∧ t.mem = (s.releaseSlot e.tray e.e.toNat (s.hostRelease (e.ctx / 8) e.tray [])).mem)
    ∧ (∀ bytes bad m, s.trState e.tray e.e.toNat ≠ slotVetoed → s.recordRoom e.ctx = true →
        s.readSlot (hostWalker s e.ctx) (s.slotAt e.tray e.e.toNat) (s.trSize e.tray / 16) = .bytes bytes bad m →
        (let off := e.e.toNat % s.trCount e.tray * s.trSize e.tray
         ∃ t n1, exec (.egress n) s = .next t
           ∧ Tab.find t.egresses n = some { e with e := e.e + 1, recorded := e.recorded ++ [e.e] }
           ∧ n1 = (m.endRels (hostLoc (e.buffer + off)) bytes.length).storeBytes (hostLoc (e.buffer + off)) bytes
           ∧ t.mem = (n1.record e.ctx 10 0 [word n, e.e, word off, word (s.trSize e.tray)]).mem)))

/-- O54. A change whose elements are out of use counts MAPV up by 1, changes the words that it names and those that follow from them
and no others, and is in the log, marked as a degradation where a word is worse; one whose elements are in use, or that leaves a
tile too few clusters or too low a floor, is not published. A power alarm sets a cluster's narrowed bit and narrows it. A scrub
finding records a bad symbol position, or retires the pseudo-channels. A scan of a cluster without an MCC at work that may be
drained drains it and suspends the gangs there; a pass gives the cluster the next mark; a failure retires it and makes its
completions suspect. That a change which leaves a tile too few clusters is not published is the model's choice, from R7 (log
129); so is what a failed scan leaves of the words of the cluster (log 102), and that its running grids stay unproofed and its
completions are kept as suspects (log 133). A demotion passes over a page that was used, clearing A, and sets M on one that was
not; a migration that is done has moved the page's bytes and rewritten its entry. -/
def Obligations.MapEventsChangeTheMap : Prop :=
  (∀ (s : State) (m : MapChange), s.MapOpen →
    (let ws := s.retireRows m.writes
     let may := (∀ w ∈ ws, mapListed w.1 = true ∧ w.1 ≠ 0 ∧ w.1 ≠ 3 ∧ s.outOfUse w.1 (s.mapWord w.1) w.2.toNat = true)
       ∧ s.staffed ws = true ∧ s.floorsKept ws = true
     (may → s.MapMoves ws → ∃ t, exec (.mapPublish m) s = .next t ∧ s.MapTo t ws)
     ∧ (¬ may → exec (.mapPublish m) s = .next s)))
  ∧ (∀ (s : State) (c : Nat) (on : Bool), c < 144 → s.clusterLive c = true → s.MapOpen → bit (s.clusterWord c) 9 ≠ on →
    ∃ t, exec (.narrowedMode c on) s = .next t ∧ s.MapTo t [(0x2000 + 8 * c, word (setField (s.clusterWord c) 9 9 (b2n on)))]
      ∧ bit (t.clusterWord c) 9 = on ∧ (t.cluster c).narrow = on)
  ∧ (∀ s : State, exec (.patrolScrub .clean) s = .next s)
  ∧ (∀ (s : State) (st rank pos pc : Nat) (l : List Nat), s.MapOpen → st < 8 →
    (rank < 5 → pos < 36 → bit (s.mapWord (0x3100 + 5 * st + rank)) 6 = false → bit (s.mapWord (0x3100 + 5 * st + rank)) 14 = false →
      ∃ t, exec (.patrolScrub (.symbol st rank pos l)) s = .next t ∧ field (t.mapWord (0x3100 + 5 * st + rank)) 6 0 = 64 + pos)
    ∧ (rank < 5 → pos < 36 → (∀ b, b = 0 ∨ b = 8 → bit (s.mapWord (0x3100 + 5 * st + rank)) (b + 6) = true
          ∧ field (s.mapWord (0x3100 + 5 * st + rank)) (b + 5) b ≠ pos) →
      ∃ t, exec (.patrolScrub (.symbol st rank pos l)) s = .next t
        ∧ ∀ n ∈ l, n < 384 → bit (t.mapWord (0x3000 + 12 * st + n / 32)) (n % 32) = true)
    ∧ (pc < 384 → ∃ t, exec (.patrolScrub (.failing st pc)) s = .next t
        ∧ bit (t.mapWord (0x3000 + 12 * st + pc / 32)) (pc % 32) = true))
  ∧ (∀ (s : State) (c : Nat), c < 144 → s.clusterLive c = true → Tab.find s.mccs c = none → s.mayDrain c = true → (∀ e ∈ s.clusters, e.2.scanning = false) →
    ((s.gangsOn c).foldl (fun t k => t.suspendGang k false) s).checked = false →
    ∃ t, exec (.scan c) s = .next t ∧ (t.cluster c).scanning = true ∧ (t.cluster c).proof = (s.cluster c).proof
      ∧ ∀ k ∈ s.gangsOn c, (s.gang k).done = false → (t.gang k).suspended = true)
  ∧ (∀ (s : State) (c : Nat), (s.cluster c).scanning = true →
    (∃ t, exec (.scanPass c) s = .next t ∧ (t.cluster c).scanning = false ∧ (t.cluster c).work = [] ∧ (t.cluster c).grids = []
      ∧ (t.cluster c).proof = (s.scanSeq + 1) % 2 ^ 24 ∧ t.scanSeq = (s.scanSeq + 1) % 2 ^ 24)
    ∧ (c < 144 → s.MapOpen → s.MapMoves (s.retireCluster c) → ∃ t, exec (.scanFail c) s = .next t ∧ s.MapTo t (s.retireCluster c)
        ∧ (t.cluster c).scanning = false ∧ (t.cluster c).work = []
        ∧ (t.cluster c).grids = (s.cluster c).grids.filter (fun g => !(s.grid g).complete) ∧ bit (t.mapWord (0x1000 + 8 * (c / 18))) (c % 18) = false
        ∧ (∀ w ∈ (s.cluster c).work, w ∈ t.suspects)))
  ∧ (∀ (s : State) (ctx va lvl loc e : Nat), s.leafAt ctx va = some (lvl, loc, e) → (s.ctx ctx).live = true →
    ((field e 4 2 = 0 ∧ (field e 53 52 = 1 ∨ field e 53 52 = 2)) ∨ (field e 4 2 = 1 ∧ field e 53 52 = 2)) →
    s.demotes (field e 4 2) = true → bit e 11 = false →
    (bit e 9 = true → exec (.demotion ctx va) s = .next (s.storeBytes loc (bytesLE 8 (setField e 9 9 0))))
    ∧ (bit e 9 = false → ∃ t, exec (.demotion ctx va) s = .next t ∧ t.migrations = s.migrations ++ [(ctx, va, field e 4 2 + 1, loc)]
        ∧ t.mem = (s.storeBytes loc (bytesLE 8 (setField e 11 11 1))).mem))
  ∧ (∀ (s : State) (ctx va frame loc e : Nat) (m : Nat × Nat × Nat × Nat), s.migrations.find? (fun m => m.1 == ctx && m.2.1 == va) = some m →
    s.leafAt ctx va = some (0, loc, e) → loc = m.2.2.2 → m.2.2.1 = 2 → bit e 11 = true → field e 4 2 < 2 →
    Memory.wf s.mem = true →
    (let old := (if field e 4 2 = 0 then hbmLoc (field e 51 12 * 2 ^ 12) else cxlLoc (field e 51 12 * 2 ^ 12))
     let new := hostLoc (frame * 2 ^ 12 % 2 ^ 52)
     (loc + 8 ≤ new ∨ new + 4096 ≤ loc) →
     ∃ t, exec (.migrationDone ctx va frame) s = .next t ∧ t.migrations = s.migrations.erase m
       ∧ (∀ j < 4096, Memory.read t.mem (new + j) = Memory.read s.mem (old + j))
       ∧ natLE (Memory.load t.mem loc 8) = setField (setField (setField e 4 2 2) 51 12 (frame % 2 ^ 40)) 11 11 0 % 2 ^ 64
       ∧ (∀ x ∈ t.tlb, x.loc ≠ loc)))

/-- O55. A link whose state changes changes its word and its peers': a LIVE peer without a link that is up becomes RECOVERING, and
one with such a link is LIVE unless it is LOST. A peer that has been RECOVERING for NIRTO cycles is LOST; PEERCLR makes a lost
peer absent. That a link's word and its peers' change in one publication is the model's choice (log 99). A peer's write inside
an open window is performed, and outside changes nothing; that it changes nothing on a sync-typed granule is the model's choice
(log 101). A band idle for longer than its timeout is gated, and no other band; the cadence that no reservation forbids is
written, and one that a reservation forbids is not; ballast rows change nothing but DEVNRG. PWRVOTE keeps bits [3:0]: on every
tile a partition with work or a reservation votes the greater of it and what its quotes need, and one without keeps a vote that
has not lapsed, which, with the level that it may rise to meanwhile, is the model's choice (log 130); the level that a ceiling
needs is free (log 107). BANDIDLE keeps bits [23:0]. -/
def Obligations.LinksPeersAndPowerAct : Prop :=
  (∀ (s : State) (n : Nat) (w : Word), n < 12 → s.MapOpen → w.toNat % 8 < 4 → w.toNat ≠ s.mapWord (0x4000 + n) →
    (let ws := (0x4000 + n, w) :: ([field (s.mapWord (0x4000 + n)) 31 24, field w.toNat 31 24].eraseDups).map (s.peerWord [(0x4000 + n, w)])
     ∃ t, exec (.linkStateChange (.port n) w) s = .next t ∧ s.MapTo t ws ∧ t.readMap 0 (0x4000 + n) = w
       ∧ ∀ node, node = field (s.mapWord (0x4000 + n)) 31 24 ∨ node = field w.toNat 31 24 →
           t.peerState node = (if s.peerState node = 3 then 3 else if s.reaching [(0x4000 + n, w)] node ≠ 0 then 1
             else if s.peerState node = 1 then 2 else s.peerState node)))
  ∧ (∀ (s : State) (tile : Nat) (w : Word), tile < 8 → s.MapOpen → s.MapMoves [(0x1000 + 8 * tile + 4, w)] →
    ∃ t, exec (.linkStateChange (.ucie tile) w) s = .next t ∧ s.MapTo t [(0x1000 + 8 * tile + 4, w)])
  ∧ (∀ (s : State) (node : Nat), node < 256 →
    (s.peerState node = 2 → (s.hubReg 0x4A4).toNat ≤ Tab.read s.recovering node 0 →
      (s.losePeer node).MapOpen → (s.losePeer node).peerState node = 2 →
      ∃ t, exec (.peerLost node) s = .next t ∧ t.peerState node = 3
        ∧ (s.losePeer node).MapTo t [(0x6000 + node, word (setField ((s.losePeer node).mapWord (0x6000 + node)) 1 0 3))])
    ∧ (s.peerState node = 3 → s.MapOpen → ∃ t, exec (.peerclr (word node)) s = .next t ∧ t.peerState node = 0 ∧ t.mapv = s.mapv + 1
        ∧ ∀ k, k ≠ 0 → k ≠ 1 → k ≠ 0x6000 + node → t.readMap 0 k = s.readMap 0 k)
    ∧ (s.peerState node ≠ 3 → exec (.peerclr (word node)) s = .next s))
  ∧ (∀ (s : State) (a : PeerAccess) (bs : List Byte), a.write = some bs → bs ≠ [] → s.peerState a.node = 1 → a.addr + bs.length ≤ 2 ^ 64 →
    (s.isSync a.addr bs.length = true → exec (.peerAccess a) s = .next s)
    ∧ (s.inWindow a.addr bs.length = true → s.hbmOk a.addr = true → s.hbmOk (a.addr + bs.length - 1) = true →
        s.isSync a.addr bs.length = false → ∃ t, exec (.peerAccess a) s = .next t ∧ Memory.load t.mem a.addr bs.length = bs
          ∧ ∀ b, b < a.addr ∨ a.addr + bs.length ≤ b → Memory.read t.mem b = Memory.read s.mem b)
    ∧ (s.inWindow a.addr bs.length = false → exec (.peerAccess a) s = .next s))
  ∧ (∀ (s : State) (c b : Nat), b < 4 → Tab.find s.mccs c = none → Tab.read (s.cluster c).idleLimit b 4096 ≠ 0 →
    Tab.read (s.cluster c).idleLimit b 4096 < Tab.read (s.cluster c).idle b 0 →
    ∃ t, exec (.bandGate c b) s = .next t ∧ bit (t.cluster c).awake b = false
      ∧ (∀ d, d ≠ b → bit (t.cluster c).awake d = bit (s.cluster c).awake d)
      ∧ t = s.setCluster c { s.cluster c with awake := (t.cluster c).awake })
  ∧ (∀ (s : State) (c cad : Nat), 1 ≤ cad → cad ≤ 16 →
    ((∀ r ∈ s.reservations, r.2.clusters.contains c = true → cad ≤ r.2.ceil) →
      exec (.cadenceChange c cad) s = .next (s.setCluster c { s.cluster c with cadence := cad }))
    ∧ ((∃ r ∈ s.reservations, r.2.clusters.contains c = true ∧ r.2.ceil < cad) → exec (.cadenceChange c cad) s = .next s))
  ∧ (∀ (s : State) (c bands : Nat), (∀ m, Tab.find s.mccs c = some m → ∀ q ∈ m.queue, q.mask &&& bands = 0) →
    ∃ t, exec (.ballastRow c bands) s = .next t ∧ t = { s with devnrg := t.devnrg, freeCtr := s.freeCtr + 1 })
  ∧ (∀ (s : State) (p : Nat) (v : Word), p < 8 → ∃ t, exec (.pwrvote p v) s = .next t
      ∧ t.hubReg (0x480 + 4 * p) = (s.hubReg (0x480 + 4 * p) &&& 0xFFFFFFF0) ||| (v &&& 0xF)
      ∧ t = { s with regs := t.regs, votes := t.votes, settle := t.settle }
      ∧ (∀ k, k ≠ 0x480 + 4 * p → Tab.find t.regs k = Tab.find s.regs k)
      ∧ (∀ tile < 8, ∀ q < 8,
          (let level := field (t.hubReg (0x480 + 4 * q)).toNat 3 0
           let old := Tab.read s.votes (8 * tile + q) 0
           Tab.read t.votes (8 * tile + q) 0
             = if s.worksOn q tile then max level (s.railNeed q tile) else if old = 0 then 0 else max old level)))
  ∧ (∀ (s : State) (v : Word), ∃ t, exec (.bandidle v) s = .next t ∧ t = { s with regs := t.regs }
      ∧ t.hubReg 0x10C = (s.hubReg 0x10C &&& 0xFF000000) ||| (v &&& 0xFFFFFF)
      ∧ ∀ k, k ≠ 0x10C → Tab.find t.regs k = Tab.find s.regs k)

/-- O56. SQTAIL behind SQHEAD is ignored; a write of one ahead stands. CQACK is written and the held records move on. QSTAT clears
what its bits name. QCFG of an enabled interface is ignored; en starts the sequences at 0. Clearing QPASID.valid, or the host's
stop, revokes the PASID. FNPART of a function with a running grid is ignored, and so is that of a function other than 0 after a
failed boot; else it takes effect in its contexts. A range register that would meet another partition's is ignored; one with a
field out of its range is ignored too, which is the model's choice (log 94); that a write which gives a partition its first
slots creates it, so that its counters start anew (R361), is the model's choice (log 160). An interrupt goes out once the delay
has elapsed. A function-level reset leaves the function's interfaces at reset and its contexts dead. That FNPART moves the
function's contexts, and that the reset empties their pool and tensor table, is the model's choice (log 92). An invalidation
with no combining update pending changes no byte, context or group. -/
def Obligations.QueueInterfacesObeyTheirRegisters : Prop :=
  ∀ (s : State) (r : QRef) (v : Word),
    (let k := qiKey r
     let q := s.qi k
     (2 ^ 31 ≤ (v - q.sqhead).toNat → exec (.sqtail r v) s = .next s)
     ∧ ((v - q.sqhead).toNat < 2 ^ 31 → s.consumes k = false →
          exec (.sqtail r v) s = .next (s.setQi k { q with sqtail := v }))
     ∧ (∃ t, exec (.cqack r v) s = .next t ∧ (t.qi k).cqack = v ∧ (q.held = [] → t = s.setQi k { q with cqack := v }))
     ∧ (bit v.toNat 0 = false → exec (.qstat r v) s = .next (s.setQi k
          (if bit v.toNat 2 then { q with drop := false, qdrop0 := 0, qdropn := 0 } else q)))
     ∧ (q.en = true → exec (.qcfg r v) s = .next s)
     ∧ (q.en = false → s.locked.contains r.fn = false → r.q < 8 → s.fnOn r.fn = false → bit v.toNat 16 = true →
          ∃ t, exec (.qcfg r v) s = .next t ∧ (t.qi k).en = true ∧ (t.qi k).sqtail = 0 ∧ (t.qi k).sqhead = 0 ∧ (t.qi k).cqseq = 0
            ∧ (t.qi k).cqack = 0
            ∧ (4 ≤ field v.toNat 4 0 → field v.toNat 4 0 ≤ 16 → (t.qi k).sqlog = field v.toNat 4 0)
            ∧ (4 ≤ field v.toNat 12 8 → field v.toNat 12 8 ≤ 16 → (t.qi k).cqlog = field v.toNat 12 8))
     ∧ (s.locked.contains r.fn = false → r.q < 8 → q.valid = true → s.fnOn r.fn = false → bit v.toNat 31 = false →
          ∃ t, exec (.qpasid r v) s = .next t ∧ (t.qi k).valid = false ∧ (t.qi k).revoked = true ∧ ∀ g ∈ s.gridsOf k, (t.grid g).halted = true)
     ∧ (q.valid = true → s.fnOn r.fn = false → r.q < 8 →
          ∃ t, exec (.pasidStop r) s = .next t ∧ (t.qi k).valid = false ∧ (t.qi k).revoked = true ∧ ∀ g ∈ s.gridsOf k, (t.grid g).halted = true)
     ∧ (0 < q.unreported → 0 < field q.qirq.toNat 30 16 → 1024 * field q.qirq.toNat 30 16 ≤ q.sinceFirst →
          ∃ t, exec (.interruptDelay r) s = .next t ∧ (t.qi k).unreported = 0 ∧ (t.qi k).sinceFirst = 0
            ∧ t.interrupts = s.interrupts ++ (if bit q.qirq.toNat 31 then [(k / 8, field q.qirq.toNat 5 0)] else [])
            ∧ t = { s with qis := t.qis, interrupts := t.interrupts })
     ∧ (∀ pages, (s.ctx k).live = true → s.coms = [] → (∀ e ∈ s.clusters, e.2.qnt = []) →
          ∃ t, exec (.atsInvalidation r v.toNat pages) s = .next t ∧ t.mem = s.mem ∧ t.ctxs = s.ctxs ∧ t.groups = s.groups))
    ∧ (∀ f, f < 32 → s.fnBusy f = true → exec (.fnpart f v) s = .next s)
    ∧ (∀ f, 1 ≤ f → f < 32 → s.bootFailed = true → s.qis = [] → ∃ t, exec (.fnpart f v) s = .next t ∧ t.regs = s.regs)
    ∧ (∀ f, f < 32 → s.fnBusy f = false → (s.bootFailed = false ∨ f = 0) → s.qis = [] → ∃ t, exec (.fnpart f v) s = .next t
        ∧ t.hubReg (0x500 + 4 * f) = (s.hubReg (0x500 + 4 * f) &&& 0xFFFFFFE0) ||| (v &&& 0x1F)
        ∧ t = { s with regs := t.regs, ctxs := t.ctxs } ∧ ∀ k, k / 8 = f → (Tab.find s.ctxs k).isSome = true → (t.ctx k).part = field v.toNat 3 0)
    ∧ (∀ p off, p < 8 → off = 0 ∨ off = 4 → (let n := (s.hubReg (0x400 + 16 * p + off) &&& ~~~ hubMask (0x400 + 16 * p + off)) |||
            (v &&& hubMask (0x400 + 16 * p + off))
          let t : State := { s with regs := Tab.put s.regs (0x400 + 16 * p + off) n }
          (t.rangesMeet p = true ∨ partitionOk off n = false → exec (.partitionRegisters p off v) s = .next s)
          ∧ (t.rangesMeet p = false → partitionOk off n = true → s.unheld t p = [] → (∀ e ∈ s.gangs, e.2.done = true) → (∀ e ∈ s.grids, e.2.quote = none) → s.quotes = [] → s.checked = false →
              exec (.partitionRegisters p off v) s = .next (if s.slotCount p = 0 ∧ 0 < t.slotCount p
                then { t with counters := t.counters.filter (fun e => e.1 / 65536 != p) } else t))))
    ∧ (∀ off, 0x2000 ≤ off → off < 0x3000 → off % 4 = 0 → exec (.registerWrite (.hub off) v) s
        = .next { s with regs := Tab.put s.regs off ((s.hubReg off &&& 0x7C007C00) ||| (v &&& 0x83FF83FF)) })
    ∧ (∀ f, ∃ t, exec (.flr f) s = .next t ∧ ∀ j < 8, t.qi (8 * f + j) = .reset ∧ (t.ctx (8 * f + j)).live = false
        ∧ (t.ctx (8 * f + j)).pool = [] ∧ (t.ctx (8 * f + j)).tensors = [] ∧ ∀ g ∈ s.gridsOf (8 * f + j), (t.grid g).complete = true)

/-- O57. A boot whose four stages verify, with a map that gives each live tile its clusters, ends with BOOTSTAT ok and stage 4, MAPV
1, cost version 1, the words of that map and those that follow from them, and the identifiers of its layers; a stage that fails
stops it, with its number and the reason, MAPV as it was, and no function but 0 enabled. Each SPDM request in its place is
answered, and changes nothing but the mailbox and the count of free values; one out of place is answered with an error. A
virtual function comes into the locked state, and out of it. The order and the codes of the messages are the model's (logs 46,
47); a map that leaves a tile fewer clusters than the spec gives it does not boot (log 129). -/
def Obligations.BootAndAttestation : Prop :=
  (∀ (s : State) (b : BootInput) (n : Nat), s.bootstat = 0 →
    (b.stages.length = 4 → (∀ g ∈ b.stages, g.digestOk = true ∧ g.signatureOk = true ∧ g.minVersion ≤ g.version) → s.qis = [] →
      (let ws := b.map.filter (fun e => mapListed e.1 && e.1 != 0 && e.1 != 3)
       let s0 : State := { s with mapv := 1 }
       s0.staffed ws = true →
      ∃ t, exec (.boot b) s = .next t ∧ t.bootstat = 12 ∧ t.mapv = 1 ∧ t.costv = 1 ∧ t.stages = b.stages.map (·.digest)
        ∧ ((ws.map (·.1)).Nodup → ∀ k, mapListed k = true → 0 < k → k ≠ 3 → t.readMap 0 k = Tab.read (s0.derived ws) k (s0.readMap 0 k))
        ∧ t.identities = layers romIdentity t.stages ∧ t.mem = s.mem ∧ t.grids = s.grids))
    ∧ (n < 4 → ∀ g, (∀ h ∈ b.stages.take n, h.digestOk = true ∧ h.signatureOk = true ∧ h.minVersion ≤ h.version) → n < b.stages.length →
        b.stages[n]? = some g → (g.digestOk = false ∨ g.signatureOk = false ∨ g.version < g.minVersion) →
        ∃ t, exec (.boot b) s = .next t ∧ t.mapv = s.mapv ∧ t.map = s.map ∧ bit t.bootstat.toNat 3 = false ∧ field t.bootstat.toNat 2 0 = n
          ∧ (∀ f, 1 ≤ f → f < 32 → bit (t.hubReg (0x500 + 4 * f)).toNat 4 = false)
          ∧ field t.bootstat.toNat 6 4 = n + 1 ∧ field t.bootstat.toNat 9 7 = (if g.digestOk = false then 2 else if g.signatureOk = false then 1 else 3)))
  ∧ (∀ (s : State) (msg : List Byte),
    (let answers := fun (i : Instr) (code : Nat) (post : State → Prop) => ∃ (t : State) (resp : List Byte), exec i s = .next t
       ∧ t = { s with spdm := t.spdm, freeCtr := t.freeCtr } ∧ t.spdm.responses = resp :: s.spdm.responses ∧ (resp.getD 1 0).toNat = code ∧ post t
     answers (.getVersion msg) 4 (fun t => t.spdm.version = true ∧ t.spdm.session = false)
     ∧ (s.spdm.version = true → answers (.getCapabilities msg) 0x61 (fun t => t.spdm.caps = true))
     ∧ (s.spdm.version = false → answers (.getCapabilities msg) 0x7F (fun t => t.spdm.caps = s.spdm.caps))
     ∧ (s.spdm.caps = true → answers (.negotiateAlgorithms msg) 0x63 (fun t => t.spdm.algs = true
          ∧ t.spdm.responses.head? = some ([0x13, 0x63, 0, 0] ++ algorithmBody)))
     ∧ (s.spdm.algs = true → answers (.getDigests msg) 1 (fun t => t.spdm.responses.head? = some ([0x13, 1, 1, 1] ++ sha3 s.chain)) ∧ answers (.getCertificate msg) 2 (fun _ => True)
          ∧ answers (.challenge msg) 3 (fun _ => True) ∧ answers (.keyExchange msg) 0x64 (fun t => t.spdm.exchanged = true)
          ∧ answers (.getMeasurements msg) 0x60 (fun t => ((msg.getD 3 0).toNat = 5 → bit (msg.getD 2 0).toNat 0 = false →
              t.spdm.responses.head? = some ([0x13, 0x60, 0, 0, 1, 5, 1] ++ bytesLE 2 (4 + s.mapDigest.length) ++ bytesLE 4 s.mapv ++ s.mapDigest))))
     ∧ (s.spdm.caps = false → answers (.negotiateAlgorithms msg) 0x7F (fun t => t.spdm.algs = s.spdm.algs))
     ∧ (s.spdm.algs = false → answers (.getDigests msg) 0x7F (fun _ => True) ∧ answers (.getCertificate msg) 0x7F (fun _ => True)
          ∧ answers (.challenge msg) 0x7F (fun _ => True) ∧ answers (.keyExchange msg) 0x7F (fun t => t.spdm.exchanged = s.spdm.exchanged)
          ∧ answers (.getMeasurements msg) 0x7F (fun _ => True))
     ∧ (s.spdm.exchanged = false → answers (.finish msg) 0x7F (fun t => t.spdm.session = s.spdm.session))
     ∧ (s.spdm.exchanged = true → answers (.finish msg) 0x65 (fun t => t.spdm.session = true))))
  ∧ (∀ (s : State) (f : Nat), 1 ≤ f → f < 32 →
    (∃ t, exec (.tdispProtocol f true) s = .next t ∧ f ∈ t.locked ∧ t = { s with locked := t.locked } ∧ ∀ g, g ≠ f → (g ∈ t.locked ↔ g ∈ s.locked))
    ∧ (∃ t, exec (.tdispProtocol f false) s = .next t ∧ f ∉ t.locked ∧ t = { s with locked := t.locked }
        ∧ ∀ g, g ≠ f → (g ∈ t.locked ↔ g ∈ s.locked)))

/-- O58. A record on an enabled interface takes the next sequence number d. With none held and d - CQACK at most 2^cqlog it is
written into entry d mod 2^cqlog, CQSEQ is d, and no other byte changes. Otherwise it is held while fewer than 64 are, and
changes nothing else; with 64 held it is dropped, but for an EGRESS record (kind 10), with DROP set, QDROP0 the first dropped
number and QDROPN counting. An EGRESS record is never dropped: an egress whose record could neither be written nor held does
nothing. -/
def Obligations.RecordsTakeTheirPlace : Prop :=
  (∀ (s : State) (k kind status : Nat) (payload : List Word), (s.qi k).en = true →
    (let q := s.qi k
     let d := (q.dseq + 1) % 2 ^ 32
     let bytes := recordBytes kind status q.sqhead.toNat d payload
     let at_ := hostLoc (q.cqbase + 32 * (d % 2 ^ q.cqlog))
     let t := s.record k kind status payload
     (t.qi k).dseq = d
     ∧ (q.held = [] → (d + 2 ^ 32 - q.cqack.toNat) % 2 ^ 32 ≤ 2 ^ q.cqlog →
        Memory.load t.mem at_ 32 = bytes ∧ bytes.length = 32 ∧ (t.qi k).cqseq = word d ∧ (t.qi k).held = []
        ∧ ∀ a, a < at_ ∨ at_ + 32 ≤ a → Memory.read t.mem a = Memory.read s.mem a)
     ∧ (¬ (q.held = [] ∧ (d + 2 ^ 32 - q.cqack.toNat) % 2 ^ 32 ≤ 2 ^ q.cqlog) → q.held.length < 64 → t = s.setQi k { q with dseq := d, held := q.held ++ [bytes] })
     ∧ (64 ≤ q.held.length → kind ≠ 10 →
        t = s.setQi k { q with dseq := d, drop := true, qdrop0 := if q.drop then q.qdrop0 else word d, qdropn := q.qdropn + 1 })))
  ∧ (∀ (s : State) (n : Nat) (e : Egress), Tab.find s.egresses n = some e → e.live = true → e.tray ∈ s.trays →
    s.trState e.tray e.e.toNat ≠ slotVetoed → s.recordRoom e.ctx = false → exec (.egress n) s = .next s)

/-- O59. After reset the memory is in canonical form and lists nothing; that memory reads 0 (log 6), and that MAPV and the map words
are 0 before boot (log 3), are the model's choices. No grid, group or context is there, the boot has not run, and the hub
registers and the queue registers have their reset values: TIER watermarks 0, BANDIDLE 4096, NIRTO 0x10000000, function 0
enabled and no other, sqlog and cqlog 4, one record an interrupt. -/
def Obligations.ResetLeavesTheSpecsValues : Prop :=
  Memory.wf State.reset.mem = true ∧ (∀ a, Memory.read State.reset.mem a = 0)
  ∧ State.reset.grids = [] ∧ State.reset.groups = [] ∧ State.reset.ctxs = [] ∧ State.reset.engines = [] ∧ State.reset.quotes = []
  ∧ State.reset.mapv = 0 ∧ (∀ k, State.reset.readMap 0 k = 0) ∧ State.reset.bootstat = 0 ∧ State.reset.checked = false
  ∧ State.reset.hubRead 0x10C = 4096 ∧ State.reset.hubRead 0x4A4 = 0x10000000 ∧ State.reset.hubRead 0x4A0 = 0
  ∧ State.reset.hubRead 0x500 = 0x10 ∧ (∀ f, 1 ≤ f → f < 32 → State.reset.hubRead (0x500 + 4 * f) = 0)
  ∧ (∀ j < 4, State.reset.hubRead (0x200 + 4 * j) = 0) ∧ (∀ p < 8, State.reset.hubRead (0x480 + 4 * p) = 0)
  ∧ ∀ k, State.reset.qi k = Qi.reset ∧ State.reset.qiRead k 0x10 = 0x404 ∧ State.reset.qiRead k 0x28 = 0x100
      ∧ ∀ off ∈ [0x00, 0x04, 0x08, 0x0C, 0x14, 0x18, 0x1C, 0x20, 0x24, 0x2C, 0x30, 0x34], State.reset.qiRead k off = 0

/-- O60. From every state whose memory has its addresses strictly rising and lists no byte of value 0, whatever the step is, the
memory of the next state has that form too: equal memories stay equal data. -/
def Obligations.MemoryStaysCanonical : Prop :=
  ∀ s t : State, Memory.wf s.mem = true → step s = .next t → Memory.wf t.mem = true
end

