-- ==== Sys2Proof/Laws/Memory.lean ====
section
/-! SUPPORT. Laws of memory: every operation keeps the canonical form, a read after a write gives the value written, and a
write leaves every other location alone. -/
namespace Sys2Proof.Machine.Memory

/-- Every cell listed lies at or beyond `a`, or beyond all cells: the lower bound of a memory in canonical form. -/
def above (a : Nat) (m : List Host.Cell) : Prop := ∀ c ∈ m, a < c.1

theorem wf_cons {c : Host.Cell} {m : List Host.Cell} : wf (c :: m) = true ↔ c.2 ≠ 0 ∧ above c.1 m ∧ wf m = true := by
  induction m generalizing c with
  | nil => simp [wf, above]
  | cons d t ih =>
    constructor
    · intro h
      simp only [wf, Bool.and_eq_true, bne_iff_ne, decide_eq_true_eq] at h
      refine ⟨h.1.1, ?_, h.2⟩
      intro e he
      cases he with
      | head => exact h.1.2
      | tail _ he => exact Nat.lt_trans h.1.2 ((ih.1 h.2).2.1 e he)
    · rintro ⟨h0, h1, h2⟩
      simp only [wf, Bool.and_eq_true, bne_iff_ne, decide_eq_true_eq]
      exact ⟨⟨h0, h1 d (List.mem_cons_self ..)⟩, h2⟩

theorem wf_nil : wf [] = true := rfl

/-- A part of a memory in canonical form, chosen by address or value, is in canonical form. -/
theorem wf_filter (p : Host.Cell → Bool) (m : List Host.Cell) (h : wf m = true) : wf (m.filter p) = true := by
  induction m with
  | nil => rfl
  | cons c t ih =>
    have hc := wf_cons.1 h
    by_cases hp : p c = true
    · rw [List.filter_cons_of_pos hp]
      exact wf_cons.2 ⟨hc.1, fun d hd => hc.2.1 d ((List.mem_filter.1 hd).1), ih hc.2.2⟩
    · rw [List.filter_cons_of_neg hp]; exact ih hc.2.2

theorem mem_insert {m : List Host.Cell} {a : Nat} {v : Byte} {d : Host.Cell} (h : d ∈ insert m a v) : d = (a, v) ∨ d ∈ m := by
  induction m with
  | nil => simpa [insert] using h
  | cons c t ih =>
    simp only [insert] at h
    split at h
    · simpa using h
    · rcases List.mem_cons.1 h with h | h
      · exact .inr (List.mem_cons.2 (.inl h))
      · rcases ih h with h | h
        · exact .inl h
        · exact .inr (List.mem_cons_of_mem _ h)

theorem wf_insert (m : List Host.Cell) (a : Nat) (v : Byte) (h : wf m = true) (hv : v ≠ 0) (ha : ∀ c ∈ m, c.1 ≠ a) :
    wf (insert m a v) = true := by
  induction m with
  | nil => simpa [insert, wf] using hv
  | cons c t ih =>
    have hc := wf_cons.1 h
    simp only [insert]
    split
    · rename_i hlt
      refine wf_cons.2 ⟨hv, ?_, h⟩
      intro d hd
      rcases List.mem_cons.1 hd with hd | hd
      · subst hd; exact hlt
      · exact Nat.lt_trans hlt (hc.2.1 d hd)
    · rename_i hnl
      refine wf_cons.2 ⟨hc.1, ?_, ih hc.2.2 (fun d hd => ha d (List.mem_cons_of_mem _ hd))⟩
      intro d hd
      rcases mem_insert hd with hd | hd
      · subst hd
        have := ha c (List.mem_cons_self ..)
        show c.1 < a
        omega
      · exact hc.2.1 d hd

theorem clear_ne (m : List Host.Cell) (a : Nat) : ∀ c ∈ clear m a, c.1 ≠ a := by
  intro c hc
  simpa [clear] using (List.mem_filter.1 hc).2

/-- A write keeps the canonical form. -/
theorem wf_write (m : List Host.Cell) (a : Nat) (v : Byte) (h : wf m = true) : wf (write m a v) = true := by
  unfold write
  split
  · exact wf_filter _ _ h
  · exact wf_insert _ _ _ (wf_filter _ _ h) ‹_› (clear_ne m a)

/-- A store of bytes keeps the canonical form. -/
theorem wf_store (bs : List Byte) (m : List Host.Cell) (a : Nat) (h : wf m = true) : wf (store m a bs) = true := by
  induction bs generalizing m a with
  | nil => exact h
  | cons b bs ih => exact ih _ _ (wf_write _ _ _ h)

/-- Zeroing a range keeps the canonical form. -/
theorem wf_zero (m : List Host.Cell) (a n : Nat) (h : wf m = true) : wf (zero m a n) = true := wf_filter _ _ h

/-- Forgetting chosen locations keeps the canonical form. -/
theorem wf_drop (m : List Host.Cell) (p : Nat → Bool) (h : wf m = true) : wf (drop m p) = true := wf_filter _ _ h

theorem read_cons (c : Host.Cell) (m : List Host.Cell) (b : Nat) : read (c :: m) b = if c.1 = b then c.2 else read m b := by
  unfold read
  by_cases h : c.1 = b <;> simp [h]

theorem read_insert (m : List Host.Cell) (a b : Nat) (v : Byte) (ha : ∀ c ∈ m, c.1 ≠ a) :
    read (insert m a v) b = if b = a then v else read m b := by
  induction m with
  | nil => 
    simp only [insert, read_cons]
    by_cases h : a = b
    · simp [h]
    · simp [h, Ne.symm h]
  | cons c t ih =>
    simp only [insert]
    split
    · rw [read_cons]
      by_cases h : a = b
      · simp [h]
      · simp [h, Ne.symm h]
    · rw [read_cons, read_cons, ih (fun d hd => ha d (List.mem_cons_of_mem _ hd))]
      have := ha c (List.mem_cons_self ..)
      by_cases hb : b = a
      · subst hb; simp [this]
      · simp [hb]

theorem read_filter (p : Nat → Bool) (m : List Host.Cell) (b : Nat) :
    read (m.filter (fun c => p c.1)) b = if p b then read m b else 0 := by
  induction m with
  | nil => cases p b <;> rfl
  | cons c t ih =>
    by_cases hp : p c.1 = true
    · rw [show (c :: t).filter (fun c => p c.1) = c :: t.filter (fun c => p c.1) by simp [hp], read_cons, read_cons, ih]
      by_cases h : c.1 = b
      · subst h; simp [hp]
      · simp [h]
    · rw [show (c :: t).filter (fun c => p c.1) = t.filter (fun c => p c.1) by simp [hp], read_cons, ih]
      by_cases h : c.1 = b
      · subst h; simp [hp]
      · simp [h]

/-- A read after a write of one byte, at any location. -/
theorem read_write (m : List Host.Cell) (a b : Nat) (v : Byte) : read (write m a v) b = if b = a then v else read m b := by
  have hc : read (clear m a) b = if b = a then 0 else read m b := by
    have := read_filter (fun x => x != a) m b
    simp only [bne_iff_ne, ne_eq] at this
    by_cases h : b = a <;> simpa [clear, h] using this
  unfold write
  split
  · rename_i hv
    rw [hc, hv]
  · rw [read_insert _ _ _ _ (clear_ne m a), hc]
    by_cases h : b = a <;> simp [h]

@[simp] theorem read_write_self (m : List Host.Cell) (a : Nat) (v : Byte) : read (write m a v) a = v := by simp [read_write]

theorem read_write_of_ne (m : List Host.Cell) (a b : Nat) (v : Byte) (h : b ≠ a) : read (write m a v) b = read m b := by
  simp [read_write, h]

/-- A read after a store of bytes: the byte stored where the store went, the byte that was there everywhere else. -/
theorem read_store (bs : List Byte) (m : List Host.Cell) (a b : Nat) :
    read (store m a bs) b = if a ≤ b ∧ b < a + bs.length then bs.getD (b - a) 0 else read m b := by
  induction bs generalizing m a with
  | nil =>
    have : ¬ (a ≤ b ∧ b < a + ([] : List Byte).length) := by
      rw [List.length_nil]
      omega
    rw [if_neg this]
    rfl
  | cons x bs ih =>
    simp only [store, ih, read_write, List.length_cons]
    by_cases h : b = a
    · subst h
      have h1 : ¬ (b + 1 ≤ b ∧ b < b + 1 + bs.length) := by omega
      have h2 : b ≤ b ∧ b < b + (bs.length + 1) := by omega
      rw [if_neg h1, if_pos rfl, if_pos h2, Nat.sub_self]
      rfl
    · by_cases h1 : a + 1 ≤ b ∧ b < a + 1 + bs.length
      · have h2 : a ≤ b ∧ b < a + (bs.length + 1) := by omega
        rw [if_pos h1, if_pos h2, show b - a = (b - (a + 1)) + 1 by omega]
        simp
      · have h2 : ¬ (a ≤ b ∧ b < a + (bs.length + 1)) := by omega
        rw [if_neg h1, if_neg h2, if_neg h]

theorem read_store_of_out (m : List Host.Cell) (a b : Nat) (bs : List Byte) (h : b < a ∨ a + bs.length ≤ b) :
    read (store m a bs) b = read m b := by
  rw [read_store, if_neg (by omega)]

@[simp] theorem load_length (m : List Host.Cell) (a n : Nat) : (load m a n).length = n := by simp [load]

/-- A load of what was stored there gives it back. -/
theorem load_store (m : List Host.Cell) (a : Nat) (bs : List Byte) : load (store m a bs) a bs.length = bs := by
  apply List.ext_getElem (by simp)
  intro k h1 h2
  simp [load, read_store, h2]

/-- A load beside a store is the load before it. -/
theorem load_store_of_out (m : List Host.Cell) (a b n : Nat) (bs : List Byte) (h : b + n ≤ a ∨ a + bs.length ≤ b) :
    load (store m a bs) b n = load m b n := by
  unfold load
  apply List.map_congr_left
  intro k hk
  rw [read_store_of_out]
  have := List.mem_range.1 hk
  omega

/-- A read after zeroing a range. -/
theorem read_zero (m : List Host.Cell) (a n b : Nat) : read (zero m a n) b = if a ≤ b ∧ b < a + n then 0 else read m b := by
  have := read_filter (fun x => decide (x < a) || decide (a + n ≤ x)) m b
  unfold zero
  rw [this]
  by_cases h : a ≤ b ∧ b < a + n
  · have h1 : ¬ b < a := by omega
    have h2 : ¬ a + n ≤ b := by omega
    simp [h, h1, h2]
  · have h1 : b < a ∨ a + n ≤ b := by omega
    simp [h, h1]

end Sys2Proof.Machine.Memory
end

