-- ==== Sys2Proof/Laws/Tab.lean ====
section
/-! SUPPORT. Laws of the plain data: tables by number, the lanes of a group, lane masks. -/
namespace Sys2Proof.Machine

variable {α : Type}

@[simp] theorem Tab.find_put_self (t : Tab α) (k : Nat) (v : α) : Tab.find (Tab.put t k v) k = some v := by
  induction t with
  | nil => simp [Tab.put, Tab.find]
  | cons e t ih =>
    obtain ⟨j, w⟩ := e
    by_cases h : j = k <;> simp [Tab.put, Tab.find, h, ih]

theorem Tab.find_put_of_ne (t : Tab α) (k j : Nat) (v : α) (h : j ≠ k) : Tab.find (Tab.put t k v) j = Tab.find t j := by
  induction t with
  | nil => simp [Tab.put, Tab.find, Ne.symm h]
  | cons e t ih =>
    obtain ⟨i, w⟩ := e
    by_cases hi : i = k
    · subst hi; simp [Tab.put, Tab.find, Ne.symm h]
    · by_cases hj : i = j
      · subst hj; simp [Tab.put, Tab.find, hi]
      · simp [Tab.put, Tab.find, hi, hj, ih]

/-- A read after a write, at any key. -/
theorem Tab.find_put (t : Tab α) (k j : Nat) (v : α) : Tab.find (Tab.put t k v) j = if j = k then some v else Tab.find t j := by
  by_cases h : j = k
  · subst h; simp
  · simp [h, Tab.find_put_of_ne t k j v h]

@[simp] theorem Tab.read_put_self (t : Tab α) (k : Nat) (v d : α) : Tab.read (Tab.put t k v) k d = v := by simp [Tab.read]

theorem Tab.read_put_of_ne (t : Tab α) (k j : Nat) (v d : α) (h : j ≠ k) : Tab.read (Tab.put t k v) j d = Tab.read t j d := by
  simp [Tab.read, Tab.find_put_of_ne t k j v h]

theorem Tab.read_put (t : Tab α) (k j : Nat) (v d : α) : Tab.read (Tab.put t k v) j d = if j = k then v else Tab.read t j d := by
  by_cases h : j = k
  · subst h; simp
  · simp [h, Tab.read_put_of_ne t k j v d h]

/-- The last write of a key stands. -/
@[simp] theorem Tab.put_put (t : Tab α) (k : Nat) (v w : α) : Tab.put (Tab.put t k v) k w = Tab.put t k w := by
  induction t with
  | nil => simp [Tab.put]
  | cons e t ih =>
    obtain ⟨j, u⟩ := e
    by_cases h : j = k <;> simp [Tab.put, h, ih]

@[simp] theorem Tab.find_del_self (t : Tab α) (k : Nat) : Tab.find (Tab.del t k) k = none := by
  induction t with
  | nil => rfl
  | cons e t ih =>
    obtain ⟨j, w⟩ := e
    by_cases h : j = k
    · simpa [Tab.del, h] using ih
    · simpa [Tab.del, Tab.find, h] using ih

theorem Tab.find_del_of_ne (t : Tab α) (k j : Nat) (h : j ≠ k) : Tab.find (Tab.del t k) j = Tab.find t j := by
  induction t with
  | nil => rfl
  | cons e t ih =>
    obtain ⟨i, w⟩ := e
    by_cases hi : i = k
    · subst hi
      rw [show Tab.find ((i, w) :: t) j = Tab.find t j by simp [Tab.find, Ne.symm h], ← ih]
      simp [Tab.del]
    · by_cases hj : i = j
      · subst hj; simp [Tab.del, hi, Tab.find]
      · rw [show Tab.find ((i, w) :: t) j = Tab.find t j by simp [Tab.find, hj], ← ih]
        simp [Tab.del, hi, Tab.find, hj]

/-- An update changes the entry of its key, and no other. -/
theorem Tab.find_upd (t : Tab α) (k j : Nat) (f : α → α) :
    Tab.find (Tab.upd t k f) j = if j = k then (Tab.find t j).map f else Tab.find t j := by
  induction t with
  | nil => by_cases h : j = k <;> simp [Tab.upd, Tab.find, h]
  | cons e t ih =>
    obtain ⟨i, w⟩ := e
    simp only [Tab.upd, List.map_cons] at ih ⊢
    by_cases hi : i = k <;> by_cases hj : i = j
    · subst hi; subst hj; simp [Tab.find]
    · subst hi; simp [Tab.find, hj, ih]
    · subst hj; simp [Tab.find, hi]
    · simp [Tab.find, hi, hj, ih]

@[simp] theorem lanesOf_at (f : Nat → Word) (l : Nat) (h : l < 32) : (lanesOf f).at l = f l := by
  simp [lanesOf, Lanes.at, lanes, List.getD, h]

theorem lanesOf_at_of_ge (f : Nat → Word) (l : Nat) (h : 32 ≤ l) : (lanesOf f).at l = 0 := by
  simp [lanesOf, Lanes.at, lanes, List.getD, Nat.not_lt.mpr h]

/-- A lane mask holds the lanes of its predicate. -/
theorem maskOver_range (p : Nat → Bool) (n k l : Nat) :
    (maskOver (List.range' k n) p).testBit (k + l) = (decide (l < n) && p (k + l))
      ∧ maskOver (List.range' k n) p % 2 ^ k = 0 := by
  induction n generalizing k l with
  | zero => simp [maskOver, List.range']
  | succ n ih =>
    rw [List.range'_succ, maskOver]
    obtain ⟨m, hm⟩ : ∃ m, maskOver (List.range' (k + 1) n) p = 2 ^ k * (2 * m) :=
      ⟨_, by rw [← Nat.mul_assoc, ← Nat.pow_succ]; exact (Nat.mul_div_cancel' (Nat.dvd_of_mod_eq_zero (ih (k + 1) 0).2)).symm⟩
    have he : b2n (p k) * 2 ^ k + maskOver (List.range' (k + 1) n) p = 2 ^ k * (b2n (p k) + 2 * m) := by
      rw [hm, Nat.mul_add, Nat.mul_comm]
    refine ⟨?_, by rw [he]; exact Nat.mul_mod_right _ _⟩
    have hb : b2n (p k) ≤ 1 := by cases p k <;> decide
    rw [he, Nat.testBit_two_pow_mul, show k + l - k = l by omega]
    cases l with
    | zero =>
      rw [Nat.testBit_zero, show (b2n (p k) + 2 * m) % 2 = b2n (p k) by omega]
      cases p k <;> simp [b2n]
    | succ l =>
      have h1 := (ih (k + 1) l).1
      rw [hm, show k + 1 + l = k + (l + 1) by omega, Nat.testBit_two_pow_mul, show k + (l + 1) - k = l + 1 by omega,
        Nat.testBit_succ, show 2 * m / 2 = m by omega] at h1
      rw [Nat.testBit_succ, show (b2n (p k) + 2 * m) / 2 = m by omega]
      simpa using h1

/-- A mask made of a predicate holds the lanes of the predicate. -/
theorem has_maskOf (p : Nat → Bool) (l : Nat) : Word.has (maskOf p) l = (decide (l < 32) && p l) := by
  have h := (maskOver_range p 32 0 l).1
  rw [Nat.zero_add] at h
  simp only [Word.has, maskOf, word, BitVec.getLsbD_ofNat, lanes, List.range_eq_range', h]
  by_cases h : l < 32 <;> simp [h]

end Sys2Proof.Machine
end

