-- ==== Sys2Proof/Laws/State.lean ====
section
/-! SUPPORT. One lemma for each field of the state and each update of a table of it: what the update writes, and that it leaves
every other field as it was. -/
namespace Sys2Proof.Machine

@[simp] theorem State.setGroup_groups (s : State) (k : Nat) (v : Group) : (s.setGroup k v).groups = Tab.put s.groups k v := rfl
@[simp] theorem State.setGroup_turn (s : State) (k : Nat) (v : Group) : (s.setGroup k v).turn = s.turn := rfl
@[simp] theorem State.setGroup_agenda (s : State) (k : Nat) (v : Group) : (s.setGroup k v).agenda = s.agenda := rfl
@[simp] theorem State.setGroup_freeCtr (s : State) (k : Nat) (v : Group) : (s.setGroup k v).freeCtr = s.freeCtr := rfl
@[simp] theorem State.setGroup_hub (s : State) (k : Nat) (v : Group) : (s.setGroup k v).hub = s.hub := rfl
@[simp] theorem State.setGroup_mapv (s : State) (k : Nat) (v : Group) : (s.setGroup k v).mapv = s.mapv := rfl
@[simp] theorem State.setGroup_map (s : State) (k : Nat) (v : Group) : (s.setGroup k v).map = s.map := rfl
@[simp] theorem State.setGroup_mapLog (s : State) (k : Nat) (v : Group) : (s.setGroup k v).mapLog = s.mapLog := rfl
@[simp] theorem State.setGroup_costs (s : State) (k : Nat) (v : Group) : (s.setGroup k v).costs = s.costs := rfl
@[simp] theorem State.setGroup_costv (s : State) (k : Nat) (v : Group) : (s.setGroup k v).costv = s.costv := rfl
@[simp] theorem State.setGroup_rev (s : State) (k : Nat) (v : Group) : (s.setGroup k v).rev = s.rev := rfl
@[simp] theorem State.setGroup_bootstat (s : State) (k : Nat) (v : Group) : (s.setGroup k v).bootstat = s.bootstat := rfl
@[simp] theorem State.setGroup_stages (s : State) (k : Nat) (v : Group) : (s.setGroup k v).stages = s.stages := rfl
@[simp] theorem State.setGroup_identities (s : State) (k : Nat) (v : Group) : (s.setGroup k v).identities = s.identities := rfl
@[simp] theorem State.setGroup_regs (s : State) (k : Nat) (v : Group) : (s.setGroup k v).regs = s.regs := rfl
@[simp] theorem State.setGroup_devnrg (s : State) (k : Nat) (v : Group) : (s.setGroup k v).devnrg = s.devnrg := rfl
@[simp] theorem State.setGroup_mem (s : State) (k : Nat) (v : Group) : (s.setGroup k v).mem = s.mem := rfl
@[simp] theorem State.setGroup_poison (s : State) (k : Nat) (v : Group) : (s.setGroup k v).poison = s.poison := rfl
@[simp] theorem State.setGroup_sync (s : State) (k : Nat) (v : Group) : (s.setGroup k v).sync = s.sync := rfl
@[simp] theorem State.setGroup_trays (s : State) (k : Nat) (v : Group) : (s.setGroup k v).trays = s.trays := rfl
@[simp] theorem State.setGroup_users (s : State) (k : Nat) (v : Group) : (s.setGroup k v).users = s.users := rfl
@[simp] theorem State.setGroup_bars (s : State) (k : Nat) (v : Group) : (s.setGroup k v).bars = s.bars := rfl
@[simp] theorem State.setGroup_fills (s : State) (k : Nat) (v : Group) : (s.setGroup k v).fills = s.fills := rfl
@[simp] theorem State.setGroup_proofed (s : State) (k : Nat) (v : Group) : (s.setGroup k v).proofed = s.proofed := rfl
@[simp] theorem State.setGroup_vetoed (s : State) (k : Nat) (v : Group) : (s.setGroup k v).vetoed = s.vetoed := rfl
@[simp] theorem State.setGroup_tlb (s : State) (k : Nat) (v : Group) : (s.setGroup k v).tlb = s.tlb := rfl
@[simp] theorem State.setGroup_checkedAreas (s : State) (k : Nat) (v : Group) : (s.setGroup k v).checkedAreas = s.checkedAreas := rfl
@[simp] theorem State.setGroup_decoders (s : State) (k : Nat) (v : Group) : (s.setGroup k v).decoders = s.decoders := rfl
@[simp] theorem State.setGroup_atsDenied (s : State) (k : Nat) (v : Group) : (s.setGroup k v).atsDenied = s.atsDenied := rfl
@[simp] theorem State.setGroup_peerDenied (s : State) (k : Nat) (v : Group) : (s.setGroup k v).peerDenied = s.peerDenied := rfl
@[simp] theorem State.setGroup_epochs (s : State) (k : Nat) (v : Group) : (s.setGroup k v).epochs = s.epochs := rfl
@[simp] theorem State.setGroup_slotRel (s : State) (k : Nat) (v : Group) : (s.setGroup k v).slotRel = s.slotRel := rfl
@[simp] theorem State.setGroup_stamps (s : State) (k : Nat) (v : Group) : (s.setGroup k v).stamps = s.stamps := rfl
@[simp] theorem State.setGroup_rels (s : State) (k : Nat) (v : Group) : (s.setGroup k v).rels = s.rels := rfl
@[simp] theorem State.setGroup_coms (s : State) (k : Nat) (v : Group) : (s.setGroup k v).coms = s.coms := rfl
@[simp] theorem State.setGroup_posted (s : State) (k : Nat) (v : Group) : (s.setGroup k v).posted = s.posted := rfl
@[simp] theorem State.setGroup_clusters (s : State) (k : Nat) (v : Group) : (s.setGroup k v).clusters = s.clusters := rfl
@[simp] theorem State.setGroup_mccs (s : State) (k : Nat) (v : Group) : (s.setGroup k v).mccs = s.mccs := rfl
@[simp] theorem State.setGroup_stores (s : State) (k : Nat) (v : Group) : (s.setGroup k v).stores = s.stores := rfl
@[simp] theorem State.setGroup_teams (s : State) (k : Nat) (v : Group) : (s.setGroup k v).teams = s.teams := rfl
@[simp] theorem State.setGroup_gangs (s : State) (k : Nat) (v : Group) : (s.setGroup k v).gangs = s.gangs := rfl
@[simp] theorem State.setGroup_grids (s : State) (k : Nat) (v : Group) : (s.setGroup k v).grids = s.grids := rfl
@[simp] theorem State.setGroup_packets (s : State) (k : Nat) (v : Group) : (s.setGroup k v).packets = s.packets := rfl
@[simp] theorem State.setGroup_engines (s : State) (k : Nat) (v : Group) : (s.setGroup k v).engines = s.engines := rfl
@[simp] theorem State.setGroup_ctxs (s : State) (k : Nat) (v : Group) : (s.setGroup k v).ctxs = s.ctxs := rfl
@[simp] theorem State.setGroup_quotes (s : State) (k : Nat) (v : Group) : (s.setGroup k v).quotes = s.quotes := rfl
@[simp] theorem State.setGroup_reservations (s : State) (k : Nat) (v : Group) : (s.setGroup k v).reservations = s.reservations := rfl
@[simp] theorem State.setGroup_walks (s : State) (k : Nat) (v : Group) : (s.setGroup k v).walks = s.walks := rfl
@[simp] theorem State.setGroup_nextQid (s : State) (k : Nat) (v : Group) : (s.setGroup k v).nextQid = s.nextQid := rfl
@[simp] theorem State.setGroup_nextGrid (s : State) (k : Nat) (v : Group) : (s.setGroup k v).nextGrid = s.nextGrid := rfl
@[simp] theorem State.setGroup_nextGang (s : State) (k : Nat) (v : Group) : (s.setGroup k v).nextGang = s.nextGang := rfl
@[simp] theorem State.setGroup_nextPacket (s : State) (k : Nat) (v : Group) : (s.setGroup k v).nextPacket = s.nextPacket := rfl
@[simp] theorem State.setGroup_nextEgress (s : State) (k : Nat) (v : Group) : (s.setGroup k v).nextEgress = s.nextEgress := rfl
@[simp] theorem State.setGroup_nextReservation (s : State) (k : Nat) (v : Group) : (s.setGroup k v).nextReservation = s.nextReservation := rfl
@[simp] theorem State.setGroup_completions (s : State) (k : Nat) (v : Group) : (s.setGroup k v).completions = s.completions := rfl
@[simp] theorem State.setGroup_finals (s : State) (k : Nat) (v : Group) : (s.setGroup k v).finals = s.finals := rfl
@[simp] theorem State.setGroup_suspects (s : State) (k : Nat) (v : Group) : (s.setGroup k v).suspects = s.suspects := rfl
@[simp] theorem State.setGroup_scanSeq (s : State) (k : Nat) (v : Group) : (s.setGroup k v).scanSeq = s.scanSeq := rfl
@[simp] theorem State.setGroup_counters (s : State) (k : Nat) (v : Group) : (s.setGroup k v).counters = s.counters := rfl
@[simp] theorem State.setGroup_qis (s : State) (k : Nat) (v : Group) : (s.setGroup k v).qis = s.qis := rfl
@[simp] theorem State.setGroup_egresses (s : State) (k : Nat) (v : Group) : (s.setGroup k v).egresses = s.egresses := rfl
@[simp] theorem State.setGroup_interrupts (s : State) (k : Nat) (v : Group) : (s.setGroup k v).interrupts = s.interrupts := rfl
@[simp] theorem State.setGroup_votes (s : State) (k : Nat) (v : Group) : (s.setGroup k v).votes = s.votes := rfl
@[simp] theorem State.setGroup_settle (s : State) (k : Nat) (v : Group) : (s.setGroup k v).settle = s.settle := rfl
@[simp] theorem State.setGroup_recovering (s : State) (k : Nat) (v : Group) : (s.setGroup k v).recovering = s.recovering := rfl
@[simp] theorem State.setGroup_locked (s : State) (k : Nat) (v : Group) : (s.setGroup k v).locked = s.locked := rfl
@[simp] theorem State.setGroup_spdm (s : State) (k : Nat) (v : Group) : (s.setGroup k v).spdm = s.spdm := rfl
@[simp] theorem State.setGroup_migrations (s : State) (k : Nat) (v : Group) : (s.setGroup k v).migrations = s.migrations := rfl
@[simp] theorem State.setGroup_checked (s : State) (k : Nat) (v : Group) : (s.setGroup k v).checked = s.checked := rfl
@[simp] theorem State.setGroup_gang (s : State) (k j : Nat) (v : Group) : (s.setGroup k v).gang j = s.gang j := rfl
@[simp] theorem State.setGroup_grid (s : State) (k j : Nat) (v : Group) : (s.setGroup k v).grid j = s.grid j := rfl
@[simp] theorem State.setGroup_team (s : State) (k j : Nat) (v : Group) : (s.setGroup k v).team j = s.team j := rfl
@[simp] theorem State.setGroup_ctx (s : State) (k j : Nat) (v : Group) : (s.setGroup k v).ctx j = s.ctx j := rfl
@[simp] theorem State.setGroup_cluster (s : State) (k j : Nat) (v : Group) : (s.setGroup k v).cluster j = s.cluster j := rfl
@[simp] theorem State.setGroup_engine (s : State) (k j : Nat) (v : Group) : (s.setGroup k v).engine j = s.engine j := rfl
@[simp] theorem State.setGroup_qi (s : State) (k j : Nat) (v : Group) : (s.setGroup k v).qi j = s.qi j := rfl
theorem State.group_setGroup (s : State) (k j : Nat) (v : Group) : (s.setGroup k v).group j = if j = k then some v else s.group j :=
  Tab.find_put s.groups k j v
@[simp] theorem State.group_setGroup_self (s : State) (k : Nat) (v : Group) : (s.setGroup k v).group k = some v :=
  Tab.find_put_self s.groups k v
@[simp] theorem State.setGroup_setGroup (s : State) (k : Nat) (v w : Group) : (s.setGroup k v).setGroup k w = s.setGroup k w := by
  simp [State.setGroup]

@[simp] theorem State.setGang_gangs (s : State) (k : Nat) (v : Gang) : (s.setGang k v).gangs = Tab.put s.gangs k v := rfl
@[simp] theorem State.setGang_turn (s : State) (k : Nat) (v : Gang) : (s.setGang k v).turn = s.turn := rfl
@[simp] theorem State.setGang_agenda (s : State) (k : Nat) (v : Gang) : (s.setGang k v).agenda = s.agenda := rfl
@[simp] theorem State.setGang_freeCtr (s : State) (k : Nat) (v : Gang) : (s.setGang k v).freeCtr = s.freeCtr := rfl
@[simp] theorem State.setGang_hub (s : State) (k : Nat) (v : Gang) : (s.setGang k v).hub = s.hub := rfl
@[simp] theorem State.setGang_mapv (s : State) (k : Nat) (v : Gang) : (s.setGang k v).mapv = s.mapv := rfl
@[simp] theorem State.setGang_map (s : State) (k : Nat) (v : Gang) : (s.setGang k v).map = s.map := rfl
@[simp] theorem State.setGang_mapLog (s : State) (k : Nat) (v : Gang) : (s.setGang k v).mapLog = s.mapLog := rfl
@[simp] theorem State.setGang_costs (s : State) (k : Nat) (v : Gang) : (s.setGang k v).costs = s.costs := rfl
@[simp] theorem State.setGang_costv (s : State) (k : Nat) (v : Gang) : (s.setGang k v).costv = s.costv := rfl
@[simp] theorem State.setGang_rev (s : State) (k : Nat) (v : Gang) : (s.setGang k v).rev = s.rev := rfl
@[simp] theorem State.setGang_bootstat (s : State) (k : Nat) (v : Gang) : (s.setGang k v).bootstat = s.bootstat := rfl
@[simp] theorem State.setGang_stages (s : State) (k : Nat) (v : Gang) : (s.setGang k v).stages = s.stages := rfl
@[simp] theorem State.setGang_identities (s : State) (k : Nat) (v : Gang) : (s.setGang k v).identities = s.identities := rfl
@[simp] theorem State.setGang_regs (s : State) (k : Nat) (v : Gang) : (s.setGang k v).regs = s.regs := rfl
@[simp] theorem State.setGang_devnrg (s : State) (k : Nat) (v : Gang) : (s.setGang k v).devnrg = s.devnrg := rfl
@[simp] theorem State.setGang_mem (s : State) (k : Nat) (v : Gang) : (s.setGang k v).mem = s.mem := rfl
@[simp] theorem State.setGang_poison (s : State) (k : Nat) (v : Gang) : (s.setGang k v).poison = s.poison := rfl
@[simp] theorem State.setGang_sync (s : State) (k : Nat) (v : Gang) : (s.setGang k v).sync = s.sync := rfl
@[simp] theorem State.setGang_trays (s : State) (k : Nat) (v : Gang) : (s.setGang k v).trays = s.trays := rfl
@[simp] theorem State.setGang_users (s : State) (k : Nat) (v : Gang) : (s.setGang k v).users = s.users := rfl
@[simp] theorem State.setGang_bars (s : State) (k : Nat) (v : Gang) : (s.setGang k v).bars = s.bars := rfl
@[simp] theorem State.setGang_fills (s : State) (k : Nat) (v : Gang) : (s.setGang k v).fills = s.fills := rfl
@[simp] theorem State.setGang_proofed (s : State) (k : Nat) (v : Gang) : (s.setGang k v).proofed = s.proofed := rfl
@[simp] theorem State.setGang_vetoed (s : State) (k : Nat) (v : Gang) : (s.setGang k v).vetoed = s.vetoed := rfl
@[simp] theorem State.setGang_tlb (s : State) (k : Nat) (v : Gang) : (s.setGang k v).tlb = s.tlb := rfl
@[simp] theorem State.setGang_checkedAreas (s : State) (k : Nat) (v : Gang) : (s.setGang k v).checkedAreas = s.checkedAreas := rfl
@[simp] theorem State.setGang_decoders (s : State) (k : Nat) (v : Gang) : (s.setGang k v).decoders = s.decoders := rfl
@[simp] theorem State.setGang_atsDenied (s : State) (k : Nat) (v : Gang) : (s.setGang k v).atsDenied = s.atsDenied := rfl
@[simp] theorem State.setGang_peerDenied (s : State) (k : Nat) (v : Gang) : (s.setGang k v).peerDenied = s.peerDenied := rfl
@[simp] theorem State.setGang_epochs (s : State) (k : Nat) (v : Gang) : (s.setGang k v).epochs = s.epochs := rfl
@[simp] theorem State.setGang_slotRel (s : State) (k : Nat) (v : Gang) : (s.setGang k v).slotRel = s.slotRel := rfl
@[simp] theorem State.setGang_stamps (s : State) (k : Nat) (v : Gang) : (s.setGang k v).stamps = s.stamps := rfl
@[simp] theorem State.setGang_rels (s : State) (k : Nat) (v : Gang) : (s.setGang k v).rels = s.rels := rfl
@[simp] theorem State.setGang_coms (s : State) (k : Nat) (v : Gang) : (s.setGang k v).coms = s.coms := rfl
@[simp] theorem State.setGang_posted (s : State) (k : Nat) (v : Gang) : (s.setGang k v).posted = s.posted := rfl
@[simp] theorem State.setGang_clusters (s : State) (k : Nat) (v : Gang) : (s.setGang k v).clusters = s.clusters := rfl
@[simp] theorem State.setGang_groups (s : State) (k : Nat) (v : Gang) : (s.setGang k v).groups = s.groups := rfl
@[simp] theorem State.setGang_mccs (s : State) (k : Nat) (v : Gang) : (s.setGang k v).mccs = s.mccs := rfl
@[simp] theorem State.setGang_stores (s : State) (k : Nat) (v : Gang) : (s.setGang k v).stores = s.stores := rfl
@[simp] theorem State.setGang_teams (s : State) (k : Nat) (v : Gang) : (s.setGang k v).teams = s.teams := rfl
@[simp] theorem State.setGang_grids (s : State) (k : Nat) (v : Gang) : (s.setGang k v).grids = s.grids := rfl
@[simp] theorem State.setGang_packets (s : State) (k : Nat) (v : Gang) : (s.setGang k v).packets = s.packets := rfl
@[simp] theorem State.setGang_engines (s : State) (k : Nat) (v : Gang) : (s.setGang k v).engines = s.engines := rfl
@[simp] theorem State.setGang_ctxs (s : State) (k : Nat) (v : Gang) : (s.setGang k v).ctxs = s.ctxs := rfl
@[simp] theorem State.setGang_quotes (s : State) (k : Nat) (v : Gang) : (s.setGang k v).quotes = s.quotes := rfl
@[simp] theorem State.setGang_reservations (s : State) (k : Nat) (v : Gang) : (s.setGang k v).reservations = s.reservations := rfl
@[simp] theorem State.setGang_walks (s : State) (k : Nat) (v : Gang) : (s.setGang k v).walks = s.walks := rfl
@[simp] theorem State.setGang_nextQid (s : State) (k : Nat) (v : Gang) : (s.setGang k v).nextQid = s.nextQid := rfl
@[simp] theorem State.setGang_nextGrid (s : State) (k : Nat) (v : Gang) : (s.setGang k v).nextGrid = s.nextGrid := rfl
@[simp] theorem State.setGang_nextGang (s : State) (k : Nat) (v : Gang) : (s.setGang k v).nextGang = s.nextGang := rfl
@[simp] theorem State.setGang_nextPacket (s : State) (k : Nat) (v : Gang) : (s.setGang k v).nextPacket = s.nextPacket := rfl
@[simp] theorem State.setGang_nextEgress (s : State) (k : Nat) (v : Gang) : (s.setGang k v).nextEgress = s.nextEgress := rfl
@[simp] theorem State.setGang_nextReservation (s : State) (k : Nat) (v : Gang) : (s.setGang k v).nextReservation = s.nextReservation := rfl
@[simp] theorem State.setGang_completions (s : State) (k : Nat) (v : Gang) : (s.setGang k v).completions = s.completions := rfl
@[simp] theorem State.setGang_finals (s : State) (k : Nat) (v : Gang) : (s.setGang k v).finals = s.finals := rfl
@[simp] theorem State.setGang_suspects (s : State) (k : Nat) (v : Gang) : (s.setGang k v).suspects = s.suspects := rfl
@[simp] theorem State.setGang_scanSeq (s : State) (k : Nat) (v : Gang) : (s.setGang k v).scanSeq = s.scanSeq := rfl
@[simp] theorem State.setGang_counters (s : State) (k : Nat) (v : Gang) : (s.setGang k v).counters = s.counters := rfl
@[simp] theorem State.setGang_qis (s : State) (k : Nat) (v : Gang) : (s.setGang k v).qis = s.qis := rfl
@[simp] theorem State.setGang_egresses (s : State) (k : Nat) (v : Gang) : (s.setGang k v).egresses = s.egresses := rfl
@[simp] theorem State.setGang_interrupts (s : State) (k : Nat) (v : Gang) : (s.setGang k v).interrupts = s.interrupts := rfl
@[simp] theorem State.setGang_votes (s : State) (k : Nat) (v : Gang) : (s.setGang k v).votes = s.votes := rfl
@[simp] theorem State.setGang_settle (s : State) (k : Nat) (v : Gang) : (s.setGang k v).settle = s.settle := rfl
@[simp] theorem State.setGang_recovering (s : State) (k : Nat) (v : Gang) : (s.setGang k v).recovering = s.recovering := rfl
@[simp] theorem State.setGang_locked (s : State) (k : Nat) (v : Gang) : (s.setGang k v).locked = s.locked := rfl
@[simp] theorem State.setGang_spdm (s : State) (k : Nat) (v : Gang) : (s.setGang k v).spdm = s.spdm := rfl
@[simp] theorem State.setGang_migrations (s : State) (k : Nat) (v : Gang) : (s.setGang k v).migrations = s.migrations := rfl
@[simp] theorem State.setGang_checked (s : State) (k : Nat) (v : Gang) : (s.setGang k v).checked = s.checked := rfl
@[simp] theorem State.setGang_group (s : State) (k j : Nat) (v : Gang) : (s.setGang k v).group j = s.group j := rfl
@[simp] theorem State.setGang_grid (s : State) (k j : Nat) (v : Gang) : (s.setGang k v).grid j = s.grid j := rfl
@[simp] theorem State.setGang_team (s : State) (k j : Nat) (v : Gang) : (s.setGang k v).team j = s.team j := rfl
@[simp] theorem State.setGang_ctx (s : State) (k j : Nat) (v : Gang) : (s.setGang k v).ctx j = s.ctx j := rfl
@[simp] theorem State.setGang_cluster (s : State) (k j : Nat) (v : Gang) : (s.setGang k v).cluster j = s.cluster j := rfl
@[simp] theorem State.setGang_engine (s : State) (k j : Nat) (v : Gang) : (s.setGang k v).engine j = s.engine j := rfl
@[simp] theorem State.setGang_qi (s : State) (k j : Nat) (v : Gang) : (s.setGang k v).qi j = s.qi j := rfl
theorem State.gang_setGang (s : State) (k j : Nat) (v : Gang) : (s.setGang k v).gang j = if j = k then v else s.gang j :=
  Tab.read_put s.gangs k j v _
@[simp] theorem State.gang_setGang_self (s : State) (k : Nat) (v : Gang) : (s.setGang k v).gang k = v :=
  Tab.read_put_self s.gangs k v _
@[simp] theorem State.setGang_setGang (s : State) (k : Nat) (v w : Gang) : (s.setGang k v).setGang k w = s.setGang k w := by
  simp [State.setGang]

@[simp] theorem State.setGrid_grids (s : State) (k : Nat) (v : Grid) : (s.setGrid k v).grids = Tab.put s.grids k v := rfl
@[simp] theorem State.setGrid_turn (s : State) (k : Nat) (v : Grid) : (s.setGrid k v).turn = s.turn := rfl
@[simp] theorem State.setGrid_agenda (s : State) (k : Nat) (v : Grid) : (s.setGrid k v).agenda = s.agenda := rfl
@[simp] theorem State.setGrid_freeCtr (s : State) (k : Nat) (v : Grid) : (s.setGrid k v).freeCtr = s.freeCtr := rfl
@[simp] theorem State.setGrid_hub (s : State) (k : Nat) (v : Grid) : (s.setGrid k v).hub = s.hub := rfl
@[simp] theorem State.setGrid_mapv (s : State) (k : Nat) (v : Grid) : (s.setGrid k v).mapv = s.mapv := rfl
@[simp] theorem State.setGrid_map (s : State) (k : Nat) (v : Grid) : (s.setGrid k v).map = s.map := rfl
@[simp] theorem State.setGrid_mapLog (s : State) (k : Nat) (v : Grid) : (s.setGrid k v).mapLog = s.mapLog := rfl
@[simp] theorem State.setGrid_costs (s : State) (k : Nat) (v : Grid) : (s.setGrid k v).costs = s.costs := rfl
@[simp] theorem State.setGrid_costv (s : State) (k : Nat) (v : Grid) : (s.setGrid k v).costv = s.costv := rfl
@[simp] theorem State.setGrid_rev (s : State) (k : Nat) (v : Grid) : (s.setGrid k v).rev = s.rev := rfl
@[simp] theorem State.setGrid_bootstat (s : State) (k : Nat) (v : Grid) : (s.setGrid k v).bootstat = s.bootstat := rfl
@[simp] theorem State.setGrid_stages (s : State) (k : Nat) (v : Grid) : (s.setGrid k v).stages = s.stages := rfl
@[simp] theorem State.setGrid_identities (s : State) (k : Nat) (v : Grid) : (s.setGrid k v).identities = s.identities := rfl
@[simp] theorem State.setGrid_regs (s : State) (k : Nat) (v : Grid) : (s.setGrid k v).regs = s.regs := rfl
@[simp] theorem State.setGrid_devnrg (s : State) (k : Nat) (v : Grid) : (s.setGrid k v).devnrg = s.devnrg := rfl
@[simp] theorem State.setGrid_mem (s : State) (k : Nat) (v : Grid) : (s.setGrid k v).mem = s.mem := rfl
@[simp] theorem State.setGrid_poison (s : State) (k : Nat) (v : Grid) : (s.setGrid k v).poison = s.poison := rfl
@[simp] theorem State.setGrid_sync (s : State) (k : Nat) (v : Grid) : (s.setGrid k v).sync = s.sync := rfl
@[simp] theorem State.setGrid_trays (s : State) (k : Nat) (v : Grid) : (s.setGrid k v).trays = s.trays := rfl
@[simp] theorem State.setGrid_users (s : State) (k : Nat) (v : Grid) : (s.setGrid k v).users = s.users := rfl
@[simp] theorem State.setGrid_bars (s : State) (k : Nat) (v : Grid) : (s.setGrid k v).bars = s.bars := rfl
@[simp] theorem State.setGrid_fills (s : State) (k : Nat) (v : Grid) : (s.setGrid k v).fills = s.fills := rfl
@[simp] theorem State.setGrid_proofed (s : State) (k : Nat) (v : Grid) : (s.setGrid k v).proofed = s.proofed := rfl
@[simp] theorem State.setGrid_vetoed (s : State) (k : Nat) (v : Grid) : (s.setGrid k v).vetoed = s.vetoed := rfl
@[simp] theorem State.setGrid_tlb (s : State) (k : Nat) (v : Grid) : (s.setGrid k v).tlb = s.tlb := rfl
@[simp] theorem State.setGrid_checkedAreas (s : State) (k : Nat) (v : Grid) : (s.setGrid k v).checkedAreas = s.checkedAreas := rfl
@[simp] theorem State.setGrid_decoders (s : State) (k : Nat) (v : Grid) : (s.setGrid k v).decoders = s.decoders := rfl
@[simp] theorem State.setGrid_atsDenied (s : State) (k : Nat) (v : Grid) : (s.setGrid k v).atsDenied = s.atsDenied := rfl
@[simp] theorem State.setGrid_peerDenied (s : State) (k : Nat) (v : Grid) : (s.setGrid k v).peerDenied = s.peerDenied := rfl
@[simp] theorem State.setGrid_epochs (s : State) (k : Nat) (v : Grid) : (s.setGrid k v).epochs = s.epochs := rfl
@[simp] theorem State.setGrid_slotRel (s : State) (k : Nat) (v : Grid) : (s.setGrid k v).slotRel = s.slotRel := rfl
@[simp] theorem State.setGrid_stamps (s : State) (k : Nat) (v : Grid) : (s.setGrid k v).stamps = s.stamps := rfl
@[simp] theorem State.setGrid_rels (s : State) (k : Nat) (v : Grid) : (s.setGrid k v).rels = s.rels := rfl
@[simp] theorem State.setGrid_coms (s : State) (k : Nat) (v : Grid) : (s.setGrid k v).coms = s.coms := rfl
@[simp] theorem State.setGrid_posted (s : State) (k : Nat) (v : Grid) : (s.setGrid k v).posted = s.posted := rfl
@[simp] theorem State.setGrid_clusters (s : State) (k : Nat) (v : Grid) : (s.setGrid k v).clusters = s.clusters := rfl
@[simp] theorem State.setGrid_groups (s : State) (k : Nat) (v : Grid) : (s.setGrid k v).groups = s.groups := rfl
@[simp] theorem State.setGrid_mccs (s : State) (k : Nat) (v : Grid) : (s.setGrid k v).mccs = s.mccs := rfl
@[simp] theorem State.setGrid_stores (s : State) (k : Nat) (v : Grid) : (s.setGrid k v).stores = s.stores := rfl
@[simp] theorem State.setGrid_teams (s : State) (k : Nat) (v : Grid) : (s.setGrid k v).teams = s.teams := rfl
@[simp] theorem State.setGrid_gangs (s : State) (k : Nat) (v : Grid) : (s.setGrid k v).gangs = s.gangs := rfl
@[simp] theorem State.setGrid_packets (s : State) (k : Nat) (v : Grid) : (s.setGrid k v).packets = s.packets := rfl
@[simp] theorem State.setGrid_engines (s : State) (k : Nat) (v : Grid) : (s.setGrid k v).engines = s.engines := rfl
@[simp] theorem State.setGrid_ctxs (s : State) (k : Nat) (v : Grid) : (s.setGrid k v).ctxs = s.ctxs := rfl
@[simp] theorem State.setGrid_quotes (s : State) (k : Nat) (v : Grid) : (s.setGrid k v).quotes = s.quotes := rfl
@[simp] theorem State.setGrid_reservations (s : State) (k : Nat) (v : Grid) : (s.setGrid k v).reservations = s.reservations := rfl
@[simp] theorem State.setGrid_walks (s : State) (k : Nat) (v : Grid) : (s.setGrid k v).walks = s.walks := rfl
@[simp] theorem State.setGrid_nextQid (s : State) (k : Nat) (v : Grid) : (s.setGrid k v).nextQid = s.nextQid := rfl
@[simp] theorem State.setGrid_nextGrid (s : State) (k : Nat) (v : Grid) : (s.setGrid k v).nextGrid = s.nextGrid := rfl
@[simp] theorem State.setGrid_nextGang (s : State) (k : Nat) (v : Grid) : (s.setGrid k v).nextGang = s.nextGang := rfl
@[simp] theorem State.setGrid_nextPacket (s : State) (k : Nat) (v : Grid) : (s.setGrid k v).nextPacket = s.nextPacket := rfl
@[simp] theorem State.setGrid_nextEgress (s : State) (k : Nat) (v : Grid) : (s.setGrid k v).nextEgress = s.nextEgress := rfl
@[simp] theorem State.setGrid_nextReservation (s : State) (k : Nat) (v : Grid) : (s.setGrid k v).nextReservation = s.nextReservation := rfl
@[simp] theorem State.setGrid_completions (s : State) (k : Nat) (v : Grid) : (s.setGrid k v).completions = s.completions := rfl
@[simp] theorem State.setGrid_finals (s : State) (k : Nat) (v : Grid) : (s.setGrid k v).finals = s.finals := rfl
@[simp] theorem State.setGrid_suspects (s : State) (k : Nat) (v : Grid) : (s.setGrid k v).suspects = s.suspects := rfl
@[simp] theorem State.setGrid_scanSeq (s : State) (k : Nat) (v : Grid) : (s.setGrid k v).scanSeq = s.scanSeq := rfl
@[simp] theorem State.setGrid_counters (s : State) (k : Nat) (v : Grid) : (s.setGrid k v).counters = s.counters := rfl
@[simp] theorem State.setGrid_qis (s : State) (k : Nat) (v : Grid) : (s.setGrid k v).qis = s.qis := rfl
@[simp] theorem State.setGrid_egresses (s : State) (k : Nat) (v : Grid) : (s.setGrid k v).egresses = s.egresses := rfl
@[simp] theorem State.setGrid_interrupts (s : State) (k : Nat) (v : Grid) : (s.setGrid k v).interrupts = s.interrupts := rfl
@[simp] theorem State.setGrid_votes (s : State) (k : Nat) (v : Grid) : (s.setGrid k v).votes = s.votes := rfl
@[simp] theorem State.setGrid_settle (s : State) (k : Nat) (v : Grid) : (s.setGrid k v).settle = s.settle := rfl
@[simp] theorem State.setGrid_recovering (s : State) (k : Nat) (v : Grid) : (s.setGrid k v).recovering = s.recovering := rfl
@[simp] theorem State.setGrid_locked (s : State) (k : Nat) (v : Grid) : (s.setGrid k v).locked = s.locked := rfl
@[simp] theorem State.setGrid_spdm (s : State) (k : Nat) (v : Grid) : (s.setGrid k v).spdm = s.spdm := rfl
@[simp] theorem State.setGrid_migrations (s : State) (k : Nat) (v : Grid) : (s.setGrid k v).migrations = s.migrations := rfl
@[simp] theorem State.setGrid_checked (s : State) (k : Nat) (v : Grid) : (s.setGrid k v).checked = s.checked := rfl
@[simp] theorem State.setGrid_group (s : State) (k j : Nat) (v : Grid) : (s.setGrid k v).group j = s.group j := rfl
@[simp] theorem State.setGrid_gang (s : State) (k j : Nat) (v : Grid) : (s.setGrid k v).gang j = s.gang j := rfl
@[simp] theorem State.setGrid_team (s : State) (k j : Nat) (v : Grid) : (s.setGrid k v).team j = s.team j := rfl
@[simp] theorem State.setGrid_ctx (s : State) (k j : Nat) (v : Grid) : (s.setGrid k v).ctx j = s.ctx j := rfl
@[simp] theorem State.setGrid_cluster (s : State) (k j : Nat) (v : Grid) : (s.setGrid k v).cluster j = s.cluster j := rfl
@[simp] theorem State.setGrid_engine (s : State) (k j : Nat) (v : Grid) : (s.setGrid k v).engine j = s.engine j := rfl
@[simp] theorem State.setGrid_qi (s : State) (k j : Nat) (v : Grid) : (s.setGrid k v).qi j = s.qi j := rfl
theorem State.grid_setGrid (s : State) (k j : Nat) (v : Grid) : (s.setGrid k v).grid j = if j = k then v else s.grid j :=
  Tab.read_put s.grids k j v _
@[simp] theorem State.grid_setGrid_self (s : State) (k : Nat) (v : Grid) : (s.setGrid k v).grid k = v :=
  Tab.read_put_self s.grids k v _
@[simp] theorem State.setGrid_setGrid (s : State) (k : Nat) (v w : Grid) : (s.setGrid k v).setGrid k w = s.setGrid k w := by
  simp [State.setGrid]

@[simp] theorem State.setTeam_teams (s : State) (k : Nat) (v : Team) : (s.setTeam k v).teams = Tab.put s.teams k v := rfl
@[simp] theorem State.setTeam_turn (s : State) (k : Nat) (v : Team) : (s.setTeam k v).turn = s.turn := rfl
@[simp] theorem State.setTeam_agenda (s : State) (k : Nat) (v : Team) : (s.setTeam k v).agenda = s.agenda := rfl
@[simp] theorem State.setTeam_freeCtr (s : State) (k : Nat) (v : Team) : (s.setTeam k v).freeCtr = s.freeCtr := rfl
@[simp] theorem State.setTeam_hub (s : State) (k : Nat) (v : Team) : (s.setTeam k v).hub = s.hub := rfl
@[simp] theorem State.setTeam_mapv (s : State) (k : Nat) (v : Team) : (s.setTeam k v).mapv = s.mapv := rfl
@[simp] theorem State.setTeam_map (s : State) (k : Nat) (v : Team) : (s.setTeam k v).map = s.map := rfl
@[simp] theorem State.setTeam_mapLog (s : State) (k : Nat) (v : Team) : (s.setTeam k v).mapLog = s.mapLog := rfl
@[simp] theorem State.setTeam_costs (s : State) (k : Nat) (v : Team) : (s.setTeam k v).costs = s.costs := rfl
@[simp] theorem State.setTeam_costv (s : State) (k : Nat) (v : Team) : (s.setTeam k v).costv = s.costv := rfl
@[simp] theorem State.setTeam_rev (s : State) (k : Nat) (v : Team) : (s.setTeam k v).rev = s.rev := rfl
@[simp] theorem State.setTeam_bootstat (s : State) (k : Nat) (v : Team) : (s.setTeam k v).bootstat = s.bootstat := rfl
@[simp] theorem State.setTeam_stages (s : State) (k : Nat) (v : Team) : (s.setTeam k v).stages = s.stages := rfl
@[simp] theorem State.setTeam_identities (s : State) (k : Nat) (v : Team) : (s.setTeam k v).identities = s.identities := rfl
@[simp] theorem State.setTeam_regs (s : State) (k : Nat) (v : Team) : (s.setTeam k v).regs = s.regs := rfl
@[simp] theorem State.setTeam_devnrg (s : State) (k : Nat) (v : Team) : (s.setTeam k v).devnrg = s.devnrg := rfl
@[simp] theorem State.setTeam_mem (s : State) (k : Nat) (v : Team) : (s.setTeam k v).mem = s.mem := rfl
@[simp] theorem State.setTeam_poison (s : State) (k : Nat) (v : Team) : (s.setTeam k v).poison = s.poison := rfl
@[simp] theorem State.setTeam_sync (s : State) (k : Nat) (v : Team) : (s.setTeam k v).sync = s.sync := rfl
@[simp] theorem State.setTeam_trays (s : State) (k : Nat) (v : Team) : (s.setTeam k v).trays = s.trays := rfl
@[simp] theorem State.setTeam_users (s : State) (k : Nat) (v : Team) : (s.setTeam k v).users = s.users := rfl
@[simp] theorem State.setTeam_bars (s : State) (k : Nat) (v : Team) : (s.setTeam k v).bars = s.bars := rfl
@[simp] theorem State.setTeam_fills (s : State) (k : Nat) (v : Team) : (s.setTeam k v).fills = s.fills := rfl
@[simp] theorem State.setTeam_proofed (s : State) (k : Nat) (v : Team) : (s.setTeam k v).proofed = s.proofed := rfl
@[simp] theorem State.setTeam_vetoed (s : State) (k : Nat) (v : Team) : (s.setTeam k v).vetoed = s.vetoed := rfl
@[simp] theorem State.setTeam_tlb (s : State) (k : Nat) (v : Team) : (s.setTeam k v).tlb = s.tlb := rfl
@[simp] theorem State.setTeam_checkedAreas (s : State) (k : Nat) (v : Team) : (s.setTeam k v).checkedAreas = s.checkedAreas := rfl
@[simp] theorem State.setTeam_decoders (s : State) (k : Nat) (v : Team) : (s.setTeam k v).decoders = s.decoders := rfl
@[simp] theorem State.setTeam_atsDenied (s : State) (k : Nat) (v : Team) : (s.setTeam k v).atsDenied = s.atsDenied := rfl
@[simp] theorem State.setTeam_peerDenied (s : State) (k : Nat) (v : Team) : (s.setTeam k v).peerDenied = s.peerDenied := rfl
@[simp] theorem State.setTeam_epochs (s : State) (k : Nat) (v : Team) : (s.setTeam k v).epochs = s.epochs := rfl
@[simp] theorem State.setTeam_slotRel (s : State) (k : Nat) (v : Team) : (s.setTeam k v).slotRel = s.slotRel := rfl
@[simp] theorem State.setTeam_stamps (s : State) (k : Nat) (v : Team) : (s.setTeam k v).stamps = s.stamps := rfl
@[simp] theorem State.setTeam_rels (s : State) (k : Nat) (v : Team) : (s.setTeam k v).rels = s.rels := rfl
@[simp] theorem State.setTeam_coms (s : State) (k : Nat) (v : Team) : (s.setTeam k v).coms = s.coms := rfl
@[simp] theorem State.setTeam_posted (s : State) (k : Nat) (v : Team) : (s.setTeam k v).posted = s.posted := rfl
@[simp] theorem State.setTeam_clusters (s : State) (k : Nat) (v : Team) : (s.setTeam k v).clusters = s.clusters := rfl
@[simp] theorem State.setTeam_groups (s : State) (k : Nat) (v : Team) : (s.setTeam k v).groups = s.groups := rfl
@[simp] theorem State.setTeam_mccs (s : State) (k : Nat) (v : Team) : (s.setTeam k v).mccs = s.mccs := rfl
@[simp] theorem State.setTeam_stores (s : State) (k : Nat) (v : Team) : (s.setTeam k v).stores = s.stores := rfl
@[simp] theorem State.setTeam_gangs (s : State) (k : Nat) (v : Team) : (s.setTeam k v).gangs = s.gangs := rfl
@[simp] theorem State.setTeam_grids (s : State) (k : Nat) (v : Team) : (s.setTeam k v).grids = s.grids := rfl
@[simp] theorem State.setTeam_packets (s : State) (k : Nat) (v : Team) : (s.setTeam k v).packets = s.packets := rfl
@[simp] theorem State.setTeam_engines (s : State) (k : Nat) (v : Team) : (s.setTeam k v).engines = s.engines := rfl
@[simp] theorem State.setTeam_ctxs (s : State) (k : Nat) (v : Team) : (s.setTeam k v).ctxs = s.ctxs := rfl
@[simp] theorem State.setTeam_quotes (s : State) (k : Nat) (v : Team) : (s.setTeam k v).quotes = s.quotes := rfl
@[simp] theorem State.setTeam_reservations (s : State) (k : Nat) (v : Team) : (s.setTeam k v).reservations = s.reservations := rfl
@[simp] theorem State.setTeam_walks (s : State) (k : Nat) (v : Team) : (s.setTeam k v).walks = s.walks := rfl
@[simp] theorem State.setTeam_nextQid (s : State) (k : Nat) (v : Team) : (s.setTeam k v).nextQid = s.nextQid := rfl
@[simp] theorem State.setTeam_nextGrid (s : State) (k : Nat) (v : Team) : (s.setTeam k v).nextGrid = s.nextGrid := rfl
@[simp] theorem State.setTeam_nextGang (s : State) (k : Nat) (v : Team) : (s.setTeam k v).nextGang = s.nextGang := rfl
@[simp] theorem State.setTeam_nextPacket (s : State) (k : Nat) (v : Team) : (s.setTeam k v).nextPacket = s.nextPacket := rfl
@[simp] theorem State.setTeam_nextEgress (s : State) (k : Nat) (v : Team) : (s.setTeam k v).nextEgress = s.nextEgress := rfl
@[simp] theorem State.setTeam_nextReservation (s : State) (k : Nat) (v : Team) : (s.setTeam k v).nextReservation = s.nextReservation := rfl
@[simp] theorem State.setTeam_completions (s : State) (k : Nat) (v : Team) : (s.setTeam k v).completions = s.completions := rfl
@[simp] theorem State.setTeam_finals (s : State) (k : Nat) (v : Team) : (s.setTeam k v).finals = s.finals := rfl
@[simp] theorem State.setTeam_suspects (s : State) (k : Nat) (v : Team) : (s.setTeam k v).suspects = s.suspects := rfl
@[simp] theorem State.setTeam_scanSeq (s : State) (k : Nat) (v : Team) : (s.setTeam k v).scanSeq = s.scanSeq := rfl
@[simp] theorem State.setTeam_counters (s : State) (k : Nat) (v : Team) : (s.setTeam k v).counters = s.counters := rfl
@[simp] theorem State.setTeam_qis (s : State) (k : Nat) (v : Team) : (s.setTeam k v).qis = s.qis := rfl
@[simp] theorem State.setTeam_egresses (s : State) (k : Nat) (v : Team) : (s.setTeam k v).egresses = s.egresses := rfl
@[simp] theorem State.setTeam_interrupts (s : State) (k : Nat) (v : Team) : (s.setTeam k v).interrupts = s.interrupts := rfl
@[simp] theorem State.setTeam_votes (s : State) (k : Nat) (v : Team) : (s.setTeam k v).votes = s.votes := rfl
@[simp] theorem State.setTeam_settle (s : State) (k : Nat) (v : Team) : (s.setTeam k v).settle = s.settle := rfl
@[simp] theorem State.setTeam_recovering (s : State) (k : Nat) (v : Team) : (s.setTeam k v).recovering = s.recovering := rfl
@[simp] theorem State.setTeam_locked (s : State) (k : Nat) (v : Team) : (s.setTeam k v).locked = s.locked := rfl
@[simp] theorem State.setTeam_spdm (s : State) (k : Nat) (v : Team) : (s.setTeam k v).spdm = s.spdm := rfl
@[simp] theorem State.setTeam_migrations (s : State) (k : Nat) (v : Team) : (s.setTeam k v).migrations = s.migrations := rfl
@[simp] theorem State.setTeam_checked (s : State) (k : Nat) (v : Team) : (s.setTeam k v).checked = s.checked := rfl
@[simp] theorem State.setTeam_group (s : State) (k j : Nat) (v : Team) : (s.setTeam k v).group j = s.group j := rfl
@[simp] theorem State.setTeam_gang (s : State) (k j : Nat) (v : Team) : (s.setTeam k v).gang j = s.gang j := rfl
@[simp] theorem State.setTeam_grid (s : State) (k j : Nat) (v : Team) : (s.setTeam k v).grid j = s.grid j := rfl
@[simp] theorem State.setTeam_ctx (s : State) (k j : Nat) (v : Team) : (s.setTeam k v).ctx j = s.ctx j := rfl
@[simp] theorem State.setTeam_cluster (s : State) (k j : Nat) (v : Team) : (s.setTeam k v).cluster j = s.cluster j := rfl
@[simp] theorem State.setTeam_engine (s : State) (k j : Nat) (v : Team) : (s.setTeam k v).engine j = s.engine j := rfl
@[simp] theorem State.setTeam_qi (s : State) (k j : Nat) (v : Team) : (s.setTeam k v).qi j = s.qi j := rfl
theorem State.team_setTeam (s : State) (k j : Nat) (v : Team) : (s.setTeam k v).team j = if j = k then v else s.team j :=
  Tab.read_put s.teams k j v _
@[simp] theorem State.team_setTeam_self (s : State) (k : Nat) (v : Team) : (s.setTeam k v).team k = v :=
  Tab.read_put_self s.teams k v _
@[simp] theorem State.setTeam_setTeam (s : State) (k : Nat) (v w : Team) : (s.setTeam k v).setTeam k w = s.setTeam k w := by
  simp [State.setTeam]

@[simp] theorem State.setCtx_ctxs (s : State) (k : Nat) (v : Ctx) : (s.setCtx k v).ctxs = Tab.put s.ctxs k v := rfl
@[simp] theorem State.setCtx_turn (s : State) (k : Nat) (v : Ctx) : (s.setCtx k v).turn = s.turn := rfl
@[simp] theorem State.setCtx_agenda (s : State) (k : Nat) (v : Ctx) : (s.setCtx k v).agenda = s.agenda := rfl
@[simp] theorem State.setCtx_freeCtr (s : State) (k : Nat) (v : Ctx) : (s.setCtx k v).freeCtr = s.freeCtr := rfl
@[simp] theorem State.setCtx_hub (s : State) (k : Nat) (v : Ctx) : (s.setCtx k v).hub = s.hub := rfl
@[simp] theorem State.setCtx_mapv (s : State) (k : Nat) (v : Ctx) : (s.setCtx k v).mapv = s.mapv := rfl
@[simp] theorem State.setCtx_map (s : State) (k : Nat) (v : Ctx) : (s.setCtx k v).map = s.map := rfl
@[simp] theorem State.setCtx_mapLog (s : State) (k : Nat) (v : Ctx) : (s.setCtx k v).mapLog = s.mapLog := rfl
@[simp] theorem State.setCtx_costs (s : State) (k : Nat) (v : Ctx) : (s.setCtx k v).costs = s.costs := rfl
@[simp] theorem State.setCtx_costv (s : State) (k : Nat) (v : Ctx) : (s.setCtx k v).costv = s.costv := rfl
@[simp] theorem State.setCtx_rev (s : State) (k : Nat) (v : Ctx) : (s.setCtx k v).rev = s.rev := rfl
@[simp] theorem State.setCtx_bootstat (s : State) (k : Nat) (v : Ctx) : (s.setCtx k v).bootstat = s.bootstat := rfl
@[simp] theorem State.setCtx_stages (s : State) (k : Nat) (v : Ctx) : (s.setCtx k v).stages = s.stages := rfl
@[simp] theorem State.setCtx_identities (s : State) (k : Nat) (v : Ctx) : (s.setCtx k v).identities = s.identities := rfl
@[simp] theorem State.setCtx_regs (s : State) (k : Nat) (v : Ctx) : (s.setCtx k v).regs = s.regs := rfl
@[simp] theorem State.setCtx_devnrg (s : State) (k : Nat) (v : Ctx) : (s.setCtx k v).devnrg = s.devnrg := rfl
@[simp] theorem State.setCtx_mem (s : State) (k : Nat) (v : Ctx) : (s.setCtx k v).mem = s.mem := rfl
@[simp] theorem State.setCtx_poison (s : State) (k : Nat) (v : Ctx) : (s.setCtx k v).poison = s.poison := rfl
@[simp] theorem State.setCtx_sync (s : State) (k : Nat) (v : Ctx) : (s.setCtx k v).sync = s.sync := rfl
@[simp] theorem State.setCtx_trays (s : State) (k : Nat) (v : Ctx) : (s.setCtx k v).trays = s.trays := rfl
@[simp] theorem State.setCtx_users (s : State) (k : Nat) (v : Ctx) : (s.setCtx k v).users = s.users := rfl
@[simp] theorem State.setCtx_bars (s : State) (k : Nat) (v : Ctx) : (s.setCtx k v).bars = s.bars := rfl
@[simp] theorem State.setCtx_fills (s : State) (k : Nat) (v : Ctx) : (s.setCtx k v).fills = s.fills := rfl
@[simp] theorem State.setCtx_proofed (s : State) (k : Nat) (v : Ctx) : (s.setCtx k v).proofed = s.proofed := rfl
@[simp] theorem State.setCtx_vetoed (s : State) (k : Nat) (v : Ctx) : (s.setCtx k v).vetoed = s.vetoed := rfl
@[simp] theorem State.setCtx_tlb (s : State) (k : Nat) (v : Ctx) : (s.setCtx k v).tlb = s.tlb := rfl
@[simp] theorem State.setCtx_checkedAreas (s : State) (k : Nat) (v : Ctx) : (s.setCtx k v).checkedAreas = s.checkedAreas := rfl
@[simp] theorem State.setCtx_decoders (s : State) (k : Nat) (v : Ctx) : (s.setCtx k v).decoders = s.decoders := rfl
@[simp] theorem State.setCtx_atsDenied (s : State) (k : Nat) (v : Ctx) : (s.setCtx k v).atsDenied = s.atsDenied := rfl
@[simp] theorem State.setCtx_peerDenied (s : State) (k : Nat) (v : Ctx) : (s.setCtx k v).peerDenied = s.peerDenied := rfl
@[simp] theorem State.setCtx_epochs (s : State) (k : Nat) (v : Ctx) : (s.setCtx k v).epochs = s.epochs := rfl
@[simp] theorem State.setCtx_slotRel (s : State) (k : Nat) (v : Ctx) : (s.setCtx k v).slotRel = s.slotRel := rfl
@[simp] theorem State.setCtx_stamps (s : State) (k : Nat) (v : Ctx) : (s.setCtx k v).stamps = s.stamps := rfl
@[simp] theorem State.setCtx_rels (s : State) (k : Nat) (v : Ctx) : (s.setCtx k v).rels = s.rels := rfl
@[simp] theorem State.setCtx_coms (s : State) (k : Nat) (v : Ctx) : (s.setCtx k v).coms = s.coms := rfl
@[simp] theorem State.setCtx_posted (s : State) (k : Nat) (v : Ctx) : (s.setCtx k v).posted = s.posted := rfl
@[simp] theorem State.setCtx_clusters (s : State) (k : Nat) (v : Ctx) : (s.setCtx k v).clusters = s.clusters := rfl
@[simp] theorem State.setCtx_groups (s : State) (k : Nat) (v : Ctx) : (s.setCtx k v).groups = s.groups := rfl
@[simp] theorem State.setCtx_mccs (s : State) (k : Nat) (v : Ctx) : (s.setCtx k v).mccs = s.mccs := rfl
@[simp] theorem State.setCtx_stores (s : State) (k : Nat) (v : Ctx) : (s.setCtx k v).stores = s.stores := rfl
@[simp] theorem State.setCtx_teams (s : State) (k : Nat) (v : Ctx) : (s.setCtx k v).teams = s.teams := rfl
@[simp] theorem State.setCtx_gangs (s : State) (k : Nat) (v : Ctx) : (s.setCtx k v).gangs = s.gangs := rfl
@[simp] theorem State.setCtx_grids (s : State) (k : Nat) (v : Ctx) : (s.setCtx k v).grids = s.grids := rfl
@[simp] theorem State.setCtx_packets (s : State) (k : Nat) (v : Ctx) : (s.setCtx k v).packets = s.packets := rfl
@[simp] theorem State.setCtx_engines (s : State) (k : Nat) (v : Ctx) : (s.setCtx k v).engines = s.engines := rfl
@[simp] theorem State.setCtx_quotes (s : State) (k : Nat) (v : Ctx) : (s.setCtx k v).quotes = s.quotes := rfl
@[simp] theorem State.setCtx_reservations (s : State) (k : Nat) (v : Ctx) : (s.setCtx k v).reservations = s.reservations := rfl
@[simp] theorem State.setCtx_walks (s : State) (k : Nat) (v : Ctx) : (s.setCtx k v).walks = s.walks := rfl
@[simp] theorem State.setCtx_nextQid (s : State) (k : Nat) (v : Ctx) : (s.setCtx k v).nextQid = s.nextQid := rfl
@[simp] theorem State.setCtx_nextGrid (s : State) (k : Nat) (v : Ctx) : (s.setCtx k v).nextGrid = s.nextGrid := rfl
@[simp] theorem State.setCtx_nextGang (s : State) (k : Nat) (v : Ctx) : (s.setCtx k v).nextGang = s.nextGang := rfl
@[simp] theorem State.setCtx_nextPacket (s : State) (k : Nat) (v : Ctx) : (s.setCtx k v).nextPacket = s.nextPacket := rfl
@[simp] theorem State.setCtx_nextEgress (s : State) (k : Nat) (v : Ctx) : (s.setCtx k v).nextEgress = s.nextEgress := rfl
@[simp] theorem State.setCtx_nextReservation (s : State) (k : Nat) (v : Ctx) : (s.setCtx k v).nextReservation = s.nextReservation := rfl
@[simp] theorem State.setCtx_completions (s : State) (k : Nat) (v : Ctx) : (s.setCtx k v).completions = s.completions := rfl
@[simp] theorem State.setCtx_finals (s : State) (k : Nat) (v : Ctx) : (s.setCtx k v).finals = s.finals := rfl
@[simp] theorem State.setCtx_suspects (s : State) (k : Nat) (v : Ctx) : (s.setCtx k v).suspects = s.suspects := rfl
@[simp] theorem State.setCtx_scanSeq (s : State) (k : Nat) (v : Ctx) : (s.setCtx k v).scanSeq = s.scanSeq := rfl
@[simp] theorem State.setCtx_counters (s : State) (k : Nat) (v : Ctx) : (s.setCtx k v).counters = s.counters := rfl
@[simp] theorem State.setCtx_qis (s : State) (k : Nat) (v : Ctx) : (s.setCtx k v).qis = s.qis := rfl
@[simp] theorem State.setCtx_egresses (s : State) (k : Nat) (v : Ctx) : (s.setCtx k v).egresses = s.egresses := rfl
@[simp] theorem State.setCtx_interrupts (s : State) (k : Nat) (v : Ctx) : (s.setCtx k v).interrupts = s.interrupts := rfl
@[simp] theorem State.setCtx_votes (s : State) (k : Nat) (v : Ctx) : (s.setCtx k v).votes = s.votes := rfl
@[simp] theorem State.setCtx_settle (s : State) (k : Nat) (v : Ctx) : (s.setCtx k v).settle = s.settle := rfl
@[simp] theorem State.setCtx_recovering (s : State) (k : Nat) (v : Ctx) : (s.setCtx k v).recovering = s.recovering := rfl
@[simp] theorem State.setCtx_locked (s : State) (k : Nat) (v : Ctx) : (s.setCtx k v).locked = s.locked := rfl
@[simp] theorem State.setCtx_spdm (s : State) (k : Nat) (v : Ctx) : (s.setCtx k v).spdm = s.spdm := rfl
@[simp] theorem State.setCtx_migrations (s : State) (k : Nat) (v : Ctx) : (s.setCtx k v).migrations = s.migrations := rfl
@[simp] theorem State.setCtx_checked (s : State) (k : Nat) (v : Ctx) : (s.setCtx k v).checked = s.checked := rfl
@[simp] theorem State.setCtx_group (s : State) (k j : Nat) (v : Ctx) : (s.setCtx k v).group j = s.group j := rfl
@[simp] theorem State.setCtx_gang (s : State) (k j : Nat) (v : Ctx) : (s.setCtx k v).gang j = s.gang j := rfl
@[simp] theorem State.setCtx_grid (s : State) (k j : Nat) (v : Ctx) : (s.setCtx k v).grid j = s.grid j := rfl
@[simp] theorem State.setCtx_team (s : State) (k j : Nat) (v : Ctx) : (s.setCtx k v).team j = s.team j := rfl
@[simp] theorem State.setCtx_cluster (s : State) (k j : Nat) (v : Ctx) : (s.setCtx k v).cluster j = s.cluster j := rfl
@[simp] theorem State.setCtx_engine (s : State) (k j : Nat) (v : Ctx) : (s.setCtx k v).engine j = s.engine j := rfl
@[simp] theorem State.setCtx_qi (s : State) (k j : Nat) (v : Ctx) : (s.setCtx k v).qi j = s.qi j := rfl
theorem State.ctx_setCtx (s : State) (k j : Nat) (v : Ctx) : (s.setCtx k v).ctx j = if j = k then v else s.ctx j :=
  Tab.read_put s.ctxs k j v _
@[simp] theorem State.ctx_setCtx_self (s : State) (k : Nat) (v : Ctx) : (s.setCtx k v).ctx k = v :=
  Tab.read_put_self s.ctxs k v _
@[simp] theorem State.setCtx_setCtx (s : State) (k : Nat) (v w : Ctx) : (s.setCtx k v).setCtx k w = s.setCtx k w := by
  simp [State.setCtx]

@[simp] theorem State.setCluster_clusters (s : State) (k : Nat) (v : Cluster) : (s.setCluster k v).clusters = Tab.put s.clusters k v := rfl
@[simp] theorem State.setCluster_turn (s : State) (k : Nat) (v : Cluster) : (s.setCluster k v).turn = s.turn := rfl
@[simp] theorem State.setCluster_agenda (s : State) (k : Nat) (v : Cluster) : (s.setCluster k v).agenda = s.agenda := rfl
@[simp] theorem State.setCluster_freeCtr (s : State) (k : Nat) (v : Cluster) : (s.setCluster k v).freeCtr = s.freeCtr := rfl
@[simp] theorem State.setCluster_hub (s : State) (k : Nat) (v : Cluster) : (s.setCluster k v).hub = s.hub := rfl
@[simp] theorem State.setCluster_mapv (s : State) (k : Nat) (v : Cluster) : (s.setCluster k v).mapv = s.mapv := rfl
@[simp] theorem State.setCluster_map (s : State) (k : Nat) (v : Cluster) : (s.setCluster k v).map = s.map := rfl
@[simp] theorem State.setCluster_mapLog (s : State) (k : Nat) (v : Cluster) : (s.setCluster k v).mapLog = s.mapLog := rfl
@[simp] theorem State.setCluster_costs (s : State) (k : Nat) (v : Cluster) : (s.setCluster k v).costs = s.costs := rfl
@[simp] theorem State.setCluster_costv (s : State) (k : Nat) (v : Cluster) : (s.setCluster k v).costv = s.costv := rfl
@[simp] theorem State.setCluster_rev (s : State) (k : Nat) (v : Cluster) : (s.setCluster k v).rev = s.rev := rfl
@[simp] theorem State.setCluster_bootstat (s : State) (k : Nat) (v : Cluster) : (s.setCluster k v).bootstat = s.bootstat := rfl
@[simp] theorem State.setCluster_stages (s : State) (k : Nat) (v : Cluster) : (s.setCluster k v).stages = s.stages := rfl
@[simp] theorem State.setCluster_identities (s : State) (k : Nat) (v : Cluster) : (s.setCluster k v).identities = s.identities := rfl
@[simp] theorem State.setCluster_regs (s : State) (k : Nat) (v : Cluster) : (s.setCluster k v).regs = s.regs := rfl
@[simp] theorem State.setCluster_devnrg (s : State) (k : Nat) (v : Cluster) : (s.setCluster k v).devnrg = s.devnrg := rfl
@[simp] theorem State.setCluster_mem (s : State) (k : Nat) (v : Cluster) : (s.setCluster k v).mem = s.mem := rfl
@[simp] theorem State.setCluster_poison (s : State) (k : Nat) (v : Cluster) : (s.setCluster k v).poison = s.poison := rfl
@[simp] theorem State.setCluster_sync (s : State) (k : Nat) (v : Cluster) : (s.setCluster k v).sync = s.sync := rfl
@[simp] theorem State.setCluster_trays (s : State) (k : Nat) (v : Cluster) : (s.setCluster k v).trays = s.trays := rfl
@[simp] theorem State.setCluster_users (s : State) (k : Nat) (v : Cluster) : (s.setCluster k v).users = s.users := rfl
@[simp] theorem State.setCluster_bars (s : State) (k : Nat) (v : Cluster) : (s.setCluster k v).bars = s.bars := rfl
@[simp] theorem State.setCluster_fills (s : State) (k : Nat) (v : Cluster) : (s.setCluster k v).fills = s.fills := rfl
@[simp] theorem State.setCluster_proofed (s : State) (k : Nat) (v : Cluster) : (s.setCluster k v).proofed = s.proofed := rfl
@[simp] theorem State.setCluster_vetoed (s : State) (k : Nat) (v : Cluster) : (s.setCluster k v).vetoed = s.vetoed := rfl
@[simp] theorem State.setCluster_tlb (s : State) (k : Nat) (v : Cluster) : (s.setCluster k v).tlb = s.tlb := rfl
@[simp] theorem State.setCluster_checkedAreas (s : State) (k : Nat) (v : Cluster) : (s.setCluster k v).checkedAreas = s.checkedAreas := rfl
@[simp] theorem State.setCluster_decoders (s : State) (k : Nat) (v : Cluster) : (s.setCluster k v).decoders = s.decoders := rfl
@[simp] theorem State.setCluster_atsDenied (s : State) (k : Nat) (v : Cluster) : (s.setCluster k v).atsDenied = s.atsDenied := rfl
@[simp] theorem State.setCluster_peerDenied (s : State) (k : Nat) (v : Cluster) : (s.setCluster k v).peerDenied = s.peerDenied := rfl
@[simp] theorem State.setCluster_epochs (s : State) (k : Nat) (v : Cluster) : (s.setCluster k v).epochs = s.epochs := rfl
@[simp] theorem State.setCluster_slotRel (s : State) (k : Nat) (v : Cluster) : (s.setCluster k v).slotRel = s.slotRel := rfl
@[simp] theorem State.setCluster_stamps (s : State) (k : Nat) (v : Cluster) : (s.setCluster k v).stamps = s.stamps := rfl
@[simp] theorem State.setCluster_rels (s : State) (k : Nat) (v : Cluster) : (s.setCluster k v).rels = s.rels := rfl
@[simp] theorem State.setCluster_coms (s : State) (k : Nat) (v : Cluster) : (s.setCluster k v).coms = s.coms := rfl
@[simp] theorem State.setCluster_posted (s : State) (k : Nat) (v : Cluster) : (s.setCluster k v).posted = s.posted := rfl
@[simp] theorem State.setCluster_groups (s : State) (k : Nat) (v : Cluster) : (s.setCluster k v).groups = s.groups := rfl
@[simp] theorem State.setCluster_mccs (s : State) (k : Nat) (v : Cluster) : (s.setCluster k v).mccs = s.mccs := rfl
@[simp] theorem State.setCluster_stores (s : State) (k : Nat) (v : Cluster) : (s.setCluster k v).stores = s.stores := rfl
@[simp] theorem State.setCluster_teams (s : State) (k : Nat) (v : Cluster) : (s.setCluster k v).teams = s.teams := rfl
@[simp] theorem State.setCluster_gangs (s : State) (k : Nat) (v : Cluster) : (s.setCluster k v).gangs = s.gangs := rfl
@[simp] theorem State.setCluster_grids (s : State) (k : Nat) (v : Cluster) : (s.setCluster k v).grids = s.grids := rfl
@[simp] theorem State.setCluster_packets (s : State) (k : Nat) (v : Cluster) : (s.setCluster k v).packets = s.packets := rfl
@[simp] theorem State.setCluster_engines (s : State) (k : Nat) (v : Cluster) : (s.setCluster k v).engines = s.engines := rfl
@[simp] theorem State.setCluster_ctxs (s : State) (k : Nat) (v : Cluster) : (s.setCluster k v).ctxs = s.ctxs := rfl
@[simp] theorem State.setCluster_quotes (s : State) (k : Nat) (v : Cluster) : (s.setCluster k v).quotes = s.quotes := rfl
@[simp] theorem State.setCluster_reservations (s : State) (k : Nat) (v : Cluster) : (s.setCluster k v).reservations = s.reservations := rfl
@[simp] theorem State.setCluster_walks (s : State) (k : Nat) (v : Cluster) : (s.setCluster k v).walks = s.walks := rfl
@[simp] theorem State.setCluster_nextQid (s : State) (k : Nat) (v : Cluster) : (s.setCluster k v).nextQid = s.nextQid := rfl
@[simp] theorem State.setCluster_nextGrid (s : State) (k : Nat) (v : Cluster) : (s.setCluster k v).nextGrid = s.nextGrid := rfl
@[simp] theorem State.setCluster_nextGang (s : State) (k : Nat) (v : Cluster) : (s.setCluster k v).nextGang = s.nextGang := rfl
@[simp] theorem State.setCluster_nextPacket (s : State) (k : Nat) (v : Cluster) : (s.setCluster k v).nextPacket = s.nextPacket := rfl
@[simp] theorem State.setCluster_nextEgress (s : State) (k : Nat) (v : Cluster) : (s.setCluster k v).nextEgress = s.nextEgress := rfl
@[simp] theorem State.setCluster_nextReservation (s : State) (k : Nat) (v : Cluster) : (s.setCluster k v).nextReservation = s.nextReservation := rfl
@[simp] theorem State.setCluster_completions (s : State) (k : Nat) (v : Cluster) : (s.setCluster k v).completions = s.completions := rfl
@[simp] theorem State.setCluster_finals (s : State) (k : Nat) (v : Cluster) : (s.setCluster k v).finals = s.finals := rfl
@[simp] theorem State.setCluster_suspects (s : State) (k : Nat) (v : Cluster) : (s.setCluster k v).suspects = s.suspects := rfl
@[simp] theorem State.setCluster_scanSeq (s : State) (k : Nat) (v : Cluster) : (s.setCluster k v).scanSeq = s.scanSeq := rfl
@[simp] theorem State.setCluster_counters (s : State) (k : Nat) (v : Cluster) : (s.setCluster k v).counters = s.counters := rfl
@[simp] theorem State.setCluster_qis (s : State) (k : Nat) (v : Cluster) : (s.setCluster k v).qis = s.qis := rfl
@[simp] theorem State.setCluster_egresses (s : State) (k : Nat) (v : Cluster) : (s.setCluster k v).egresses = s.egresses := rfl
@[simp] theorem State.setCluster_interrupts (s : State) (k : Nat) (v : Cluster) : (s.setCluster k v).interrupts = s.interrupts := rfl
@[simp] theorem State.setCluster_votes (s : State) (k : Nat) (v : Cluster) : (s.setCluster k v).votes = s.votes := rfl
@[simp] theorem State.setCluster_settle (s : State) (k : Nat) (v : Cluster) : (s.setCluster k v).settle = s.settle := rfl
@[simp] theorem State.setCluster_recovering (s : State) (k : Nat) (v : Cluster) : (s.setCluster k v).recovering = s.recovering := rfl
@[simp] theorem State.setCluster_locked (s : State) (k : Nat) (v : Cluster) : (s.setCluster k v).locked = s.locked := rfl
@[simp] theorem State.setCluster_spdm (s : State) (k : Nat) (v : Cluster) : (s.setCluster k v).spdm = s.spdm := rfl
@[simp] theorem State.setCluster_migrations (s : State) (k : Nat) (v : Cluster) : (s.setCluster k v).migrations = s.migrations := rfl
@[simp] theorem State.setCluster_checked (s : State) (k : Nat) (v : Cluster) : (s.setCluster k v).checked = s.checked := rfl
@[simp] theorem State.setCluster_group (s : State) (k j : Nat) (v : Cluster) : (s.setCluster k v).group j = s.group j := rfl
@[simp] theorem State.setCluster_gang (s : State) (k j : Nat) (v : Cluster) : (s.setCluster k v).gang j = s.gang j := rfl
@[simp] theorem State.setCluster_grid (s : State) (k j : Nat) (v : Cluster) : (s.setCluster k v).grid j = s.grid j := rfl
@[simp] theorem State.setCluster_team (s : State) (k j : Nat) (v : Cluster) : (s.setCluster k v).team j = s.team j := rfl
@[simp] theorem State.setCluster_ctx (s : State) (k j : Nat) (v : Cluster) : (s.setCluster k v).ctx j = s.ctx j := rfl
@[simp] theorem State.setCluster_engine (s : State) (k j : Nat) (v : Cluster) : (s.setCluster k v).engine j = s.engine j := rfl
@[simp] theorem State.setCluster_qi (s : State) (k j : Nat) (v : Cluster) : (s.setCluster k v).qi j = s.qi j := rfl
theorem State.cluster_setCluster (s : State) (k j : Nat) (v : Cluster) : (s.setCluster k v).cluster j = if j = k then v else s.cluster j :=
  Tab.read_put s.clusters k j v _
@[simp] theorem State.cluster_setCluster_self (s : State) (k : Nat) (v : Cluster) : (s.setCluster k v).cluster k = v :=
  Tab.read_put_self s.clusters k v _
@[simp] theorem State.setCluster_setCluster (s : State) (k : Nat) (v w : Cluster) : (s.setCluster k v).setCluster k w = s.setCluster k w := by
  simp [State.setCluster]

@[simp] theorem State.setEngine_engines (s : State) (k : Nat) (v : Engine) : (s.setEngine k v).engines = Tab.put s.engines k v := rfl
@[simp] theorem State.setEngine_turn (s : State) (k : Nat) (v : Engine) : (s.setEngine k v).turn = s.turn := rfl
@[simp] theorem State.setEngine_agenda (s : State) (k : Nat) (v : Engine) : (s.setEngine k v).agenda = s.agenda := rfl
@[simp] theorem State.setEngine_freeCtr (s : State) (k : Nat) (v : Engine) : (s.setEngine k v).freeCtr = s.freeCtr := rfl
@[simp] theorem State.setEngine_hub (s : State) (k : Nat) (v : Engine) : (s.setEngine k v).hub = s.hub := rfl
@[simp] theorem State.setEngine_mapv (s : State) (k : Nat) (v : Engine) : (s.setEngine k v).mapv = s.mapv := rfl
@[simp] theorem State.setEngine_map (s : State) (k : Nat) (v : Engine) : (s.setEngine k v).map = s.map := rfl
@[simp] theorem State.setEngine_mapLog (s : State) (k : Nat) (v : Engine) : (s.setEngine k v).mapLog = s.mapLog := rfl
@[simp] theorem State.setEngine_costs (s : State) (k : Nat) (v : Engine) : (s.setEngine k v).costs = s.costs := rfl
@[simp] theorem State.setEngine_costv (s : State) (k : Nat) (v : Engine) : (s.setEngine k v).costv = s.costv := rfl
@[simp] theorem State.setEngine_rev (s : State) (k : Nat) (v : Engine) : (s.setEngine k v).rev = s.rev := rfl
@[simp] theorem State.setEngine_bootstat (s : State) (k : Nat) (v : Engine) : (s.setEngine k v).bootstat = s.bootstat := rfl
@[simp] theorem State.setEngine_stages (s : State) (k : Nat) (v : Engine) : (s.setEngine k v).stages = s.stages := rfl
@[simp] theorem State.setEngine_identities (s : State) (k : Nat) (v : Engine) : (s.setEngine k v).identities = s.identities := rfl
@[simp] theorem State.setEngine_regs (s : State) (k : Nat) (v : Engine) : (s.setEngine k v).regs = s.regs := rfl
@[simp] theorem State.setEngine_devnrg (s : State) (k : Nat) (v : Engine) : (s.setEngine k v).devnrg = s.devnrg := rfl
@[simp] theorem State.setEngine_mem (s : State) (k : Nat) (v : Engine) : (s.setEngine k v).mem = s.mem := rfl
@[simp] theorem State.setEngine_poison (s : State) (k : Nat) (v : Engine) : (s.setEngine k v).poison = s.poison := rfl
@[simp] theorem State.setEngine_sync (s : State) (k : Nat) (v : Engine) : (s.setEngine k v).sync = s.sync := rfl
@[simp] theorem State.setEngine_trays (s : State) (k : Nat) (v : Engine) : (s.setEngine k v).trays = s.trays := rfl
@[simp] theorem State.setEngine_users (s : State) (k : Nat) (v : Engine) : (s.setEngine k v).users = s.users := rfl
@[simp] theorem State.setEngine_bars (s : State) (k : Nat) (v : Engine) : (s.setEngine k v).bars = s.bars := rfl
@[simp] theorem State.setEngine_fills (s : State) (k : Nat) (v : Engine) : (s.setEngine k v).fills = s.fills := rfl
@[simp] theorem State.setEngine_proofed (s : State) (k : Nat) (v : Engine) : (s.setEngine k v).proofed = s.proofed := rfl
@[simp] theorem State.setEngine_vetoed (s : State) (k : Nat) (v : Engine) : (s.setEngine k v).vetoed = s.vetoed := rfl
@[simp] theorem State.setEngine_tlb (s : State) (k : Nat) (v : Engine) : (s.setEngine k v).tlb = s.tlb := rfl
@[simp] theorem State.setEngine_checkedAreas (s : State) (k : Nat) (v : Engine) : (s.setEngine k v).checkedAreas = s.checkedAreas := rfl
@[simp] theorem State.setEngine_decoders (s : State) (k : Nat) (v : Engine) : (s.setEngine k v).decoders = s.decoders := rfl
@[simp] theorem State.setEngine_atsDenied (s : State) (k : Nat) (v : Engine) : (s.setEngine k v).atsDenied = s.atsDenied := rfl
@[simp] theorem State.setEngine_peerDenied (s : State) (k : Nat) (v : Engine) : (s.setEngine k v).peerDenied = s.peerDenied := rfl
@[simp] theorem State.setEngine_epochs (s : State) (k : Nat) (v : Engine) : (s.setEngine k v).epochs = s.epochs := rfl
@[simp] theorem State.setEngine_slotRel (s : State) (k : Nat) (v : Engine) : (s.setEngine k v).slotRel = s.slotRel := rfl
@[simp] theorem State.setEngine_stamps (s : State) (k : Nat) (v : Engine) : (s.setEngine k v).stamps = s.stamps := rfl
@[simp] theorem State.setEngine_rels (s : State) (k : Nat) (v : Engine) : (s.setEngine k v).rels = s.rels := rfl
@[simp] theorem State.setEngine_coms (s : State) (k : Nat) (v : Engine) : (s.setEngine k v).coms = s.coms := rfl
@[simp] theorem State.setEngine_posted (s : State) (k : Nat) (v : Engine) : (s.setEngine k v).posted = s.posted := rfl
@[simp] theorem State.setEngine_clusters (s : State) (k : Nat) (v : Engine) : (s.setEngine k v).clusters = s.clusters := rfl
@[simp] theorem State.setEngine_groups (s : State) (k : Nat) (v : Engine) : (s.setEngine k v).groups = s.groups := rfl
@[simp] theorem State.setEngine_mccs (s : State) (k : Nat) (v : Engine) : (s.setEngine k v).mccs = s.mccs := rfl
@[simp] theorem State.setEngine_stores (s : State) (k : Nat) (v : Engine) : (s.setEngine k v).stores = s.stores := rfl
@[simp] theorem State.setEngine_teams (s : State) (k : Nat) (v : Engine) : (s.setEngine k v).teams = s.teams := rfl
@[simp] theorem State.setEngine_gangs (s : State) (k : Nat) (v : Engine) : (s.setEngine k v).gangs = s.gangs := rfl
@[simp] theorem State.setEngine_grids (s : State) (k : Nat) (v : Engine) : (s.setEngine k v).grids = s.grids := rfl
@[simp] theorem State.setEngine_packets (s : State) (k : Nat) (v : Engine) : (s.setEngine k v).packets = s.packets := rfl
@[simp] theorem State.setEngine_ctxs (s : State) (k : Nat) (v : Engine) : (s.setEngine k v).ctxs = s.ctxs := rfl
@[simp] theorem State.setEngine_quotes (s : State) (k : Nat) (v : Engine) : (s.setEngine k v).quotes = s.quotes := rfl
@[simp] theorem State.setEngine_reservations (s : State) (k : Nat) (v : Engine) : (s.setEngine k v).reservations = s.reservations := rfl
@[simp] theorem State.setEngine_walks (s : State) (k : Nat) (v : Engine) : (s.setEngine k v).walks = s.walks := rfl
@[simp] theorem State.setEngine_nextQid (s : State) (k : Nat) (v : Engine) : (s.setEngine k v).nextQid = s.nextQid := rfl
@[simp] theorem State.setEngine_nextGrid (s : State) (k : Nat) (v : Engine) : (s.setEngine k v).nextGrid = s.nextGrid := rfl
@[simp] theorem State.setEngine_nextGang (s : State) (k : Nat) (v : Engine) : (s.setEngine k v).nextGang = s.nextGang := rfl
@[simp] theorem State.setEngine_nextPacket (s : State) (k : Nat) (v : Engine) : (s.setEngine k v).nextPacket = s.nextPacket := rfl
@[simp] theorem State.setEngine_nextEgress (s : State) (k : Nat) (v : Engine) : (s.setEngine k v).nextEgress = s.nextEgress := rfl
@[simp] theorem State.setEngine_nextReservation (s : State) (k : Nat) (v : Engine) : (s.setEngine k v).nextReservation = s.nextReservation := rfl
@[simp] theorem State.setEngine_completions (s : State) (k : Nat) (v : Engine) : (s.setEngine k v).completions = s.completions := rfl
@[simp] theorem State.setEngine_finals (s : State) (k : Nat) (v : Engine) : (s.setEngine k v).finals = s.finals := rfl
@[simp] theorem State.setEngine_suspects (s : State) (k : Nat) (v : Engine) : (s.setEngine k v).suspects = s.suspects := rfl
@[simp] theorem State.setEngine_scanSeq (s : State) (k : Nat) (v : Engine) : (s.setEngine k v).scanSeq = s.scanSeq := rfl
@[simp] theorem State.setEngine_counters (s : State) (k : Nat) (v : Engine) : (s.setEngine k v).counters = s.counters := rfl
@[simp] theorem State.setEngine_qis (s : State) (k : Nat) (v : Engine) : (s.setEngine k v).qis = s.qis := rfl
@[simp] theorem State.setEngine_egresses (s : State) (k : Nat) (v : Engine) : (s.setEngine k v).egresses = s.egresses := rfl
@[simp] theorem State.setEngine_interrupts (s : State) (k : Nat) (v : Engine) : (s.setEngine k v).interrupts = s.interrupts := rfl
@[simp] theorem State.setEngine_votes (s : State) (k : Nat) (v : Engine) : (s.setEngine k v).votes = s.votes := rfl
@[simp] theorem State.setEngine_settle (s : State) (k : Nat) (v : Engine) : (s.setEngine k v).settle = s.settle := rfl
@[simp] theorem State.setEngine_recovering (s : State) (k : Nat) (v : Engine) : (s.setEngine k v).recovering = s.recovering := rfl
@[simp] theorem State.setEngine_locked (s : State) (k : Nat) (v : Engine) : (s.setEngine k v).locked = s.locked := rfl
@[simp] theorem State.setEngine_spdm (s : State) (k : Nat) (v : Engine) : (s.setEngine k v).spdm = s.spdm := rfl
@[simp] theorem State.setEngine_migrations (s : State) (k : Nat) (v : Engine) : (s.setEngine k v).migrations = s.migrations := rfl
@[simp] theorem State.setEngine_checked (s : State) (k : Nat) (v : Engine) : (s.setEngine k v).checked = s.checked := rfl
@[simp] theorem State.setEngine_group (s : State) (k j : Nat) (v : Engine) : (s.setEngine k v).group j = s.group j := rfl
@[simp] theorem State.setEngine_gang (s : State) (k j : Nat) (v : Engine) : (s.setEngine k v).gang j = s.gang j := rfl
@[simp] theorem State.setEngine_grid (s : State) (k j : Nat) (v : Engine) : (s.setEngine k v).grid j = s.grid j := rfl
@[simp] theorem State.setEngine_team (s : State) (k j : Nat) (v : Engine) : (s.setEngine k v).team j = s.team j := rfl
@[simp] theorem State.setEngine_ctx (s : State) (k j : Nat) (v : Engine) : (s.setEngine k v).ctx j = s.ctx j := rfl
@[simp] theorem State.setEngine_cluster (s : State) (k j : Nat) (v : Engine) : (s.setEngine k v).cluster j = s.cluster j := rfl
@[simp] theorem State.setEngine_qi (s : State) (k j : Nat) (v : Engine) : (s.setEngine k v).qi j = s.qi j := rfl
theorem State.engine_setEngine (s : State) (k j : Nat) (v : Engine) : (s.setEngine k v).engine j = if j = k then v else s.engine j :=
  Tab.read_put s.engines k j v _
@[simp] theorem State.engine_setEngine_self (s : State) (k : Nat) (v : Engine) : (s.setEngine k v).engine k = v :=
  Tab.read_put_self s.engines k v _
@[simp] theorem State.setEngine_setEngine (s : State) (k : Nat) (v w : Engine) : (s.setEngine k v).setEngine k w = s.setEngine k w := by
  simp [State.setEngine]

@[simp] theorem State.setQi_qis (s : State) (k : Nat) (v : Qi) : (s.setQi k v).qis = Tab.put s.qis k v := rfl
@[simp] theorem State.setQi_turn (s : State) (k : Nat) (v : Qi) : (s.setQi k v).turn = s.turn := rfl
@[simp] theorem State.setQi_agenda (s : State) (k : Nat) (v : Qi) : (s.setQi k v).agenda = s.agenda := rfl
@[simp] theorem State.setQi_freeCtr (s : State) (k : Nat) (v : Qi) : (s.setQi k v).freeCtr = s.freeCtr := rfl
@[simp] theorem State.setQi_hub (s : State) (k : Nat) (v : Qi) : (s.setQi k v).hub = s.hub := rfl
@[simp] theorem State.setQi_mapv (s : State) (k : Nat) (v : Qi) : (s.setQi k v).mapv = s.mapv := rfl
@[simp] theorem State.setQi_map (s : State) (k : Nat) (v : Qi) : (s.setQi k v).map = s.map := rfl
@[simp] theorem State.setQi_mapLog (s : State) (k : Nat) (v : Qi) : (s.setQi k v).mapLog = s.mapLog := rfl
@[simp] theorem State.setQi_costs (s : State) (k : Nat) (v : Qi) : (s.setQi k v).costs = s.costs := rfl
@[simp] theorem State.setQi_costv (s : State) (k : Nat) (v : Qi) : (s.setQi k v).costv = s.costv := rfl
@[simp] theorem State.setQi_rev (s : State) (k : Nat) (v : Qi) : (s.setQi k v).rev = s.rev := rfl
@[simp] theorem State.setQi_bootstat (s : State) (k : Nat) (v : Qi) : (s.setQi k v).bootstat = s.bootstat := rfl
@[simp] theorem State.setQi_stages (s : State) (k : Nat) (v : Qi) : (s.setQi k v).stages = s.stages := rfl
@[simp] theorem State.setQi_identities (s : State) (k : Nat) (v : Qi) : (s.setQi k v).identities = s.identities := rfl
@[simp] theorem State.setQi_regs (s : State) (k : Nat) (v : Qi) : (s.setQi k v).regs = s.regs := rfl
@[simp] theorem State.setQi_devnrg (s : State) (k : Nat) (v : Qi) : (s.setQi k v).devnrg = s.devnrg := rfl
@[simp] theorem State.setQi_mem (s : State) (k : Nat) (v : Qi) : (s.setQi k v).mem = s.mem := rfl
@[simp] theorem State.setQi_poison (s : State) (k : Nat) (v : Qi) : (s.setQi k v).poison = s.poison := rfl
@[simp] theorem State.setQi_sync (s : State) (k : Nat) (v : Qi) : (s.setQi k v).sync = s.sync := rfl
@[simp] theorem State.setQi_trays (s : State) (k : Nat) (v : Qi) : (s.setQi k v).trays = s.trays := rfl
@[simp] theorem State.setQi_users (s : State) (k : Nat) (v : Qi) : (s.setQi k v).users = s.users := rfl
@[simp] theorem State.setQi_bars (s : State) (k : Nat) (v : Qi) : (s.setQi k v).bars = s.bars := rfl
@[simp] theorem State.setQi_fills (s : State) (k : Nat) (v : Qi) : (s.setQi k v).fills = s.fills := rfl
@[simp] theorem State.setQi_proofed (s : State) (k : Nat) (v : Qi) : (s.setQi k v).proofed = s.proofed := rfl
@[simp] theorem State.setQi_vetoed (s : State) (k : Nat) (v : Qi) : (s.setQi k v).vetoed = s.vetoed := rfl
@[simp] theorem State.setQi_tlb (s : State) (k : Nat) (v : Qi) : (s.setQi k v).tlb = s.tlb := rfl
@[simp] theorem State.setQi_checkedAreas (s : State) (k : Nat) (v : Qi) : (s.setQi k v).checkedAreas = s.checkedAreas := rfl
@[simp] theorem State.setQi_decoders (s : State) (k : Nat) (v : Qi) : (s.setQi k v).decoders = s.decoders := rfl
@[simp] theorem State.setQi_atsDenied (s : State) (k : Nat) (v : Qi) : (s.setQi k v).atsDenied = s.atsDenied := rfl
@[simp] theorem State.setQi_peerDenied (s : State) (k : Nat) (v : Qi) : (s.setQi k v).peerDenied = s.peerDenied := rfl
@[simp] theorem State.setQi_epochs (s : State) (k : Nat) (v : Qi) : (s.setQi k v).epochs = s.epochs := rfl
@[simp] theorem State.setQi_slotRel (s : State) (k : Nat) (v : Qi) : (s.setQi k v).slotRel = s.slotRel := rfl
@[simp] theorem State.setQi_stamps (s : State) (k : Nat) (v : Qi) : (s.setQi k v).stamps = s.stamps := rfl
@[simp] theorem State.setQi_rels (s : State) (k : Nat) (v : Qi) : (s.setQi k v).rels = s.rels := rfl
@[simp] theorem State.setQi_coms (s : State) (k : Nat) (v : Qi) : (s.setQi k v).coms = s.coms := rfl
@[simp] theorem State.setQi_posted (s : State) (k : Nat) (v : Qi) : (s.setQi k v).posted = s.posted := rfl
@[simp] theorem State.setQi_clusters (s : State) (k : Nat) (v : Qi) : (s.setQi k v).clusters = s.clusters := rfl
@[simp] theorem State.setQi_groups (s : State) (k : Nat) (v : Qi) : (s.setQi k v).groups = s.groups := rfl
@[simp] theorem State.setQi_mccs (s : State) (k : Nat) (v : Qi) : (s.setQi k v).mccs = s.mccs := rfl
@[simp] theorem State.setQi_stores (s : State) (k : Nat) (v : Qi) : (s.setQi k v).stores = s.stores := rfl
@[simp] theorem State.setQi_teams (s : State) (k : Nat) (v : Qi) : (s.setQi k v).teams = s.teams := rfl
@[simp] theorem State.setQi_gangs (s : State) (k : Nat) (v : Qi) : (s.setQi k v).gangs = s.gangs := rfl
@[simp] theorem State.setQi_grids (s : State) (k : Nat) (v : Qi) : (s.setQi k v).grids = s.grids := rfl
@[simp] theorem State.setQi_packets (s : State) (k : Nat) (v : Qi) : (s.setQi k v).packets = s.packets := rfl
@[simp] theorem State.setQi_engines (s : State) (k : Nat) (v : Qi) : (s.setQi k v).engines = s.engines := rfl
@[simp] theorem State.setQi_ctxs (s : State) (k : Nat) (v : Qi) : (s.setQi k v).ctxs = s.ctxs := rfl
@[simp] theorem State.setQi_quotes (s : State) (k : Nat) (v : Qi) : (s.setQi k v).quotes = s.quotes := rfl
@[simp] theorem State.setQi_reservations (s : State) (k : Nat) (v : Qi) : (s.setQi k v).reservations = s.reservations := rfl
@[simp] theorem State.setQi_walks (s : State) (k : Nat) (v : Qi) : (s.setQi k v).walks = s.walks := rfl
@[simp] theorem State.setQi_nextQid (s : State) (k : Nat) (v : Qi) : (s.setQi k v).nextQid = s.nextQid := rfl
@[simp] theorem State.setQi_nextGrid (s : State) (k : Nat) (v : Qi) : (s.setQi k v).nextGrid = s.nextGrid := rfl
@[simp] theorem State.setQi_nextGang (s : State) (k : Nat) (v : Qi) : (s.setQi k v).nextGang = s.nextGang := rfl
@[simp] theorem State.setQi_nextPacket (s : State) (k : Nat) (v : Qi) : (s.setQi k v).nextPacket = s.nextPacket := rfl
@[simp] theorem State.setQi_nextEgress (s : State) (k : Nat) (v : Qi) : (s.setQi k v).nextEgress = s.nextEgress := rfl
@[simp] theorem State.setQi_nextReservation (s : State) (k : Nat) (v : Qi) : (s.setQi k v).nextReservation = s.nextReservation := rfl
@[simp] theorem State.setQi_completions (s : State) (k : Nat) (v : Qi) : (s.setQi k v).completions = s.completions := rfl
@[simp] theorem State.setQi_finals (s : State) (k : Nat) (v : Qi) : (s.setQi k v).finals = s.finals := rfl
@[simp] theorem State.setQi_suspects (s : State) (k : Nat) (v : Qi) : (s.setQi k v).suspects = s.suspects := rfl
@[simp] theorem State.setQi_scanSeq (s : State) (k : Nat) (v : Qi) : (s.setQi k v).scanSeq = s.scanSeq := rfl
@[simp] theorem State.setQi_counters (s : State) (k : Nat) (v : Qi) : (s.setQi k v).counters = s.counters := rfl
@[simp] theorem State.setQi_egresses (s : State) (k : Nat) (v : Qi) : (s.setQi k v).egresses = s.egresses := rfl
@[simp] theorem State.setQi_interrupts (s : State) (k : Nat) (v : Qi) : (s.setQi k v).interrupts = s.interrupts := rfl
@[simp] theorem State.setQi_votes (s : State) (k : Nat) (v : Qi) : (s.setQi k v).votes = s.votes := rfl
@[simp] theorem State.setQi_settle (s : State) (k : Nat) (v : Qi) : (s.setQi k v).settle = s.settle := rfl
@[simp] theorem State.setQi_recovering (s : State) (k : Nat) (v : Qi) : (s.setQi k v).recovering = s.recovering := rfl
@[simp] theorem State.setQi_locked (s : State) (k : Nat) (v : Qi) : (s.setQi k v).locked = s.locked := rfl
@[simp] theorem State.setQi_spdm (s : State) (k : Nat) (v : Qi) : (s.setQi k v).spdm = s.spdm := rfl
@[simp] theorem State.setQi_migrations (s : State) (k : Nat) (v : Qi) : (s.setQi k v).migrations = s.migrations := rfl
@[simp] theorem State.setQi_checked (s : State) (k : Nat) (v : Qi) : (s.setQi k v).checked = s.checked := rfl
@[simp] theorem State.setQi_group (s : State) (k j : Nat) (v : Qi) : (s.setQi k v).group j = s.group j := rfl
@[simp] theorem State.setQi_gang (s : State) (k j : Nat) (v : Qi) : (s.setQi k v).gang j = s.gang j := rfl
@[simp] theorem State.setQi_grid (s : State) (k j : Nat) (v : Qi) : (s.setQi k v).grid j = s.grid j := rfl
@[simp] theorem State.setQi_team (s : State) (k j : Nat) (v : Qi) : (s.setQi k v).team j = s.team j := rfl
@[simp] theorem State.setQi_ctx (s : State) (k j : Nat) (v : Qi) : (s.setQi k v).ctx j = s.ctx j := rfl
@[simp] theorem State.setQi_cluster (s : State) (k j : Nat) (v : Qi) : (s.setQi k v).cluster j = s.cluster j := rfl
@[simp] theorem State.setQi_engine (s : State) (k j : Nat) (v : Qi) : (s.setQi k v).engine j = s.engine j := rfl
theorem State.qi_setQi (s : State) (k j : Nat) (v : Qi) : (s.setQi k v).qi j = if j = k then v else s.qi j :=
  Tab.read_put s.qis k j v _
@[simp] theorem State.qi_setQi_self (s : State) (k : Nat) (v : Qi) : (s.setQi k v).qi k = v :=
  Tab.read_put_self s.qis k v _
@[simp] theorem State.setQi_setQi (s : State) (k : Nat) (v w : Qi) : (s.setQi k v).setQi k w = s.setQi k w := by
  simp [State.setQi]

@[simp] theorem State.draw_turn (s : State) : s.draw.turn = s.turn := rfl
@[simp] theorem State.draw_agenda (s : State) : s.draw.agenda = s.agenda := rfl
@[simp] theorem State.draw_freeCtr (s : State) : s.draw.freeCtr = s.freeCtr + 1 := rfl
@[simp] theorem State.draw_hub (s : State) : s.draw.hub = s.hub := rfl
@[simp] theorem State.draw_mapv (s : State) : s.draw.mapv = s.mapv := rfl
@[simp] theorem State.draw_map (s : State) : s.draw.map = s.map := rfl
@[simp] theorem State.draw_mapLog (s : State) : s.draw.mapLog = s.mapLog := rfl
@[simp] theorem State.draw_costs (s : State) : s.draw.costs = s.costs := rfl
@[simp] theorem State.draw_costv (s : State) : s.draw.costv = s.costv := rfl
@[simp] theorem State.draw_rev (s : State) : s.draw.rev = s.rev := rfl
@[simp] theorem State.draw_bootstat (s : State) : s.draw.bootstat = s.bootstat := rfl
@[simp] theorem State.draw_stages (s : State) : s.draw.stages = s.stages := rfl
@[simp] theorem State.draw_identities (s : State) : s.draw.identities = s.identities := rfl
@[simp] theorem State.draw_regs (s : State) : s.draw.regs = s.regs := rfl
@[simp] theorem State.draw_devnrg (s : State) : s.draw.devnrg = s.devnrg := rfl
@[simp] theorem State.draw_mem (s : State) : s.draw.mem = s.mem := rfl
@[simp] theorem State.draw_poison (s : State) : s.draw.poison = s.poison := rfl
@[simp] theorem State.draw_sync (s : State) : s.draw.sync = s.sync := rfl
@[simp] theorem State.draw_trays (s : State) : s.draw.trays = s.trays := rfl
@[simp] theorem State.draw_users (s : State) : s.draw.users = s.users := rfl
@[simp] theorem State.draw_bars (s : State) : s.draw.bars = s.bars := rfl
@[simp] theorem State.draw_fills (s : State) : s.draw.fills = s.fills := rfl
@[simp] theorem State.draw_proofed (s : State) : s.draw.proofed = s.proofed := rfl
@[simp] theorem State.draw_vetoed (s : State) : s.draw.vetoed = s.vetoed := rfl
@[simp] theorem State.draw_tlb (s : State) : s.draw.tlb = s.tlb := rfl
@[simp] theorem State.draw_checkedAreas (s : State) : s.draw.checkedAreas = s.checkedAreas := rfl
@[simp] theorem State.draw_decoders (s : State) : s.draw.decoders = s.decoders := rfl
@[simp] theorem State.draw_atsDenied (s : State) : s.draw.atsDenied = s.atsDenied := rfl
@[simp] theorem State.draw_peerDenied (s : State) : s.draw.peerDenied = s.peerDenied := rfl
@[simp] theorem State.draw_epochs (s : State) : s.draw.epochs = s.epochs := rfl
@[simp] theorem State.draw_slotRel (s : State) : s.draw.slotRel = s.slotRel := rfl
@[simp] theorem State.draw_stamps (s : State) : s.draw.stamps = s.stamps := rfl
@[simp] theorem State.draw_rels (s : State) : s.draw.rels = s.rels := rfl
@[simp] theorem State.draw_coms (s : State) : s.draw.coms = s.coms := rfl
@[simp] theorem State.draw_posted (s : State) : s.draw.posted = s.posted := rfl
@[simp] theorem State.draw_clusters (s : State) : s.draw.clusters = s.clusters := rfl
@[simp] theorem State.draw_groups (s : State) : s.draw.groups = s.groups := rfl
@[simp] theorem State.draw_mccs (s : State) : s.draw.mccs = s.mccs := rfl
@[simp] theorem State.draw_stores (s : State) : s.draw.stores = s.stores := rfl
@[simp] theorem State.draw_teams (s : State) : s.draw.teams = s.teams := rfl
@[simp] theorem State.draw_gangs (s : State) : s.draw.gangs = s.gangs := rfl
@[simp] theorem State.draw_grids (s : State) : s.draw.grids = s.grids := rfl
@[simp] theorem State.draw_packets (s : State) : s.draw.packets = s.packets := rfl
@[simp] theorem State.draw_engines (s : State) : s.draw.engines = s.engines := rfl
@[simp] theorem State.draw_ctxs (s : State) : s.draw.ctxs = s.ctxs := rfl
@[simp] theorem State.draw_quotes (s : State) : s.draw.quotes = s.quotes := rfl
@[simp] theorem State.draw_reservations (s : State) : s.draw.reservations = s.reservations := rfl
@[simp] theorem State.draw_walks (s : State) : s.draw.walks = s.walks := rfl
@[simp] theorem State.draw_nextQid (s : State) : s.draw.nextQid = s.nextQid := rfl
@[simp] theorem State.draw_nextGrid (s : State) : s.draw.nextGrid = s.nextGrid := rfl
@[simp] theorem State.draw_nextGang (s : State) : s.draw.nextGang = s.nextGang := rfl
@[simp] theorem State.draw_nextPacket (s : State) : s.draw.nextPacket = s.nextPacket := rfl
@[simp] theorem State.draw_nextEgress (s : State) : s.draw.nextEgress = s.nextEgress := rfl
@[simp] theorem State.draw_nextReservation (s : State) : s.draw.nextReservation = s.nextReservation := rfl
@[simp] theorem State.draw_completions (s : State) : s.draw.completions = s.completions := rfl
@[simp] theorem State.draw_finals (s : State) : s.draw.finals = s.finals := rfl
@[simp] theorem State.draw_suspects (s : State) : s.draw.suspects = s.suspects := rfl
@[simp] theorem State.draw_scanSeq (s : State) : s.draw.scanSeq = s.scanSeq := rfl
@[simp] theorem State.draw_counters (s : State) : s.draw.counters = s.counters := rfl
@[simp] theorem State.draw_qis (s : State) : s.draw.qis = s.qis := rfl
@[simp] theorem State.draw_egresses (s : State) : s.draw.egresses = s.egresses := rfl
@[simp] theorem State.draw_interrupts (s : State) : s.draw.interrupts = s.interrupts := rfl
@[simp] theorem State.draw_votes (s : State) : s.draw.votes = s.votes := rfl
@[simp] theorem State.draw_settle (s : State) : s.draw.settle = s.settle := rfl
@[simp] theorem State.draw_recovering (s : State) : s.draw.recovering = s.recovering := rfl
@[simp] theorem State.draw_locked (s : State) : s.draw.locked = s.locked := rfl
@[simp] theorem State.draw_spdm (s : State) : s.draw.spdm = s.spdm := rfl
@[simp] theorem State.draw_migrations (s : State) : s.draw.migrations = s.migrations := rfl
@[simp] theorem State.draw_checked (s : State) : s.draw.checked = s.checked := rfl
@[simp] theorem State.countIn_turn (s : State) (p : Nat) (us : List (Nat × Nat)) (e n : Nat) : (s.countIn p us e n).turn = s.turn := rfl
@[simp] theorem State.countIn_agenda (s : State) (p : Nat) (us : List (Nat × Nat)) (e n : Nat) : (s.countIn p us e n).agenda = s.agenda := rfl
@[simp] theorem State.countIn_freeCtr (s : State) (p : Nat) (us : List (Nat × Nat)) (e n : Nat) : (s.countIn p us e n).freeCtr = s.freeCtr := rfl
@[simp] theorem State.countIn_hub (s : State) (p : Nat) (us : List (Nat × Nat)) (e n : Nat) : (s.countIn p us e n).hub = s.hub := rfl
@[simp] theorem State.countIn_mapv (s : State) (p : Nat) (us : List (Nat × Nat)) (e n : Nat) : (s.countIn p us e n).mapv = s.mapv := rfl
@[simp] theorem State.countIn_map (s : State) (p : Nat) (us : List (Nat × Nat)) (e n : Nat) : (s.countIn p us e n).map = s.map := rfl
@[simp] theorem State.countIn_mapLog (s : State) (p : Nat) (us : List (Nat × Nat)) (e n : Nat) : (s.countIn p us e n).mapLog = s.mapLog := rfl
@[simp] theorem State.countIn_costs (s : State) (p : Nat) (us : List (Nat × Nat)) (e n : Nat) : (s.countIn p us e n).costs = s.costs := rfl
@[simp] theorem State.countIn_costv (s : State) (p : Nat) (us : List (Nat × Nat)) (e n : Nat) : (s.countIn p us e n).costv = s.costv := rfl
@[simp] theorem State.countIn_rev (s : State) (p : Nat) (us : List (Nat × Nat)) (e n : Nat) : (s.countIn p us e n).rev = s.rev := rfl
@[simp] theorem State.countIn_bootstat (s : State) (p : Nat) (us : List (Nat × Nat)) (e n : Nat) : (s.countIn p us e n).bootstat = s.bootstat := rfl
@[simp] theorem State.countIn_stages (s : State) (p : Nat) (us : List (Nat × Nat)) (e n : Nat) : (s.countIn p us e n).stages = s.stages := rfl
@[simp] theorem State.countIn_identities (s : State) (p : Nat) (us : List (Nat × Nat)) (e n : Nat) : (s.countIn p us e n).identities = s.identities := rfl
@[simp] theorem State.countIn_regs (s : State) (p : Nat) (us : List (Nat × Nat)) (e n : Nat) : (s.countIn p us e n).regs = s.regs := rfl
@[simp] theorem State.countIn_devnrg (s : State) (p : Nat) (us : List (Nat × Nat)) (e n : Nat) : (s.countIn p us e n).devnrg = s.devnrg := rfl
@[simp] theorem State.countIn_mem (s : State) (p : Nat) (us : List (Nat × Nat)) (e n : Nat) : (s.countIn p us e n).mem = s.mem := rfl
@[simp] theorem State.countIn_poison (s : State) (p : Nat) (us : List (Nat × Nat)) (e n : Nat) : (s.countIn p us e n).poison = s.poison := rfl
@[simp] theorem State.countIn_sync (s : State) (p : Nat) (us : List (Nat × Nat)) (e n : Nat) : (s.countIn p us e n).sync = s.sync := rfl
@[simp] theorem State.countIn_trays (s : State) (p : Nat) (us : List (Nat × Nat)) (e n : Nat) : (s.countIn p us e n).trays = s.trays := rfl
@[simp] theorem State.countIn_users (s : State) (p : Nat) (us : List (Nat × Nat)) (e n : Nat) : (s.countIn p us e n).users = s.users := rfl
@[simp] theorem State.countIn_bars (s : State) (p : Nat) (us : List (Nat × Nat)) (e n : Nat) : (s.countIn p us e n).bars = s.bars := rfl
@[simp] theorem State.countIn_fills (s : State) (p : Nat) (us : List (Nat × Nat)) (e n : Nat) : (s.countIn p us e n).fills = s.fills := rfl
@[simp] theorem State.countIn_proofed (s : State) (p : Nat) (us : List (Nat × Nat)) (e n : Nat) : (s.countIn p us e n).proofed = s.proofed := rfl
@[simp] theorem State.countIn_vetoed (s : State) (p : Nat) (us : List (Nat × Nat)) (e n : Nat) : (s.countIn p us e n).vetoed = s.vetoed := rfl
@[simp] theorem State.countIn_tlb (s : State) (p : Nat) (us : List (Nat × Nat)) (e n : Nat) : (s.countIn p us e n).tlb = s.tlb := rfl
@[simp] theorem State.countIn_checkedAreas (s : State) (p : Nat) (us : List (Nat × Nat)) (e n : Nat) : (s.countIn p us e n).checkedAreas = s.checkedAreas := rfl
@[simp] theorem State.countIn_decoders (s : State) (p : Nat) (us : List (Nat × Nat)) (e n : Nat) : (s.countIn p us e n).decoders = s.decoders := rfl
@[simp] theorem State.countIn_atsDenied (s : State) (p : Nat) (us : List (Nat × Nat)) (e n : Nat) : (s.countIn p us e n).atsDenied = s.atsDenied := rfl
@[simp] theorem State.countIn_peerDenied (s : State) (p : Nat) (us : List (Nat × Nat)) (e n : Nat) : (s.countIn p us e n).peerDenied = s.peerDenied := rfl
@[simp] theorem State.countIn_epochs (s : State) (p : Nat) (us : List (Nat × Nat)) (e n : Nat) : (s.countIn p us e n).epochs = s.epochs := rfl
@[simp] theorem State.countIn_slotRel (s : State) (p : Nat) (us : List (Nat × Nat)) (e n : Nat) : (s.countIn p us e n).slotRel = s.slotRel := rfl
@[simp] theorem State.countIn_stamps (s : State) (p : Nat) (us : List (Nat × Nat)) (e n : Nat) : (s.countIn p us e n).stamps = s.stamps := rfl
@[simp] theorem State.countIn_rels (s : State) (p : Nat) (us : List (Nat × Nat)) (e n : Nat) : (s.countIn p us e n).rels = s.rels := rfl
@[simp] theorem State.countIn_coms (s : State) (p : Nat) (us : List (Nat × Nat)) (e n : Nat) : (s.countIn p us e n).coms = s.coms := rfl
@[simp] theorem State.countIn_posted (s : State) (p : Nat) (us : List (Nat × Nat)) (e n : Nat) : (s.countIn p us e n).posted = s.posted := rfl
@[simp] theorem State.countIn_clusters (s : State) (p : Nat) (us : List (Nat × Nat)) (e n : Nat) : (s.countIn p us e n).clusters = s.clusters := rfl
@[simp] theorem State.countIn_groups (s : State) (p : Nat) (us : List (Nat × Nat)) (e n : Nat) : (s.countIn p us e n).groups = s.groups := rfl
@[simp] theorem State.countIn_mccs (s : State) (p : Nat) (us : List (Nat × Nat)) (e n : Nat) : (s.countIn p us e n).mccs = s.mccs := rfl
@[simp] theorem State.countIn_stores (s : State) (p : Nat) (us : List (Nat × Nat)) (e n : Nat) : (s.countIn p us e n).stores = s.stores := rfl
@[simp] theorem State.countIn_teams (s : State) (p : Nat) (us : List (Nat × Nat)) (e n : Nat) : (s.countIn p us e n).teams = s.teams := rfl
@[simp] theorem State.countIn_gangs (s : State) (p : Nat) (us : List (Nat × Nat)) (e n : Nat) : (s.countIn p us e n).gangs = s.gangs := rfl
@[simp] theorem State.countIn_grids (s : State) (p : Nat) (us : List (Nat × Nat)) (e n : Nat) : (s.countIn p us e n).grids = s.grids := rfl
@[simp] theorem State.countIn_packets (s : State) (p : Nat) (us : List (Nat × Nat)) (e n : Nat) : (s.countIn p us e n).packets = s.packets := rfl
@[simp] theorem State.countIn_engines (s : State) (p : Nat) (us : List (Nat × Nat)) (e n : Nat) : (s.countIn p us e n).engines = s.engines := rfl
@[simp] theorem State.countIn_ctxs (s : State) (p : Nat) (us : List (Nat × Nat)) (e n : Nat) : (s.countIn p us e n).ctxs = s.ctxs := rfl
@[simp] theorem State.countIn_quotes (s : State) (p : Nat) (us : List (Nat × Nat)) (e n : Nat) : (s.countIn p us e n).quotes = s.quotes := rfl
@[simp] theorem State.countIn_reservations (s : State) (p : Nat) (us : List (Nat × Nat)) (e n : Nat) : (s.countIn p us e n).reservations = s.reservations := rfl
@[simp] theorem State.countIn_walks (s : State) (p : Nat) (us : List (Nat × Nat)) (e n : Nat) : (s.countIn p us e n).walks = s.walks := rfl
@[simp] theorem State.countIn_nextQid (s : State) (p : Nat) (us : List (Nat × Nat)) (e n : Nat) : (s.countIn p us e n).nextQid = s.nextQid := rfl
@[simp] theorem State.countIn_nextGrid (s : State) (p : Nat) (us : List (Nat × Nat)) (e n : Nat) : (s.countIn p us e n).nextGrid = s.nextGrid := rfl
@[simp] theorem State.countIn_nextGang (s : State) (p : Nat) (us : List (Nat × Nat)) (e n : Nat) : (s.countIn p us e n).nextGang = s.nextGang := rfl
@[simp] theorem State.countIn_nextPacket (s : State) (p : Nat) (us : List (Nat × Nat)) (e n : Nat) : (s.countIn p us e n).nextPacket = s.nextPacket := rfl
@[simp] theorem State.countIn_nextEgress (s : State) (p : Nat) (us : List (Nat × Nat)) (e n : Nat) : (s.countIn p us e n).nextEgress = s.nextEgress := rfl
@[simp] theorem State.countIn_nextReservation (s : State) (p : Nat) (us : List (Nat × Nat)) (e n : Nat) : (s.countIn p us e n).nextReservation = s.nextReservation := rfl
@[simp] theorem State.countIn_completions (s : State) (p : Nat) (us : List (Nat × Nat)) (e n : Nat) : (s.countIn p us e n).completions = s.completions := rfl
@[simp] theorem State.countIn_finals (s : State) (p : Nat) (us : List (Nat × Nat)) (e n : Nat) : (s.countIn p us e n).finals = s.finals := rfl
@[simp] theorem State.countIn_suspects (s : State) (p : Nat) (us : List (Nat × Nat)) (e n : Nat) : (s.countIn p us e n).suspects = s.suspects := rfl
@[simp] theorem State.countIn_scanSeq (s : State) (p : Nat) (us : List (Nat × Nat)) (e n : Nat) : (s.countIn p us e n).scanSeq = s.scanSeq := rfl
@[simp] theorem State.countIn_qis (s : State) (p : Nat) (us : List (Nat × Nat)) (e n : Nat) : (s.countIn p us e n).qis = s.qis := rfl
@[simp] theorem State.countIn_egresses (s : State) (p : Nat) (us : List (Nat × Nat)) (e n : Nat) : (s.countIn p us e n).egresses = s.egresses := rfl
@[simp] theorem State.countIn_interrupts (s : State) (p : Nat) (us : List (Nat × Nat)) (e n : Nat) : (s.countIn p us e n).interrupts = s.interrupts := rfl
@[simp] theorem State.countIn_votes (s : State) (p : Nat) (us : List (Nat × Nat)) (e n : Nat) : (s.countIn p us e n).votes = s.votes := rfl
@[simp] theorem State.countIn_settle (s : State) (p : Nat) (us : List (Nat × Nat)) (e n : Nat) : (s.countIn p us e n).settle = s.settle := rfl
@[simp] theorem State.countIn_recovering (s : State) (p : Nat) (us : List (Nat × Nat)) (e n : Nat) : (s.countIn p us e n).recovering = s.recovering := rfl
@[simp] theorem State.countIn_locked (s : State) (p : Nat) (us : List (Nat × Nat)) (e n : Nat) : (s.countIn p us e n).locked = s.locked := rfl
@[simp] theorem State.countIn_spdm (s : State) (p : Nat) (us : List (Nat × Nat)) (e n : Nat) : (s.countIn p us e n).spdm = s.spdm := rfl
@[simp] theorem State.countIn_migrations (s : State) (p : Nat) (us : List (Nat × Nat)) (e n : Nat) : (s.countIn p us e n).migrations = s.migrations := rfl
@[simp] theorem State.countIn_checked (s : State) (p : Nat) (us : List (Nat × Nat)) (e n : Nat) : (s.countIn p us e n).checked = s.checked := rfl
@[simp] theorem State.countAt_turn (s : State) (p : Nat) (q : Option Nat) (c e n : Nat) : (s.countAt p q c e n).turn = s.turn := rfl
@[simp] theorem State.countAt_agenda (s : State) (p : Nat) (q : Option Nat) (c e n : Nat) : (s.countAt p q c e n).agenda = s.agenda := rfl
@[simp] theorem State.countAt_freeCtr (s : State) (p : Nat) (q : Option Nat) (c e n : Nat) : (s.countAt p q c e n).freeCtr = s.freeCtr := rfl
@[simp] theorem State.countAt_hub (s : State) (p : Nat) (q : Option Nat) (c e n : Nat) : (s.countAt p q c e n).hub = s.hub := rfl
@[simp] theorem State.countAt_mapv (s : State) (p : Nat) (q : Option Nat) (c e n : Nat) : (s.countAt p q c e n).mapv = s.mapv := rfl
@[simp] theorem State.countAt_map (s : State) (p : Nat) (q : Option Nat) (c e n : Nat) : (s.countAt p q c e n).map = s.map := rfl
@[simp] theorem State.countAt_mapLog (s : State) (p : Nat) (q : Option Nat) (c e n : Nat) : (s.countAt p q c e n).mapLog = s.mapLog := rfl
@[simp] theorem State.countAt_costs (s : State) (p : Nat) (q : Option Nat) (c e n : Nat) : (s.countAt p q c e n).costs = s.costs := rfl
@[simp] theorem State.countAt_costv (s : State) (p : Nat) (q : Option Nat) (c e n : Nat) : (s.countAt p q c e n).costv = s.costv := rfl
@[simp] theorem State.countAt_rev (s : State) (p : Nat) (q : Option Nat) (c e n : Nat) : (s.countAt p q c e n).rev = s.rev := rfl
@[simp] theorem State.countAt_bootstat (s : State) (p : Nat) (q : Option Nat) (c e n : Nat) : (s.countAt p q c e n).bootstat = s.bootstat := rfl
@[simp] theorem State.countAt_stages (s : State) (p : Nat) (q : Option Nat) (c e n : Nat) : (s.countAt p q c e n).stages = s.stages := rfl
@[simp] theorem State.countAt_identities (s : State) (p : Nat) (q : Option Nat) (c e n : Nat) : (s.countAt p q c e n).identities = s.identities := rfl
@[simp] theorem State.countAt_regs (s : State) (p : Nat) (q : Option Nat) (c e n : Nat) : (s.countAt p q c e n).regs = s.regs := rfl
@[simp] theorem State.countAt_devnrg (s : State) (p : Nat) (q : Option Nat) (c e n : Nat) : (s.countAt p q c e n).devnrg = s.devnrg := rfl
@[simp] theorem State.countAt_mem (s : State) (p : Nat) (q : Option Nat) (c e n : Nat) : (s.countAt p q c e n).mem = s.mem := rfl
@[simp] theorem State.countAt_poison (s : State) (p : Nat) (q : Option Nat) (c e n : Nat) : (s.countAt p q c e n).poison = s.poison := rfl
@[simp] theorem State.countAt_sync (s : State) (p : Nat) (q : Option Nat) (c e n : Nat) : (s.countAt p q c e n).sync = s.sync := rfl
@[simp] theorem State.countAt_trays (s : State) (p : Nat) (q : Option Nat) (c e n : Nat) : (s.countAt p q c e n).trays = s.trays := rfl
@[simp] theorem State.countAt_users (s : State) (p : Nat) (q : Option Nat) (c e n : Nat) : (s.countAt p q c e n).users = s.users := rfl
@[simp] theorem State.countAt_bars (s : State) (p : Nat) (q : Option Nat) (c e n : Nat) : (s.countAt p q c e n).bars = s.bars := rfl
@[simp] theorem State.countAt_fills (s : State) (p : Nat) (q : Option Nat) (c e n : Nat) : (s.countAt p q c e n).fills = s.fills := rfl
@[simp] theorem State.countAt_proofed (s : State) (p : Nat) (q : Option Nat) (c e n : Nat) : (s.countAt p q c e n).proofed = s.proofed := rfl
@[simp] theorem State.countAt_vetoed (s : State) (p : Nat) (q : Option Nat) (c e n : Nat) : (s.countAt p q c e n).vetoed = s.vetoed := rfl
@[simp] theorem State.countAt_tlb (s : State) (p : Nat) (q : Option Nat) (c e n : Nat) : (s.countAt p q c e n).tlb = s.tlb := rfl
@[simp] theorem State.countAt_checkedAreas (s : State) (p : Nat) (q : Option Nat) (c e n : Nat) : (s.countAt p q c e n).checkedAreas = s.checkedAreas := rfl
@[simp] theorem State.countAt_decoders (s : State) (p : Nat) (q : Option Nat) (c e n : Nat) : (s.countAt p q c e n).decoders = s.decoders := rfl
@[simp] theorem State.countAt_atsDenied (s : State) (p : Nat) (q : Option Nat) (c e n : Nat) : (s.countAt p q c e n).atsDenied = s.atsDenied := rfl
@[simp] theorem State.countAt_peerDenied (s : State) (p : Nat) (q : Option Nat) (c e n : Nat) : (s.countAt p q c e n).peerDenied = s.peerDenied := rfl
@[simp] theorem State.countAt_epochs (s : State) (p : Nat) (q : Option Nat) (c e n : Nat) : (s.countAt p q c e n).epochs = s.epochs := rfl
@[simp] theorem State.countAt_slotRel (s : State) (p : Nat) (q : Option Nat) (c e n : Nat) : (s.countAt p q c e n).slotRel = s.slotRel := rfl
@[simp] theorem State.countAt_stamps (s : State) (p : Nat) (q : Option Nat) (c e n : Nat) : (s.countAt p q c e n).stamps = s.stamps := rfl
@[simp] theorem State.countAt_rels (s : State) (p : Nat) (q : Option Nat) (c e n : Nat) : (s.countAt p q c e n).rels = s.rels := rfl
@[simp] theorem State.countAt_coms (s : State) (p : Nat) (q : Option Nat) (c e n : Nat) : (s.countAt p q c e n).coms = s.coms := rfl
@[simp] theorem State.countAt_posted (s : State) (p : Nat) (q : Option Nat) (c e n : Nat) : (s.countAt p q c e n).posted = s.posted := rfl
@[simp] theorem State.countAt_clusters (s : State) (p : Nat) (q : Option Nat) (c e n : Nat) : (s.countAt p q c e n).clusters = s.clusters := rfl
@[simp] theorem State.countAt_groups (s : State) (p : Nat) (q : Option Nat) (c e n : Nat) : (s.countAt p q c e n).groups = s.groups := rfl
@[simp] theorem State.countAt_mccs (s : State) (p : Nat) (q : Option Nat) (c e n : Nat) : (s.countAt p q c e n).mccs = s.mccs := rfl
@[simp] theorem State.countAt_stores (s : State) (p : Nat) (q : Option Nat) (c e n : Nat) : (s.countAt p q c e n).stores = s.stores := rfl
@[simp] theorem State.countAt_teams (s : State) (p : Nat) (q : Option Nat) (c e n : Nat) : (s.countAt p q c e n).teams = s.teams := rfl
@[simp] theorem State.countAt_gangs (s : State) (p : Nat) (q : Option Nat) (c e n : Nat) : (s.countAt p q c e n).gangs = s.gangs := rfl
@[simp] theorem State.countAt_grids (s : State) (p : Nat) (q : Option Nat) (c e n : Nat) : (s.countAt p q c e n).grids = s.grids := rfl
@[simp] theorem State.countAt_packets (s : State) (p : Nat) (q : Option Nat) (c e n : Nat) : (s.countAt p q c e n).packets = s.packets := rfl
@[simp] theorem State.countAt_engines (s : State) (p : Nat) (q : Option Nat) (c e n : Nat) : (s.countAt p q c e n).engines = s.engines := rfl
@[simp] theorem State.countAt_ctxs (s : State) (p : Nat) (q : Option Nat) (c e n : Nat) : (s.countAt p q c e n).ctxs = s.ctxs := rfl
@[simp] theorem State.countAt_quotes (s : State) (p : Nat) (q : Option Nat) (c e n : Nat) : (s.countAt p q c e n).quotes = s.quotes := rfl
@[simp] theorem State.countAt_reservations (s : State) (p : Nat) (q : Option Nat) (c e n : Nat) : (s.countAt p q c e n).reservations = s.reservations := rfl
@[simp] theorem State.countAt_walks (s : State) (p : Nat) (q : Option Nat) (c e n : Nat) : (s.countAt p q c e n).walks = s.walks := rfl
@[simp] theorem State.countAt_nextQid (s : State) (p : Nat) (q : Option Nat) (c e n : Nat) : (s.countAt p q c e n).nextQid = s.nextQid := rfl
@[simp] theorem State.countAt_nextGrid (s : State) (p : Nat) (q : Option Nat) (c e n : Nat) : (s.countAt p q c e n).nextGrid = s.nextGrid := rfl
@[simp] theorem State.countAt_nextGang (s : State) (p : Nat) (q : Option Nat) (c e n : Nat) : (s.countAt p q c e n).nextGang = s.nextGang := rfl
@[simp] theorem State.countAt_nextPacket (s : State) (p : Nat) (q : Option Nat) (c e n : Nat) : (s.countAt p q c e n).nextPacket = s.nextPacket := rfl
@[simp] theorem State.countAt_nextEgress (s : State) (p : Nat) (q : Option Nat) (c e n : Nat) : (s.countAt p q c e n).nextEgress = s.nextEgress := rfl
@[simp] theorem State.countAt_nextReservation (s : State) (p : Nat) (q : Option Nat) (c e n : Nat) : (s.countAt p q c e n).nextReservation = s.nextReservation := rfl
@[simp] theorem State.countAt_completions (s : State) (p : Nat) (q : Option Nat) (c e n : Nat) : (s.countAt p q c e n).completions = s.completions := rfl
@[simp] theorem State.countAt_finals (s : State) (p : Nat) (q : Option Nat) (c e n : Nat) : (s.countAt p q c e n).finals = s.finals := rfl
@[simp] theorem State.countAt_suspects (s : State) (p : Nat) (q : Option Nat) (c e n : Nat) : (s.countAt p q c e n).suspects = s.suspects := rfl
@[simp] theorem State.countAt_scanSeq (s : State) (p : Nat) (q : Option Nat) (c e n : Nat) : (s.countAt p q c e n).scanSeq = s.scanSeq := rfl
@[simp] theorem State.countAt_qis (s : State) (p : Nat) (q : Option Nat) (c e n : Nat) : (s.countAt p q c e n).qis = s.qis := rfl
@[simp] theorem State.countAt_egresses (s : State) (p : Nat) (q : Option Nat) (c e n : Nat) : (s.countAt p q c e n).egresses = s.egresses := rfl
@[simp] theorem State.countAt_interrupts (s : State) (p : Nat) (q : Option Nat) (c e n : Nat) : (s.countAt p q c e n).interrupts = s.interrupts := rfl
@[simp] theorem State.countAt_votes (s : State) (p : Nat) (q : Option Nat) (c e n : Nat) : (s.countAt p q c e n).votes = s.votes := rfl
@[simp] theorem State.countAt_settle (s : State) (p : Nat) (q : Option Nat) (c e n : Nat) : (s.countAt p q c e n).settle = s.settle := rfl
@[simp] theorem State.countAt_recovering (s : State) (p : Nat) (q : Option Nat) (c e n : Nat) : (s.countAt p q c e n).recovering = s.recovering := rfl
@[simp] theorem State.countAt_locked (s : State) (p : Nat) (q : Option Nat) (c e n : Nat) : (s.countAt p q c e n).locked = s.locked := rfl
@[simp] theorem State.countAt_spdm (s : State) (p : Nat) (q : Option Nat) (c e n : Nat) : (s.countAt p q c e n).spdm = s.spdm := rfl
@[simp] theorem State.countAt_migrations (s : State) (p : Nat) (q : Option Nat) (c e n : Nat) : (s.countAt p q c e n).migrations = s.migrations := rfl
@[simp] theorem State.countAt_checked (s : State) (p : Nat) (q : Option Nat) (c e n : Nat) : (s.countAt p q c e n).checked = s.checked := rfl
@[simp] theorem State.count_turn (s : State) (p g e n : Nat) : (s.count p g e n).turn = s.turn := rfl
@[simp] theorem State.count_agenda (s : State) (p g e n : Nat) : (s.count p g e n).agenda = s.agenda := rfl
@[simp] theorem State.count_freeCtr (s : State) (p g e n : Nat) : (s.count p g e n).freeCtr = s.freeCtr := rfl
@[simp] theorem State.count_hub (s : State) (p g e n : Nat) : (s.count p g e n).hub = s.hub := rfl
@[simp] theorem State.count_mapv (s : State) (p g e n : Nat) : (s.count p g e n).mapv = s.mapv := rfl
@[simp] theorem State.count_map (s : State) (p g e n : Nat) : (s.count p g e n).map = s.map := rfl
@[simp] theorem State.count_mapLog (s : State) (p g e n : Nat) : (s.count p g e n).mapLog = s.mapLog := rfl
@[simp] theorem State.count_costs (s : State) (p g e n : Nat) : (s.count p g e n).costs = s.costs := rfl
@[simp] theorem State.count_costv (s : State) (p g e n : Nat) : (s.count p g e n).costv = s.costv := rfl
@[simp] theorem State.count_rev (s : State) (p g e n : Nat) : (s.count p g e n).rev = s.rev := rfl
@[simp] theorem State.count_bootstat (s : State) (p g e n : Nat) : (s.count p g e n).bootstat = s.bootstat := rfl
@[simp] theorem State.count_stages (s : State) (p g e n : Nat) : (s.count p g e n).stages = s.stages := rfl
@[simp] theorem State.count_identities (s : State) (p g e n : Nat) : (s.count p g e n).identities = s.identities := rfl
@[simp] theorem State.count_regs (s : State) (p g e n : Nat) : (s.count p g e n).regs = s.regs := rfl
@[simp] theorem State.count_devnrg (s : State) (p g e n : Nat) : (s.count p g e n).devnrg = s.devnrg := rfl
@[simp] theorem State.count_mem (s : State) (p g e n : Nat) : (s.count p g e n).mem = s.mem := rfl
@[simp] theorem State.count_poison (s : State) (p g e n : Nat) : (s.count p g e n).poison = s.poison := rfl
@[simp] theorem State.count_sync (s : State) (p g e n : Nat) : (s.count p g e n).sync = s.sync := rfl
@[simp] theorem State.count_trays (s : State) (p g e n : Nat) : (s.count p g e n).trays = s.trays := rfl
@[simp] theorem State.count_users (s : State) (p g e n : Nat) : (s.count p g e n).users = s.users := rfl
@[simp] theorem State.count_bars (s : State) (p g e n : Nat) : (s.count p g e n).bars = s.bars := rfl
@[simp] theorem State.count_fills (s : State) (p g e n : Nat) : (s.count p g e n).fills = s.fills := rfl
@[simp] theorem State.count_proofed (s : State) (p g e n : Nat) : (s.count p g e n).proofed = s.proofed := rfl
@[simp] theorem State.count_vetoed (s : State) (p g e n : Nat) : (s.count p g e n).vetoed = s.vetoed := rfl
@[simp] theorem State.count_tlb (s : State) (p g e n : Nat) : (s.count p g e n).tlb = s.tlb := rfl
@[simp] theorem State.count_checkedAreas (s : State) (p g e n : Nat) : (s.count p g e n).checkedAreas = s.checkedAreas := rfl
@[simp] theorem State.count_decoders (s : State) (p g e n : Nat) : (s.count p g e n).decoders = s.decoders := rfl
@[simp] theorem State.count_atsDenied (s : State) (p g e n : Nat) : (s.count p g e n).atsDenied = s.atsDenied := rfl
@[simp] theorem State.count_peerDenied (s : State) (p g e n : Nat) : (s.count p g e n).peerDenied = s.peerDenied := rfl
@[simp] theorem State.count_epochs (s : State) (p g e n : Nat) : (s.count p g e n).epochs = s.epochs := rfl
@[simp] theorem State.count_slotRel (s : State) (p g e n : Nat) : (s.count p g e n).slotRel = s.slotRel := rfl
@[simp] theorem State.count_stamps (s : State) (p g e n : Nat) : (s.count p g e n).stamps = s.stamps := rfl
@[simp] theorem State.count_rels (s : State) (p g e n : Nat) : (s.count p g e n).rels = s.rels := rfl
@[simp] theorem State.count_coms (s : State) (p g e n : Nat) : (s.count p g e n).coms = s.coms := rfl
@[simp] theorem State.count_posted (s : State) (p g e n : Nat) : (s.count p g e n).posted = s.posted := rfl
@[simp] theorem State.count_clusters (s : State) (p g e n : Nat) : (s.count p g e n).clusters = s.clusters := rfl
@[simp] theorem State.count_groups (s : State) (p g e n : Nat) : (s.count p g e n).groups = s.groups := rfl
@[simp] theorem State.count_mccs (s : State) (p g e n : Nat) : (s.count p g e n).mccs = s.mccs := rfl
@[simp] theorem State.count_stores (s : State) (p g e n : Nat) : (s.count p g e n).stores = s.stores := rfl
@[simp] theorem State.count_teams (s : State) (p g e n : Nat) : (s.count p g e n).teams = s.teams := rfl
@[simp] theorem State.count_gangs (s : State) (p g e n : Nat) : (s.count p g e n).gangs = s.gangs := rfl
@[simp] theorem State.count_grids (s : State) (p g e n : Nat) : (s.count p g e n).grids = s.grids := rfl
@[simp] theorem State.count_packets (s : State) (p g e n : Nat) : (s.count p g e n).packets = s.packets := rfl
@[simp] theorem State.count_engines (s : State) (p g e n : Nat) : (s.count p g e n).engines = s.engines := rfl
@[simp] theorem State.count_ctxs (s : State) (p g e n : Nat) : (s.count p g e n).ctxs = s.ctxs := rfl
@[simp] theorem State.count_quotes (s : State) (p g e n : Nat) : (s.count p g e n).quotes = s.quotes := rfl
@[simp] theorem State.count_reservations (s : State) (p g e n : Nat) : (s.count p g e n).reservations = s.reservations := rfl
@[simp] theorem State.count_walks (s : State) (p g e n : Nat) : (s.count p g e n).walks = s.walks := rfl
@[simp] theorem State.count_nextQid (s : State) (p g e n : Nat) : (s.count p g e n).nextQid = s.nextQid := rfl
@[simp] theorem State.count_nextGrid (s : State) (p g e n : Nat) : (s.count p g e n).nextGrid = s.nextGrid := rfl
@[simp] theorem State.count_nextGang (s : State) (p g e n : Nat) : (s.count p g e n).nextGang = s.nextGang := rfl
@[simp] theorem State.count_nextPacket (s : State) (p g e n : Nat) : (s.count p g e n).nextPacket = s.nextPacket := rfl
@[simp] theorem State.count_nextEgress (s : State) (p g e n : Nat) : (s.count p g e n).nextEgress = s.nextEgress := rfl
@[simp] theorem State.count_nextReservation (s : State) (p g e n : Nat) : (s.count p g e n).nextReservation = s.nextReservation := rfl
@[simp] theorem State.count_completions (s : State) (p g e n : Nat) : (s.count p g e n).completions = s.completions := rfl
@[simp] theorem State.count_finals (s : State) (p g e n : Nat) : (s.count p g e n).finals = s.finals := rfl
@[simp] theorem State.count_suspects (s : State) (p g e n : Nat) : (s.count p g e n).suspects = s.suspects := rfl
@[simp] theorem State.count_scanSeq (s : State) (p g e n : Nat) : (s.count p g e n).scanSeq = s.scanSeq := rfl
@[simp] theorem State.count_qis (s : State) (p g e n : Nat) : (s.count p g e n).qis = s.qis := rfl
@[simp] theorem State.count_egresses (s : State) (p g e n : Nat) : (s.count p g e n).egresses = s.egresses := rfl
@[simp] theorem State.count_interrupts (s : State) (p g e n : Nat) : (s.count p g e n).interrupts = s.interrupts := rfl
@[simp] theorem State.count_votes (s : State) (p g e n : Nat) : (s.count p g e n).votes = s.votes := rfl
@[simp] theorem State.count_settle (s : State) (p g e n : Nat) : (s.count p g e n).settle = s.settle := rfl
@[simp] theorem State.count_recovering (s : State) (p g e n : Nat) : (s.count p g e n).recovering = s.recovering := rfl
@[simp] theorem State.count_locked (s : State) (p g e n : Nat) : (s.count p g e n).locked = s.locked := rfl
@[simp] theorem State.count_spdm (s : State) (p g e n : Nat) : (s.count p g e n).spdm = s.spdm := rfl
@[simp] theorem State.count_migrations (s : State) (p g e n : Nat) : (s.count p g e n).migrations = s.migrations := rfl
@[simp] theorem State.count_checked (s : State) (p g e n : Nat) : (s.count p g e n).checked = s.checked := rfl
@[simp] theorem State.useObject_turn (s : State) (k loc : Nat) : (s.useObject k loc).turn = s.turn := by
  unfold State.useObject; split <;> rfl
@[simp] theorem State.useObject_agenda (s : State) (k loc : Nat) : (s.useObject k loc).agenda = s.agenda := by
  unfold State.useObject; split <;> rfl
@[simp] theorem State.useObject_freeCtr (s : State) (k loc : Nat) : (s.useObject k loc).freeCtr = s.freeCtr := by
  unfold State.useObject; split <;> rfl
@[simp] theorem State.useObject_hub (s : State) (k loc : Nat) : (s.useObject k loc).hub = s.hub := by
  unfold State.useObject; split <;> rfl
@[simp] theorem State.useObject_mapv (s : State) (k loc : Nat) : (s.useObject k loc).mapv = s.mapv := by
  unfold State.useObject; split <;> rfl
@[simp] theorem State.useObject_map (s : State) (k loc : Nat) : (s.useObject k loc).map = s.map := by
  unfold State.useObject; split <;> rfl
@[simp] theorem State.useObject_mapLog (s : State) (k loc : Nat) : (s.useObject k loc).mapLog = s.mapLog := by
  unfold State.useObject; split <;> rfl
@[simp] theorem State.useObject_costs (s : State) (k loc : Nat) : (s.useObject k loc).costs = s.costs := by
  unfold State.useObject; split <;> rfl
@[simp] theorem State.useObject_costv (s : State) (k loc : Nat) : (s.useObject k loc).costv = s.costv := by
  unfold State.useObject; split <;> rfl
@[simp] theorem State.useObject_rev (s : State) (k loc : Nat) : (s.useObject k loc).rev = s.rev := by
  unfold State.useObject; split <;> rfl
@[simp] theorem State.useObject_bootstat (s : State) (k loc : Nat) : (s.useObject k loc).bootstat = s.bootstat := by
  unfold State.useObject; split <;> rfl
@[simp] theorem State.useObject_stages (s : State) (k loc : Nat) : (s.useObject k loc).stages = s.stages := by
  unfold State.useObject; split <;> rfl
@[simp] theorem State.useObject_identities (s : State) (k loc : Nat) : (s.useObject k loc).identities = s.identities := by
  unfold State.useObject; split <;> rfl
@[simp] theorem State.useObject_regs (s : State) (k loc : Nat) : (s.useObject k loc).regs = s.regs := by
  unfold State.useObject; split <;> rfl
@[simp] theorem State.useObject_devnrg (s : State) (k loc : Nat) : (s.useObject k loc).devnrg = s.devnrg := by
  unfold State.useObject; split <;> rfl
@[simp] theorem State.useObject_mem (s : State) (k loc : Nat) : (s.useObject k loc).mem = s.mem := by
  unfold State.useObject; split <;> rfl
@[simp] theorem State.useObject_poison (s : State) (k loc : Nat) : (s.useObject k loc).poison = s.poison := by
  unfold State.useObject; split <;> rfl
@[simp] theorem State.useObject_sync (s : State) (k loc : Nat) : (s.useObject k loc).sync = s.sync := by
  unfold State.useObject; split <;> rfl
@[simp] theorem State.useObject_trays (s : State) (k loc : Nat) : (s.useObject k loc).trays = s.trays := by
  unfold State.useObject; split <;> rfl
@[simp] theorem State.useObject_bars (s : State) (k loc : Nat) : (s.useObject k loc).bars = s.bars := by
  unfold State.useObject; split <;> rfl
@[simp] theorem State.useObject_fills (s : State) (k loc : Nat) : (s.useObject k loc).fills = s.fills := by
  unfold State.useObject; split <;> rfl
@[simp] theorem State.useObject_proofed (s : State) (k loc : Nat) : (s.useObject k loc).proofed = s.proofed := by
  unfold State.useObject; split <;> rfl
@[simp] theorem State.useObject_vetoed (s : State) (k loc : Nat) : (s.useObject k loc).vetoed = s.vetoed := by
  unfold State.useObject; split <;> rfl
@[simp] theorem State.useObject_tlb (s : State) (k loc : Nat) : (s.useObject k loc).tlb = s.tlb := by
  unfold State.useObject; split <;> rfl
@[simp] theorem State.useObject_checkedAreas (s : State) (k loc : Nat) : (s.useObject k loc).checkedAreas = s.checkedAreas := by
  unfold State.useObject; split <;> rfl
@[simp] theorem State.useObject_decoders (s : State) (k loc : Nat) : (s.useObject k loc).decoders = s.decoders := by
  unfold State.useObject; split <;> rfl
@[simp] theorem State.useObject_atsDenied (s : State) (k loc : Nat) : (s.useObject k loc).atsDenied = s.atsDenied := by
  unfold State.useObject; split <;> rfl
@[simp] theorem State.useObject_peerDenied (s : State) (k loc : Nat) : (s.useObject k loc).peerDenied = s.peerDenied := by
  unfold State.useObject; split <;> rfl
@[simp] theorem State.useObject_epochs (s : State) (k loc : Nat) : (s.useObject k loc).epochs = s.epochs := by
  unfold State.useObject; split <;> rfl
@[simp] theorem State.useObject_slotRel (s : State) (k loc : Nat) : (s.useObject k loc).slotRel = s.slotRel := by
  unfold State.useObject; split <;> rfl
@[simp] theorem State.useObject_stamps (s : State) (k loc : Nat) : (s.useObject k loc).stamps = s.stamps := by
  unfold State.useObject; split <;> rfl
@[simp] theorem State.useObject_rels (s : State) (k loc : Nat) : (s.useObject k loc).rels = s.rels := by
  unfold State.useObject; split <;> rfl
@[simp] theorem State.useObject_coms (s : State) (k loc : Nat) : (s.useObject k loc).coms = s.coms := by
  unfold State.useObject; split <;> rfl
@[simp] theorem State.useObject_posted (s : State) (k loc : Nat) : (s.useObject k loc).posted = s.posted := by
  unfold State.useObject; split <;> rfl
@[simp] theorem State.useObject_clusters (s : State) (k loc : Nat) : (s.useObject k loc).clusters = s.clusters := by
  unfold State.useObject; split <;> rfl
@[simp] theorem State.useObject_groups (s : State) (k loc : Nat) : (s.useObject k loc).groups = s.groups := by
  unfold State.useObject; split <;> rfl
@[simp] theorem State.useObject_mccs (s : State) (k loc : Nat) : (s.useObject k loc).mccs = s.mccs := by
  unfold State.useObject; split <;> rfl
@[simp] theorem State.useObject_stores (s : State) (k loc : Nat) : (s.useObject k loc).stores = s.stores := by
  unfold State.useObject; split <;> rfl
@[simp] theorem State.useObject_teams (s : State) (k loc : Nat) : (s.useObject k loc).teams = s.teams := by
  unfold State.useObject; split <;> rfl
@[simp] theorem State.useObject_gangs (s : State) (k loc : Nat) : (s.useObject k loc).gangs = s.gangs := by
  unfold State.useObject; split <;> rfl
@[simp] theorem State.useObject_grids (s : State) (k loc : Nat) : (s.useObject k loc).grids = s.grids := by
  unfold State.useObject; split <;> rfl
@[simp] theorem State.useObject_packets (s : State) (k loc : Nat) : (s.useObject k loc).packets = s.packets := by
  unfold State.useObject; split <;> rfl
@[simp] theorem State.useObject_engines (s : State) (k loc : Nat) : (s.useObject k loc).engines = s.engines := by
  unfold State.useObject; split <;> rfl
@[simp] theorem State.useObject_ctxs (s : State) (k loc : Nat) : (s.useObject k loc).ctxs = s.ctxs := by
  unfold State.useObject; split <;> rfl
@[simp] theorem State.useObject_quotes (s : State) (k loc : Nat) : (s.useObject k loc).quotes = s.quotes := by
  unfold State.useObject; split <;> rfl
@[simp] theorem State.useObject_reservations (s : State) (k loc : Nat) : (s.useObject k loc).reservations = s.reservations := by
  unfold State.useObject; split <;> rfl
@[simp] theorem State.useObject_walks (s : State) (k loc : Nat) : (s.useObject k loc).walks = s.walks := by
  unfold State.useObject; split <;> rfl
@[simp] theorem State.useObject_nextQid (s : State) (k loc : Nat) : (s.useObject k loc).nextQid = s.nextQid := by
  unfold State.useObject; split <;> rfl
@[simp] theorem State.useObject_nextGrid (s : State) (k loc : Nat) : (s.useObject k loc).nextGrid = s.nextGrid := by
  unfold State.useObject; split <;> rfl
@[simp] theorem State.useObject_nextGang (s : State) (k loc : Nat) : (s.useObject k loc).nextGang = s.nextGang := by
  unfold State.useObject; split <;> rfl
@[simp] theorem State.useObject_nextPacket (s : State) (k loc : Nat) : (s.useObject k loc).nextPacket = s.nextPacket := by
  unfold State.useObject; split <;> rfl
@[simp] theorem State.useObject_nextEgress (s : State) (k loc : Nat) : (s.useObject k loc).nextEgress = s.nextEgress := by
  unfold State.useObject; split <;> rfl
@[simp] theorem State.useObject_nextReservation (s : State) (k loc : Nat) : (s.useObject k loc).nextReservation = s.nextReservation := by
  unfold State.useObject; split <;> rfl
@[simp] theorem State.useObject_completions (s : State) (k loc : Nat) : (s.useObject k loc).completions = s.completions := by
  unfold State.useObject; split <;> rfl
@[simp] theorem State.useObject_finals (s : State) (k loc : Nat) : (s.useObject k loc).finals = s.finals := by
  unfold State.useObject; split <;> rfl
@[simp] theorem State.useObject_suspects (s : State) (k loc : Nat) : (s.useObject k loc).suspects = s.suspects := by
  unfold State.useObject; split <;> rfl
@[simp] theorem State.useObject_scanSeq (s : State) (k loc : Nat) : (s.useObject k loc).scanSeq = s.scanSeq := by
  unfold State.useObject; split <;> rfl
@[simp] theorem State.useObject_counters (s : State) (k loc : Nat) : (s.useObject k loc).counters = s.counters := by
  unfold State.useObject; split <;> rfl
@[simp] theorem State.useObject_qis (s : State) (k loc : Nat) : (s.useObject k loc).qis = s.qis := by
  unfold State.useObject; split <;> rfl
@[simp] theorem State.useObject_egresses (s : State) (k loc : Nat) : (s.useObject k loc).egresses = s.egresses := by
  unfold State.useObject; split <;> rfl
@[simp] theorem State.useObject_interrupts (s : State) (k loc : Nat) : (s.useObject k loc).interrupts = s.interrupts := by
  unfold State.useObject; split <;> rfl
@[simp] theorem State.useObject_votes (s : State) (k loc : Nat) : (s.useObject k loc).votes = s.votes := by
  unfold State.useObject; split <;> rfl
@[simp] theorem State.useObject_settle (s : State) (k loc : Nat) : (s.useObject k loc).settle = s.settle := by
  unfold State.useObject; split <;> rfl
@[simp] theorem State.useObject_recovering (s : State) (k loc : Nat) : (s.useObject k loc).recovering = s.recovering := by
  unfold State.useObject; split <;> rfl
@[simp] theorem State.useObject_locked (s : State) (k loc : Nat) : (s.useObject k loc).locked = s.locked := by
  unfold State.useObject; split <;> rfl
@[simp] theorem State.useObject_spdm (s : State) (k loc : Nat) : (s.useObject k loc).spdm = s.spdm := by
  unfold State.useObject; split <;> rfl
@[simp] theorem State.useObject_migrations (s : State) (k loc : Nat) : (s.useObject k loc).migrations = s.migrations := by
  unfold State.useObject; split <;> rfl
@[simp] theorem State.useObject_checked (s : State) (k loc : Nat) : (s.useObject k loc).checked = s.checked := by
  unfold State.useObject; split <;> rfl
@[simp] theorem State.storeBytes_turn (s : State) (a : Nat) (bs : List Byte) : (s.storeBytes a bs).turn = s.turn := rfl
@[simp] theorem State.storeBytes_agenda (s : State) (a : Nat) (bs : List Byte) : (s.storeBytes a bs).agenda = s.agenda := rfl
@[simp] theorem State.storeBytes_freeCtr (s : State) (a : Nat) (bs : List Byte) : (s.storeBytes a bs).freeCtr = s.freeCtr := rfl
@[simp] theorem State.storeBytes_hub (s : State) (a : Nat) (bs : List Byte) : (s.storeBytes a bs).hub = s.hub := rfl
@[simp] theorem State.storeBytes_mapv (s : State) (a : Nat) (bs : List Byte) : (s.storeBytes a bs).mapv = s.mapv := rfl
@[simp] theorem State.storeBytes_map (s : State) (a : Nat) (bs : List Byte) : (s.storeBytes a bs).map = s.map := rfl
@[simp] theorem State.storeBytes_mapLog (s : State) (a : Nat) (bs : List Byte) : (s.storeBytes a bs).mapLog = s.mapLog := rfl
@[simp] theorem State.storeBytes_costs (s : State) (a : Nat) (bs : List Byte) : (s.storeBytes a bs).costs = s.costs := rfl
@[simp] theorem State.storeBytes_costv (s : State) (a : Nat) (bs : List Byte) : (s.storeBytes a bs).costv = s.costv := rfl
@[simp] theorem State.storeBytes_rev (s : State) (a : Nat) (bs : List Byte) : (s.storeBytes a bs).rev = s.rev := rfl
@[simp] theorem State.storeBytes_bootstat (s : State) (a : Nat) (bs : List Byte) : (s.storeBytes a bs).bootstat = s.bootstat := rfl
@[simp] theorem State.storeBytes_stages (s : State) (a : Nat) (bs : List Byte) : (s.storeBytes a bs).stages = s.stages := rfl
@[simp] theorem State.storeBytes_identities (s : State) (a : Nat) (bs : List Byte) : (s.storeBytes a bs).identities = s.identities := rfl
@[simp] theorem State.storeBytes_regs (s : State) (a : Nat) (bs : List Byte) : (s.storeBytes a bs).regs = s.regs := rfl
@[simp] theorem State.storeBytes_devnrg (s : State) (a : Nat) (bs : List Byte) : (s.storeBytes a bs).devnrg = s.devnrg := rfl
@[simp] theorem State.storeBytes_sync (s : State) (a : Nat) (bs : List Byte) : (s.storeBytes a bs).sync = s.sync := rfl
@[simp] theorem State.storeBytes_trays (s : State) (a : Nat) (bs : List Byte) : (s.storeBytes a bs).trays = s.trays := rfl
@[simp] theorem State.storeBytes_users (s : State) (a : Nat) (bs : List Byte) : (s.storeBytes a bs).users = s.users := rfl
@[simp] theorem State.storeBytes_bars (s : State) (a : Nat) (bs : List Byte) : (s.storeBytes a bs).bars = s.bars := rfl
@[simp] theorem State.storeBytes_fills (s : State) (a : Nat) (bs : List Byte) : (s.storeBytes a bs).fills = s.fills := rfl
@[simp] theorem State.storeBytes_proofed (s : State) (a : Nat) (bs : List Byte) : (s.storeBytes a bs).proofed = s.proofed := rfl
@[simp] theorem State.storeBytes_vetoed (s : State) (a : Nat) (bs : List Byte) : (s.storeBytes a bs).vetoed = s.vetoed := rfl
@[simp] theorem State.storeBytes_tlb (s : State) (a : Nat) (bs : List Byte) : (s.storeBytes a bs).tlb = s.tlb := rfl
@[simp] theorem State.storeBytes_checkedAreas (s : State) (a : Nat) (bs : List Byte) : (s.storeBytes a bs).checkedAreas = s.checkedAreas := rfl
@[simp] theorem State.storeBytes_decoders (s : State) (a : Nat) (bs : List Byte) : (s.storeBytes a bs).decoders = s.decoders := rfl
@[simp] theorem State.storeBytes_atsDenied (s : State) (a : Nat) (bs : List Byte) : (s.storeBytes a bs).atsDenied = s.atsDenied := rfl
@[simp] theorem State.storeBytes_peerDenied (s : State) (a : Nat) (bs : List Byte) : (s.storeBytes a bs).peerDenied = s.peerDenied := rfl
@[simp] theorem State.storeBytes_epochs (s : State) (a : Nat) (bs : List Byte) : (s.storeBytes a bs).epochs = s.epochs := rfl
@[simp] theorem State.storeBytes_slotRel (s : State) (a : Nat) (bs : List Byte) : (s.storeBytes a bs).slotRel = s.slotRel := rfl
@[simp] theorem State.storeBytes_stamps (s : State) (a : Nat) (bs : List Byte) : (s.storeBytes a bs).stamps = s.stamps := rfl
@[simp] theorem State.storeBytes_rels (s : State) (a : Nat) (bs : List Byte) : (s.storeBytes a bs).rels = s.rels := rfl
@[simp] theorem State.storeBytes_coms (s : State) (a : Nat) (bs : List Byte) : (s.storeBytes a bs).coms = s.coms := rfl
@[simp] theorem State.storeBytes_posted (s : State) (a : Nat) (bs : List Byte) : (s.storeBytes a bs).posted = s.posted := rfl
@[simp] theorem State.storeBytes_clusters (s : State) (a : Nat) (bs : List Byte) : (s.storeBytes a bs).clusters = s.clusters := rfl
@[simp] theorem State.storeBytes_groups (s : State) (a : Nat) (bs : List Byte) : (s.storeBytes a bs).groups = s.groups := rfl
@[simp] theorem State.storeBytes_mccs (s : State) (a : Nat) (bs : List Byte) : (s.storeBytes a bs).mccs = s.mccs := rfl
@[simp] theorem State.storeBytes_stores (s : State) (a : Nat) (bs : List Byte) : (s.storeBytes a bs).stores = s.stores := rfl
@[simp] theorem State.storeBytes_teams (s : State) (a : Nat) (bs : List Byte) : (s.storeBytes a bs).teams = s.teams := rfl
@[simp] theorem State.storeBytes_gangs (s : State) (a : Nat) (bs : List Byte) : (s.storeBytes a bs).gangs = s.gangs := rfl
@[simp] theorem State.storeBytes_grids (s : State) (a : Nat) (bs : List Byte) : (s.storeBytes a bs).grids = s.grids := rfl
@[simp] theorem State.storeBytes_packets (s : State) (a : Nat) (bs : List Byte) : (s.storeBytes a bs).packets = s.packets := rfl
@[simp] theorem State.storeBytes_engines (s : State) (a : Nat) (bs : List Byte) : (s.storeBytes a bs).engines = s.engines := rfl
@[simp] theorem State.storeBytes_ctxs (s : State) (a : Nat) (bs : List Byte) : (s.storeBytes a bs).ctxs = s.ctxs := rfl
@[simp] theorem State.storeBytes_quotes (s : State) (a : Nat) (bs : List Byte) : (s.storeBytes a bs).quotes = s.quotes := rfl
@[simp] theorem State.storeBytes_reservations (s : State) (a : Nat) (bs : List Byte) : (s.storeBytes a bs).reservations = s.reservations := rfl
@[simp] theorem State.storeBytes_walks (s : State) (a : Nat) (bs : List Byte) : (s.storeBytes a bs).walks = s.walks := rfl
@[simp] theorem State.storeBytes_nextQid (s : State) (a : Nat) (bs : List Byte) : (s.storeBytes a bs).nextQid = s.nextQid := rfl
@[simp] theorem State.storeBytes_nextGrid (s : State) (a : Nat) (bs : List Byte) : (s.storeBytes a bs).nextGrid = s.nextGrid := rfl
@[simp] theorem State.storeBytes_nextGang (s : State) (a : Nat) (bs : List Byte) : (s.storeBytes a bs).nextGang = s.nextGang := rfl
@[simp] theorem State.storeBytes_nextPacket (s : State) (a : Nat) (bs : List Byte) : (s.storeBytes a bs).nextPacket = s.nextPacket := rfl
@[simp] theorem State.storeBytes_nextEgress (s : State) (a : Nat) (bs : List Byte) : (s.storeBytes a bs).nextEgress = s.nextEgress := rfl
@[simp] theorem State.storeBytes_nextReservation (s : State) (a : Nat) (bs : List Byte) : (s.storeBytes a bs).nextReservation = s.nextReservation := rfl
@[simp] theorem State.storeBytes_completions (s : State) (a : Nat) (bs : List Byte) : (s.storeBytes a bs).completions = s.completions := rfl
@[simp] theorem State.storeBytes_finals (s : State) (a : Nat) (bs : List Byte) : (s.storeBytes a bs).finals = s.finals := rfl
@[simp] theorem State.storeBytes_suspects (s : State) (a : Nat) (bs : List Byte) : (s.storeBytes a bs).suspects = s.suspects := rfl
@[simp] theorem State.storeBytes_scanSeq (s : State) (a : Nat) (bs : List Byte) : (s.storeBytes a bs).scanSeq = s.scanSeq := rfl
@[simp] theorem State.storeBytes_counters (s : State) (a : Nat) (bs : List Byte) : (s.storeBytes a bs).counters = s.counters := rfl
@[simp] theorem State.storeBytes_qis (s : State) (a : Nat) (bs : List Byte) : (s.storeBytes a bs).qis = s.qis := rfl
@[simp] theorem State.storeBytes_egresses (s : State) (a : Nat) (bs : List Byte) : (s.storeBytes a bs).egresses = s.egresses := rfl
@[simp] theorem State.storeBytes_interrupts (s : State) (a : Nat) (bs : List Byte) : (s.storeBytes a bs).interrupts = s.interrupts := rfl
@[simp] theorem State.storeBytes_votes (s : State) (a : Nat) (bs : List Byte) : (s.storeBytes a bs).votes = s.votes := rfl
@[simp] theorem State.storeBytes_settle (s : State) (a : Nat) (bs : List Byte) : (s.storeBytes a bs).settle = s.settle := rfl
@[simp] theorem State.storeBytes_recovering (s : State) (a : Nat) (bs : List Byte) : (s.storeBytes a bs).recovering = s.recovering := rfl
@[simp] theorem State.storeBytes_locked (s : State) (a : Nat) (bs : List Byte) : (s.storeBytes a bs).locked = s.locked := rfl
@[simp] theorem State.storeBytes_spdm (s : State) (a : Nat) (bs : List Byte) : (s.storeBytes a bs).spdm = s.spdm := rfl
@[simp] theorem State.storeBytes_migrations (s : State) (a : Nat) (bs : List Byte) : (s.storeBytes a bs).migrations = s.migrations := rfl
@[simp] theorem State.storeBytes_checked (s : State) (a : Nat) (bs : List Byte) : (s.storeBytes a bs).checked = s.checked := rfl
@[simp] theorem State.storeBytes_mem (s : State) (a : Nat) (bs : List Byte) : (s.storeBytes a bs).mem = Memory.store s.mem a bs := rfl
@[simp] theorem State.zeroBytes_turn (s : State) (a n : Nat) : (s.zeroBytes a n).turn = s.turn := rfl
@[simp] theorem State.zeroBytes_agenda (s : State) (a n : Nat) : (s.zeroBytes a n).agenda = s.agenda := rfl
@[simp] theorem State.zeroBytes_freeCtr (s : State) (a n : Nat) : (s.zeroBytes a n).freeCtr = s.freeCtr := rfl
@[simp] theorem State.zeroBytes_hub (s : State) (a n : Nat) : (s.zeroBytes a n).hub = s.hub := rfl
@[simp] theorem State.zeroBytes_mapv (s : State) (a n : Nat) : (s.zeroBytes a n).mapv = s.mapv := rfl
@[simp] theorem State.zeroBytes_map (s : State) (a n : Nat) : (s.zeroBytes a n).map = s.map := rfl
@[simp] theorem State.zeroBytes_mapLog (s : State) (a n : Nat) : (s.zeroBytes a n).mapLog = s.mapLog := rfl
@[simp] theorem State.zeroBytes_costs (s : State) (a n : Nat) : (s.zeroBytes a n).costs = s.costs := rfl
@[simp] theorem State.zeroBytes_costv (s : State) (a n : Nat) : (s.zeroBytes a n).costv = s.costv := rfl
@[simp] theorem State.zeroBytes_rev (s : State) (a n : Nat) : (s.zeroBytes a n).rev = s.rev := rfl
@[simp] theorem State.zeroBytes_bootstat (s : State) (a n : Nat) : (s.zeroBytes a n).bootstat = s.bootstat := rfl
@[simp] theorem State.zeroBytes_stages (s : State) (a n : Nat) : (s.zeroBytes a n).stages = s.stages := rfl
@[simp] theorem State.zeroBytes_identities (s : State) (a n : Nat) : (s.zeroBytes a n).identities = s.identities := rfl
@[simp] theorem State.zeroBytes_regs (s : State) (a n : Nat) : (s.zeroBytes a n).regs = s.regs := rfl
@[simp] theorem State.zeroBytes_devnrg (s : State) (a n : Nat) : (s.zeroBytes a n).devnrg = s.devnrg := rfl
@[simp] theorem State.zeroBytes_sync (s : State) (a n : Nat) : (s.zeroBytes a n).sync = s.sync := rfl
@[simp] theorem State.zeroBytes_trays (s : State) (a n : Nat) : (s.zeroBytes a n).trays = s.trays := rfl
@[simp] theorem State.zeroBytes_users (s : State) (a n : Nat) : (s.zeroBytes a n).users = s.users := rfl
@[simp] theorem State.zeroBytes_bars (s : State) (a n : Nat) : (s.zeroBytes a n).bars = s.bars := rfl
@[simp] theorem State.zeroBytes_fills (s : State) (a n : Nat) : (s.zeroBytes a n).fills = s.fills := rfl
@[simp] theorem State.zeroBytes_proofed (s : State) (a n : Nat) : (s.zeroBytes a n).proofed = s.proofed := rfl
@[simp] theorem State.zeroBytes_vetoed (s : State) (a n : Nat) : (s.zeroBytes a n).vetoed = s.vetoed := rfl
@[simp] theorem State.zeroBytes_tlb (s : State) (a n : Nat) : (s.zeroBytes a n).tlb = s.tlb := rfl
@[simp] theorem State.zeroBytes_checkedAreas (s : State) (a n : Nat) : (s.zeroBytes a n).checkedAreas = s.checkedAreas := rfl
@[simp] theorem State.zeroBytes_decoders (s : State) (a n : Nat) : (s.zeroBytes a n).decoders = s.decoders := rfl
@[simp] theorem State.zeroBytes_atsDenied (s : State) (a n : Nat) : (s.zeroBytes a n).atsDenied = s.atsDenied := rfl
@[simp] theorem State.zeroBytes_peerDenied (s : State) (a n : Nat) : (s.zeroBytes a n).peerDenied = s.peerDenied := rfl
@[simp] theorem State.zeroBytes_epochs (s : State) (a n : Nat) : (s.zeroBytes a n).epochs = s.epochs := rfl
@[simp] theorem State.zeroBytes_slotRel (s : State) (a n : Nat) : (s.zeroBytes a n).slotRel = s.slotRel := rfl
@[simp] theorem State.zeroBytes_stamps (s : State) (a n : Nat) : (s.zeroBytes a n).stamps = s.stamps := rfl
@[simp] theorem State.zeroBytes_rels (s : State) (a n : Nat) : (s.zeroBytes a n).rels = s.rels := rfl
@[simp] theorem State.zeroBytes_coms (s : State) (a n : Nat) : (s.zeroBytes a n).coms = s.coms := rfl
@[simp] theorem State.zeroBytes_posted (s : State) (a n : Nat) : (s.zeroBytes a n).posted = s.posted := rfl
@[simp] theorem State.zeroBytes_clusters (s : State) (a n : Nat) : (s.zeroBytes a n).clusters = s.clusters := rfl
@[simp] theorem State.zeroBytes_groups (s : State) (a n : Nat) : (s.zeroBytes a n).groups = s.groups := rfl
@[simp] theorem State.zeroBytes_mccs (s : State) (a n : Nat) : (s.zeroBytes a n).mccs = s.mccs := rfl
@[simp] theorem State.zeroBytes_stores (s : State) (a n : Nat) : (s.zeroBytes a n).stores = s.stores := rfl
@[simp] theorem State.zeroBytes_teams (s : State) (a n : Nat) : (s.zeroBytes a n).teams = s.teams := rfl
@[simp] theorem State.zeroBytes_gangs (s : State) (a n : Nat) : (s.zeroBytes a n).gangs = s.gangs := rfl
@[simp] theorem State.zeroBytes_grids (s : State) (a n : Nat) : (s.zeroBytes a n).grids = s.grids := rfl
@[simp] theorem State.zeroBytes_packets (s : State) (a n : Nat) : (s.zeroBytes a n).packets = s.packets := rfl
@[simp] theorem State.zeroBytes_engines (s : State) (a n : Nat) : (s.zeroBytes a n).engines = s.engines := rfl
@[simp] theorem State.zeroBytes_ctxs (s : State) (a n : Nat) : (s.zeroBytes a n).ctxs = s.ctxs := rfl
@[simp] theorem State.zeroBytes_quotes (s : State) (a n : Nat) : (s.zeroBytes a n).quotes = s.quotes := rfl
@[simp] theorem State.zeroBytes_reservations (s : State) (a n : Nat) : (s.zeroBytes a n).reservations = s.reservations := rfl
@[simp] theorem State.zeroBytes_walks (s : State) (a n : Nat) : (s.zeroBytes a n).walks = s.walks := rfl
@[simp] theorem State.zeroBytes_nextQid (s : State) (a n : Nat) : (s.zeroBytes a n).nextQid = s.nextQid := rfl
@[simp] theorem State.zeroBytes_nextGrid (s : State) (a n : Nat) : (s.zeroBytes a n).nextGrid = s.nextGrid := rfl
@[simp] theorem State.zeroBytes_nextGang (s : State) (a n : Nat) : (s.zeroBytes a n).nextGang = s.nextGang := rfl
@[simp] theorem State.zeroBytes_nextPacket (s : State) (a n : Nat) : (s.zeroBytes a n).nextPacket = s.nextPacket := rfl
@[simp] theorem State.zeroBytes_nextEgress (s : State) (a n : Nat) : (s.zeroBytes a n).nextEgress = s.nextEgress := rfl
@[simp] theorem State.zeroBytes_nextReservation (s : State) (a n : Nat) : (s.zeroBytes a n).nextReservation = s.nextReservation := rfl
@[simp] theorem State.zeroBytes_completions (s : State) (a n : Nat) : (s.zeroBytes a n).completions = s.completions := rfl
@[simp] theorem State.zeroBytes_finals (s : State) (a n : Nat) : (s.zeroBytes a n).finals = s.finals := rfl
@[simp] theorem State.zeroBytes_suspects (s : State) (a n : Nat) : (s.zeroBytes a n).suspects = s.suspects := rfl
@[simp] theorem State.zeroBytes_scanSeq (s : State) (a n : Nat) : (s.zeroBytes a n).scanSeq = s.scanSeq := rfl
@[simp] theorem State.zeroBytes_counters (s : State) (a n : Nat) : (s.zeroBytes a n).counters = s.counters := rfl
@[simp] theorem State.zeroBytes_qis (s : State) (a n : Nat) : (s.zeroBytes a n).qis = s.qis := rfl
@[simp] theorem State.zeroBytes_egresses (s : State) (a n : Nat) : (s.zeroBytes a n).egresses = s.egresses := rfl
@[simp] theorem State.zeroBytes_interrupts (s : State) (a n : Nat) : (s.zeroBytes a n).interrupts = s.interrupts := rfl
@[simp] theorem State.zeroBytes_votes (s : State) (a n : Nat) : (s.zeroBytes a n).votes = s.votes := rfl
@[simp] theorem State.zeroBytes_settle (s : State) (a n : Nat) : (s.zeroBytes a n).settle = s.settle := rfl
@[simp] theorem State.zeroBytes_recovering (s : State) (a n : Nat) : (s.zeroBytes a n).recovering = s.recovering := rfl
@[simp] theorem State.zeroBytes_locked (s : State) (a n : Nat) : (s.zeroBytes a n).locked = s.locked := rfl
@[simp] theorem State.zeroBytes_spdm (s : State) (a n : Nat) : (s.zeroBytes a n).spdm = s.spdm := rfl
@[simp] theorem State.zeroBytes_migrations (s : State) (a n : Nat) : (s.zeroBytes a n).migrations = s.migrations := rfl
@[simp] theorem State.zeroBytes_checked (s : State) (a n : Nat) : (s.zeroBytes a n).checked = s.checked := rfl
@[simp] theorem State.zeroBytes_mem (s : State) (a n : Nat) : (s.zeroBytes a n).mem = Memory.zero s.mem a n := rfl

end Sys2Proof.Machine
end

