-- ==== Sys2Proof/Laws/Ops.lean ====
section
/-! SUPPORT. Spec lemmas of the frame in which a party's instruction is issued: what `issueWith` can answer, what it answers when
every check passes, and what follows an instruction of a group at rest. -/
namespace Sys2Proof.Machine

theorem Tab.put_of_find {α : Type} (t : Tab α) (k : Nat) (v : α) (h : Tab.find t k = some v) : Tab.put t k v = t := by
  induction t with
  | nil => simp [Tab.find] at h
  | cons e t ih =>
    obtain ⟨j, w⟩ := e
    by_cases hj : j = k
    · subst hj
      simp only [Tab.find, if_pos] at h
      simp [Tab.put, Option.some.inj h]
    · simp only [Tab.find, if_neg hj] at h
      simp [Tab.put, hj, ih h]

/-- Putting a group back as the state holds it changes nothing. -/
theorem State.setGroup_of_group (s : State) (k : Nat) (g : Group) (h : s.group k = some g) : s.setGroup k g = s := by
  unfold State.setGroup; rw [Tab.put_of_find _ _ _ h]

@[simp] theorem State.settleCheck_of_clear (s : State) (h : s.checked = false) : s.settleCheck = s := by
  simp [State.settleCheck, h]

/-- What the loading of a party says: the turn names it, and the state holds its group and its split. -/
theorem Ex.load_some {s : State} {x : Ex} (h : Ex.load s = some x) (hm : x.mate = none) :
    x.s = s ∧ s.group x.gid = some x.g ∧ x.g.split? x.sp.entry = some x.sp := by
  unfold Ex.load at h
  have aux : ∀ (g : Group) (e : Nat) (p : Split), g.split? e = some p → g.split? p.entry = some p := by
    intro g e p hp
    have := List.find?_some hp
    rw [beq_iff_eq] at this
    rw [this]; exact hp
  split at h
  · split at h
    · rename_i g hg
      obtain ⟨p, hp, rfl⟩ := Option.map_eq_some_iff.1 h
      exact ⟨rfl, hg, aux g _ p hp⟩
    · simp at h
  · split at h
    · rename_i g hg
      obtain ⟨p, hp, hx⟩ := Option.map_eq_some_iff.1 h
      split at hx
      · split at hx
        · subst hx; exact ⟨rfl, hg, aux g _ p hp⟩
        · subst hx; simp at hm
      · subst hx; exact ⟨rfl, hg, aux g _ p hp⟩
    · simp at h
  · simp at h

/-- Every issue answers a next state. -/
theorem issueWith_next (i : Instr) (s : State) (body : Ex → Except Trap State) : ∃ t, issueWith i s body = .next t := by
  unfold issueWith
  split
  · exact ⟨_, rfl⟩
  · dsimp only
    split
    · exact ⟨_, rfl⟩
    · split
      · exact ⟨_, rfl⟩
      · split
        · split <;> exact ⟨_, rfl⟩
        · exact ⟨_, rfl⟩
        · split <;> exact ⟨_, rfl⟩

theorem Ex.killLanes_zero (x : Ex) : x.killLanes 0 = x := by simp [Ex.killLanes]

/-- An instruction that is issued and whose entry performs answers the state its entry gives, and what follows. -/
theorem issueWith_ok {i : Instr} {s : State} {x : Ex} {body : Ex → Except Trap State} {t : State} (h : x.Issues i s)
    (hb : body x = .ok t) : issueWith i s body = .next (x.finish i t) := by
  unfold issueWith
  simp only [h.load, h.check, h.sound, h.queue, h.held, h.clean, Ex.killLanes_zero, hb, Bool.false_eq_true, if_false]

/-- An instruction that is issued and whose entry traps takes that trap. -/
theorem issueWith_trap {i : Instr} {s : State} {x : Ex} {body : Ex → Except Trap State} {t : Trap} (h : x.Issues i s)
    (hb : body x = .error t) : issueWith i s body = .next (x.takeTrap t).settleCheck := by
  unfold issueWith
  simp only [h.load, h.check, h.sound, h.queue, h.held, h.clean, Ex.killLanes_zero, hb, Bool.false_eq_true, if_false]

/-- An instruction that a check of R68 turns away takes the trap of the first check that fails. -/
theorem issueWith_check {i : Instr} {s : State} {x : Ex} {body : Ex → Except Trap State} {c : Cause} (h : Ex.load s = some x)
    (hc : x.decodeCheck i = some c) : issueWith i s body = .next (x.takeTrap (.of c)).settleCheck := by
  unfold issueWith
  simp only [h, hc]

theorem issueEx_ok {i : Instr} {s : State} {x y : Ex} {body : Ex → Except Trap Ex} (h : x.Issues i s) (hb : body x = .ok y) :
    issueEx i s body = .next (x.finish i y.next.save) :=
  issueWith_ok h (by simp [hb, Except.map])

theorem issueEx_trap {i : Instr} {s : State} {x : Ex} {body : Ex → Except Trap Ex} {t : Trap} (h : x.Issues i s)
    (hb : body x = .error t) : issueEx i s body = .next (x.takeTrap t).settleCheck :=
  issueWith_trap h (by simp [hb, Except.map])

/-- Counting an event changes the counters and nothing else. -/
theorem State.count_eq (s : State) (p g e n : Nat) : ∃ c, s.count p g e n = { s with counters := c } := ⟨_, rfl⟩

/-- Counting an instruction changes the counters and nothing else. -/
theorem Ex.tally_eq (x : Ex) (i : Instr) (s : State) : ∃ c, x.tally i s = { s with counters := c } := by
  unfold Ex.tally
  obtain ⟨c1, h1⟩ := s.count_eq x.part x.gid 0 1
  obtain ⟨c2, h2⟩ := State.count_eq { s with counters := c1 } x.part x.gid 1 (if x.g.mcc then 0 else x.sp.covered.length)
  simp only [h1, h2]
  split
  · obtain ⟨c3, h3⟩ := State.count_eq { s with counters := c2 } x.part x.gid _ 1
    exact ⟨c3, h3⟩
  · exact ⟨c2, rfl⟩

/-- A group as it is after its split has been put to another state. -/
theorem Group.split?_withSplit (g : Group) (p : Split) (e : Nat) :
    (g.withSplit p).split? e = if e = p.entry then (g.split? e).map (fun _ => p) else g.split? e := by
  unfold Group.split? Group.withSplit
  dsimp only
  induction g.splits with
  | nil => by_cases h : e = p.entry <;> simp [h]
  | cons q t ih =>
    rw [List.map_cons, List.find?_cons, List.find?_cons]
    by_cases hq : q.entry = p.entry
    · by_cases he : e = p.entry
      · simp [hq, he]
      · have h1 : (p.entry == e) = false := beq_false_of_ne (Ne.symm he)
        simp only [hq, if_true, he, if_false, h1] at ih ⊢
        exact ih
    · by_cases hqe : q.entry = e
      · have he : ¬ e = p.entry := by rw [← hqe]; exact hq
        simp [hqe, he]
      · have h1 : (q.entry == e) = false := beq_false_of_ne hqe
        simp only [hq, if_false, h1]
        exact ih

/-- What an instruction leaves of its split: nothing of its issue, and stale latches after a switch point (R46). -/
def Split.over (p : Split) (i : Instr) : Split := if i.isSwitch then p.settled.stale else p.settled

@[simp] theorem Split.over_entry (p : Split) (i : Instr) : (p.over i).entry = p.entry := by unfold Split.over; split <;> rfl
@[simp] theorem Split.over_lanes (p : Split) (i : Instr) : (p.over i).lanes = p.lanes := by unfold Split.over; split <;> rfl
@[simp] theorem Split.over_wait (p : Split) (i : Instr) : (p.over i).wait = p.wait := by unfold Split.over; split <;> rfl

/-- What follows an instruction of a group at rest: the counters, and what the instruction leaves of its split. -/
theorem Ex.finish_calm {x : Ex} {i : Instr} {s : State} {g : Group} {p : Split} (hc : x.Calm) (hg : s.group x.gid = some g)
    (hp : g.split? x.sp.entry = some p) (hw : p.wait = none) (hsv : g.saved.isSome = true → x.g.saved.isSome = true)
    (hq : g.trapq.length ≤ x.g.trapq.length) (hch : s.checked = false)
    (ha : g.mcc = true ∨ ∀ p ∈ g.splits, p.lanes &&& ~~~ g.dead ≠ 0) :
    x.finish i s = (x.tally i s).setGroup x.gid (g.withSplit (p.over i)) := by
  have hpe : p.entry = x.sp.entry := by
    have := List.find?_some hp
    simpa using this
  have htr : ((g.saved.isSome && x.g.saved.isNone && x.mate.isNone) || decide (x.g.trapq.length < g.trapq.length)) = false := by
    have h1 : ¬ x.g.trapq.length < g.trapq.length := by omega
    cases h : g.saved.isSome
    · simp [h1]
    · have := hsv h
      cases hx : x.g.saved <;> simp_all
  have hafter : x.after i s = (x.tally i s).setGroup x.gid (g.withSplit (p.over i)) := by
    unfold Ex.after Split.over
    simp only [hg, htr, hp, hw, hc.stepping, Option.isSome_none, Bool.or_self, Bool.false_eq_true, if_false, false_and]
  obtain ⟨c, hcs⟩ := x.tally_eq i s
  let g1 := g.withSplit (p.over i)
  let s1 := (x.tally i s).setGroup x.gid g1
  have hg1 : s1.group x.gid = some g1 := by simp [s1]
  have hsp : g1.split? x.sp.entry = some (p.over i) := by
    rw [Group.split?_withSplit, if_pos (by simpa using hpe.symm), hp]; rfl
  have hmem : p.over i ∈ g1.splits := List.mem_of_find?_eq_some hsp
  have halive : g1.mcc = true ∨ ∀ p ∈ g1.splits, p.lanes &&& ~~~ g1.dead ≠ 0 := by
    rcases ha with ha | ha
    · exact .inl ha
    · refine .inr fun q hq => ?_
      simp only [g1, Group.withSplit, List.mem_map] at hq
      obtain ⟨r, hr, hrq⟩ := hq
      split at hrq
      · subst hrq; rw [Split.over_lanes]; exact ha p (List.mem_of_find?_eq_some hp)
      · subst hrq; exact ha r hr
  have hbury : s1.buryDead x.gid = s1 := by
    unfold State.buryDead
    rw [hg1]
    dsimp only
    rcases halive with hm | hm
    · simp [hm]
    · have hf : g1.splits.find? (fun p => p.lanes &&& ~~~ g1.dead == 0) = none := by
        rw [List.find?_eq_none]
        intro q hq
        simpa using hm q hq
      split
      · rfl
      · unfold State.bury
        simp only [hg1, Option.bind_some, hf]
  have htb : s1.tbarGroup x.gid = s1 := by
    unfold State.tbarGroup
    rw [hg1]
    dsimp only
    have hall : ∀ f : Split → Bool, f (p.over i) = false → g1.splits.all f = false := by
      intro f hf
      rw [List.all_eq_false]
      exact ⟨_, hmem, by rw [hf]; simp⟩
    rw [hall _ (by rw [Split.over_wait, hw])]
    simp
  unfold Ex.finish
  rw [hafter]
  show ((s1.buryDead x.gid).tbarGroup x.gid).settleCheck = s1
  rw [hbury, htb]
  exact State.settleCheck_of_clear _ (by simp [s1, hcs, hch])

/-- A byte of an allotment lies as many rows into it as its offset says, and in the offset's bank (R145, R147). -/
theorem spadRow_allot (a : Allot) (off : Nat) : spadRow (a.row0 * 2048 + off) = a.row0 + spadRow off := by
  unfold spadRow; omega

theorem spadBank_allot (a : Allot) (off : Nat) : spadBank (a.row0 * 2048 + off) = spadBank off := by
  unfold spadBank; omega

end Sys2Proof.Machine
end

