-- ==== Sys2Proof/Laws/Words.lean ====
section
/-! SUPPORT. What the fields of an encoded word read back as: the arithmetic that the round trip of every format needs. -/
namespace Sys2Proof.Laws

theorem operand_toNat_lt (o : Operand) : o.toNat < 128 := by
  cases o <;> simp only [Operand.toNat] <;> omega

theorem operand_ofNat_toNat (o : Operand) : Operand.ofNat o.toNat = o := by
  cases o with
  | vreg n => revert n; decide
  | sreg n => revert n; decide
  | latch n => revert n; decide
  | preg n => revert n; decide
  | reserved n => revert n; decide
  | _ => rfl

theorem word_toNat (n : Nat) (h : n < 2 ^ 32) : (word n).toNat = n := by
  simp only [word, BitVec.toNat_ofNat]; omega

theorem word_ne_zero (n : Nat) (h : n < 2 ^ 32) (h0 : n ≠ 0) : word n ≠ 0 := fun e => h0 (by
  have := congrArg BitVec.toNat e
  rw [word_toNat n h] at this
  simpa using this)

theorem b2n_le (b : Bool) : b2n b ≤ 1 := by cases b <;> decide

/-- The value of a format-R word's fields below the opcode. -/
def rBits (f : RForm) : Nat := b2n f.nw * 2 ^ 21 + f.d.toNat * 2 ^ 14 + f.a.toNat * 2 ^ 7 + f.b.toNat

theorem rBits_lt (f : RForm) : rBits f < 2 ^ 22 := by
  have hn := b2n_le f.nw
  have hd := operand_toNat_lt f.d
  have ha := operand_toNat_lt f.a
  have hb := operand_toNat_lt f.b
  unfold rBits; omega

theorem encR_eq (op : Nat) (f : RForm) : encR op f = [word (op * 2 ^ 22 + rBits f)] := by
  simp only [encR, rBits, Nat.add_assoc]

/-- The opcode field of a word that an encoder built from an opcode and 22 bits. -/
theorem opcode_field (op r : Nat) (h : op < 1024) (hr : r < 2 ^ 22) :
    field (word (op * 2 ^ 22 + r)).toNat 31 22 = op := by
  rw [word_toNat _ (by omega)]; simp only [field]; omega

theorem rform_enc (op : Nat) (f : RForm) : rform (op * 2 ^ 22 + rBits f) = f := by
  obtain ⟨nw, d, a, b⟩ := f
  have hd := operand_toNat_lt d
  have ha := operand_toNat_lt a
  have hb := operand_toNat_lt b
  have hn := b2n_le nw
  simp only [rform, field, bit, rBits, RForm.mk.injEq]
  refine ⟨?_, ?_, ?_, ?_⟩
  · rw [show (op * 2 ^ 22 + (b2n nw * 2 ^ 21 + d.toNat * 2 ^ 14 + a.toNat * 2 ^ 7 + b.toNat)) / 2 ^ 21 % 2 = b2n nw by omega]
    cases nw <;> rfl
  · rw [show (op * 2 ^ 22 + (b2n nw * 2 ^ 21 + d.toNat * 2 ^ 14 + a.toNat * 2 ^ 7 + b.toNat)) / 2 ^ 14 % 2 ^ (20 + 1 - 14) = d.toNat by omega]
    exact operand_ofNat_toNat d
  · rw [show (op * 2 ^ 22 + (b2n nw * 2 ^ 21 + d.toNat * 2 ^ 14 + a.toNat * 2 ^ 7 + b.toNat)) / 2 ^ 7 % 2 ^ (13 + 1 - 7) = a.toNat by omega]
    exact operand_ofNat_toNat a
  · rw [show (op * 2 ^ 22 + (b2n nw * 2 ^ 21 + d.toNat * 2 ^ 14 + a.toNat * 2 ^ 7 + b.toNat)) / 2 ^ 0 % 2 ^ (6 + 1 - 0) = b.toNat by omega]
    exact operand_ofNat_toNat b

/-- A format-R word reads back as its instruction, for an opcode of R65 or of R66. -/
theorem decode_encR (op : Nat) (f : RForm) (i : Instr) (h : 0 < op) (h3 : op < 0x300)
    (hi : ∀ w : Word, rform w.toNat = f → decodeOp w op = i) : decode (word (op * 2 ^ 22 + rBits f)) = i := by
  have hr := rBits_lt f
  have hlt : op * 2 ^ 22 + rBits f < 2 ^ 32 := by omega
  unfold decode
  rw [if_neg (word_ne_zero _ hlt (by omega)), opcode_field op _ (by omega) hr, if_neg (by omega)]
  exact hi _ (by rw [word_toNat _ hlt]; exact rform_enc op f)

/-- The value of a format-K word's fields below the opcode. -/
def kBits (f : KForm) : Nat := f.d.toNat * 2 ^ 15 + f.k.toNat

theorem kBits_lt (f : KForm) : kBits f < 2 ^ 22 := by
  have hd := operand_toNat_lt f.d
  have hk := f.k.isLt
  unfold kBits; omega

theorem encK_eq (op : Nat) (f : KForm) : encK op f = [word (op * 2 ^ 22 + kBits f)] := by
  simp only [encK, kBits, Nat.add_assoc]

theorem kform_enc (op : Nat) (f : KForm) : kform (op * 2 ^ 22 + kBits f) = f := by
  obtain ⟨d, k⟩ := f
  have hd := operand_toNat_lt d
  have hk := k.isLt
  simp only [kform, field, kBits, KForm.mk.injEq]
  refine ⟨?_, BitVec.eq_of_toNat_eq ?_⟩
  · rw [show (op * 2 ^ 22 + (d.toNat * 2 ^ 15 + k.toNat)) / 2 ^ 15 % 2 ^ (21 + 1 - 15) = d.toNat by omega]
    exact operand_ofNat_toNat d
  · simp only [BitVec.toNat_ofNat]; omega

/-- A format-K word reads back as its instruction. -/
theorem decode_encK (op : Nat) (f : KForm) (i : Instr) (h : 0 < op) (h3 : op < 0x300)
    (hi : ∀ w : Word, kform w.toNat = f → decodeOp w op = i) : decode (word (op * 2 ^ 22 + kBits f)) = i := by
  have hr := kBits_lt f
  have hlt : op * 2 ^ 22 + kBits f < 2 ^ 32 := by omega
  unfold decode
  rw [if_neg (word_ne_zero _ hlt (by omega)), opcode_field op _ (by omega) hr, if_neg (by omega)]
  exact hi _ (by rw [word_toNat _ hlt]; exact kform_enc op f)

/-- A format-B word reads back as its instruction. -/
theorem decode_encB (op : Nat) (off : BitVec 22) (i : Instr) (h : 0 < op) (h3 : op < 0x300)
    (hi : ∀ w : Word, BitVec.ofNat 22 w.toNat = off → decodeOp w op = i) :
    decode (word (op * 2 ^ 22 + off.toNat)) = i := by
  have hk := off.isLt
  have hlt : op * 2 ^ 22 + off.toNat < 2 ^ 32 := by omega
  have h0 : op * 2 ^ 22 + off.toNat ≠ 0 := by omega
  have hf : ¬ 0x300 ≤ op := by omega
  have hm : (op * 2 ^ 22 + off.toNat) % 2 ^ 22 = off.toNat := by omega
  have ho : op < 1024 := by omega
  unfold decode
  rw [if_neg (word_ne_zero _ hlt h0), opcode_field op off.toNat ho hk, if_neg hf]
  exact hi _ (by rw [word_toNat _ hlt]; exact BitVec.eq_of_toNat_eq (by rw [BitVec.toNat_ofNat]; exact hm))

/-- The value of the fields of a box command below its opcode. -/
def boxBits (f : BoxForm) : Nat :=
  f.tid.toNat * 2 ^ 14 + b2n f.quad * 2 ^ 13 + b2n f.acq * 2 ^ 12 + b2n f.rel * 2 ^ 11 + b2n f.mirror * 2 ^ 10
    + f.scope.toNat * 2 ^ 8 + f.rsv.toNat

theorem bit_b2n (n : Nat) (b : Bool) (h : n = b2n b) : (n == 1) = b := by subst h; cases b <;> rfl

theorem boxBits_lt (f : BoxForm) : boxBits f < 2 ^ 22 := by
  have h1 := f.tid.isLt
  have h2 := b2n_le f.quad
  have h3 := b2n_le f.acq
  have h4 := b2n_le f.rel
  have h5 := b2n_le f.mirror
  have h6 := f.scope.isLt
  have h7 := f.rsv.isLt
  unfold boxBits; omega

theorem boxForm_enc (op : Nat) (f : BoxForm) : boxForm (op * 2 ^ 22 + boxBits f) f.box = f := by
  obtain ⟨tid, quad, acq, rel, mirror, scope, rsv, box⟩ := f
  have h1 := tid.isLt
  have h2 := b2n_le quad
  have h3 := b2n_le acq
  have h4 := b2n_le rel
  have h5 := b2n_le mirror
  have h6 := scope.isLt
  have h7 := rsv.isLt
  simp only [boxForm, bit, boxBits, BoxForm.mk.injEq, and_true]
  refine ⟨BitVec.eq_of_toNat_eq ?_, bit_b2n _ _ ?_, bit_b2n _ _ ?_, bit_b2n _ _ ?_, bit_b2n _ _ ?_, BitVec.eq_of_toNat_eq ?_,
    BitVec.eq_of_toNat_eq ?_⟩
  all_goals first | omega | (simp only [BitVec.toNat_ofNat]; omega)

theorem ofNat_field (w n lo : Nat) (x : BitVec n) (h : w / 2 ^ lo % 2 ^ n = x.toNat) : BitVec.ofNat n (w / 2 ^ lo) = x :=
  BitVec.eq_of_toNat_eq (by simpa only [BitVec.toNat_ofNat] using h)

theorem ofNat_low (w n : Nat) (x : BitVec n) (h : w % 2 ^ n = x.toNat) : BitVec.ofNat n w = x :=
  BitVec.eq_of_toNat_eq (by simpa only [BitVec.toNat_ofNat] using h)

end Sys2Proof.Laws
end

