-- ==== Sys2Proof/Laws/PerInstr.lean ====
section
/-! SUPPORT. The round trip of the encoder, one lemma for each constructor: the words that encode a well-formed instruction
read back as it, by a core's or the MCC's decoder, or for a command of a stream list by an engine's; no word encodes an event. -/
namespace Sys2Proof.Laws.Encoding

/-- The words that encode `i`, if it has any, read back as `i` with every operand. -/
def Statement (i : Instr) : Prop :=
  i.wellFormed = true →
    match encode i with
    | [] => i.isCommand = false
    | w :: ext =>
      if i.isCommand then decodeStream w (ext.getD 0 0) (ext.getD 1 0) = .ok i
      else ext = [] ∧ decode w = i

theorem readR (op : Nat) (f : RForm) (mk : RForm → Instr) (he : encode (mk f) = encR op f) (hc : (mk f).isCommand = false)
    (h0 : 0 < op) (h3 : op < 0x300) (hop : ∀ w, decodeOp w op = mk (rform w.toNat)) :
    match encode (mk f) with
    | [] => (mk f).isCommand = false
    | w :: ext => if (mk f).isCommand then decodeStream w (ext.getD 0 0) (ext.getD 1 0) = .ok (mk f) else ext = [] ∧ decode w = mk f := by
  rw [he, encR_eq, hc]
  exact ⟨rfl, decode_encR op f _ h0 h3 (fun w h => by rw [hop, h])⟩

theorem readK (op : Nat) (f : KForm) (mk : KForm → Instr) (he : encode (mk f) = encK op f) (hc : (mk f).isCommand = false)
    (h0 : 0 < op) (h3 : op < 0x300) (hop : ∀ w, decodeOp w op = mk (kform w.toNat)) :
    match encode (mk f) with
    | [] => (mk f).isCommand = false
    | w :: ext => if (mk f).isCommand then decodeStream w (ext.getD 0 0) (ext.getD 1 0) = .ok (mk f) else ext = [] ∧ decode w = mk f := by
  rw [he, encK_eq, hc]
  exact ⟨rfl, decode_encK op f _ h0 h3 (fun w h => by rw [hop, h])⟩

theorem readB (op : Nat) (off : BitVec 22) (mk : BitVec 22 → Instr) (he : encode (mk off) = encB op off)
    (hc : (mk off).isCommand = false) (h0 : 0 < op) (h3 : op < 0x300) (hop : ∀ w, decodeOp w op = mk (BitVec.ofNat 22 w.toNat)) :
    match encode (mk off) with
    | [] => (mk off).isCommand = false
    | w :: ext =>
      if (mk off).isCommand then decodeStream w (ext.getD 0 0) (ext.getD 1 0) = .ok (mk off) else ext = [] ∧ decode w = mk off := by
  rw [he, hc]
  exact ⟨rfl, decode_encB op off _ h0 h3 (fun w h => by rw [hop, h])⟩

theorem decodeOp_atm (w : Word) (use : Nat) (op : AtmOp) (hu : use < 8) (hl : atmIllegal op.code use = false) :
    decodeOp w (0x180 + 8 * op.code + use) = opAtm use op (rform w.toNat) := by
  have hc : op.code < 8 := by cases op <;> decide
  have ho : AtmOp.ofCode op.code = op := by cases op <;> rfl
  unfold decodeOp
  rw [if_pos (by omega)]
  simp only [show (0x180 + 8 * op.code + use - 0x180) / 8 = op.code by omega, show (0x180 + 8 * op.code + use) % 8 = use by omega,
    hl, ho]
  rfl

theorem readA (use : Nat) (op : AtmOp) (f : RForm) (mk : AtmOp → RForm → Instr) (he : encode (mk op f) = encA use op f)
    (hc : (mk op f).isCommand = false) (hu : use < 8) (hl : atmIllegal op.code use = false) (hop : opAtm use = mk) :
    match encode (mk op f) with
    | [] => (mk op f).isCommand = false
    | w :: ext =>
      if (mk op f).isCommand then decodeStream w (ext.getD 0 0) (ext.getD 1 0) = .ok (mk op f) else ext = [] ∧ decode w = mk op f := by
  have hcode : op.code < 8 := by cases op <;> decide
  rw [he, encA, encR_eq, hc]
  exact ⟨rfl, decode_encR _ f _ (by omega) (by omega) (fun w h => by rw [decodeOp_atm w use op hu hl, h, hop])⟩

theorem readBox (op : Nat) (f : BoxForm) (mk : BoxForm → Instr) (he : encode (mk f) = encBox op f) (hc : (mk f).isCommand = true)
    (h0 : op < 1024) (hop : ∀ w x : Word, field w.toNat 31 22 = op → decodeStream w x 0 = .ok (mk (boxForm w.toNat x))) :
    match encode (mk f) with
    | [] => (mk f).isCommand = false
    | w :: ext => if (mk f).isCommand then decodeStream w (ext.getD 0 0) (ext.getD 1 0) = .ok (mk f) else ext = [] ∧ decode w = mk f := by
  have hr := boxBits_lt f
  rw [he, hc]
  show decodeStream (word (op * 2 ^ 22 + boxBits f)) f.box 0 = _
  rw [hop _ _ (opcode_field op _ h0 hr), word_toNat _ (by omega), boxForm_enc]

theorem readS (op r : Nat) (x y : Word) (i : Instr) (hr : r < 2 ^ 22) (h0 : op < 1024)
    (hop : ∀ w : Word, field w.toNat 31 22 = op → w.toNat = op * 2 ^ 22 + r → decodeStream w x y = .ok i) :
    decodeStream (encS op r) x y = .ok i :=
  hop _ (opcode_field op r h0 hr) (word_toNat _ (by omega))

theorem illegalZero : Statement .illegalZero := fun _ => ⟨rfl, by decide⟩

theorem illegalOpcode (w : Word) : Statement (.illegalOpcode w) := fun h => ⟨rfl, by
  simp only [Instr.wellFormed, Instr.fateOk, Bool.and_eq_true, beq_iff_eq] at h
  exact h.2⟩

theorem streamWord (w : Word) : Statement (.streamWord w) := fun h => ⟨rfl, by
  simp only [Instr.wellFormed, Instr.fateOk, Bool.and_eq_true, beq_iff_eq] at h
  exact h.2⟩

theorem nop (f : RForm) : Statement (.nop f) :=
  fun _ => readR 0x001 f .nop rfl rfl (by decide) (by decide) (fun _ => rfl)

theorem add (f : RForm) : Statement (.add f) :=
  fun _ => readR 0x010 f .add rfl rfl (by decide) (by decide) (fun _ => rfl)

theorem sub (f : RForm) : Statement (.sub f) :=
  fun _ => readR 0x011 f .sub rfl rfl (by decide) (by decide) (fun _ => rfl)

theorem mul (f : RForm) : Statement (.mul f) :=
  fun _ => readR 0x012 f .mul rfl rfl (by decide) (by decide) (fun _ => rfl)

theorem mulh (f : RForm) : Statement (.mulh f) :=
  fun _ => readR 0x013 f .mulh rfl rfl (by decide) (by decide) (fun _ => rfl)

theorem mac (f : RForm) : Statement (.mac f) :=
  fun _ => readR 0x014 f .mac rfl rfl (by decide) (by decide) (fun _ => rfl)

theorem min (f : RForm) : Statement (.min f) :=
  fun _ => readR 0x015 f .min rfl rfl (by decide) (by decide) (fun _ => rfl)

theorem max (f : RForm) : Statement (.max f) :=
  fun _ => readR 0x016 f .max rfl rfl (by decide) (by decide) (fun _ => rfl)

theorem abs (f : RForm) : Statement (.abs f) :=
  fun _ => readR 0x017 f .abs rfl rfl (by decide) (by decide) (fun _ => rfl)

theorem neg (f : RForm) : Statement (.neg f) :=
  fun _ => readR 0x018 f .neg rfl rfl (by decide) (by decide) (fun _ => rfl)

theorem div (f : RForm) : Statement (.div f) :=
  fun _ => readR 0x019 f .div rfl rfl (by decide) (by decide) (fun _ => rfl)

theorem rem (f : RForm) : Statement (.rem f) :=
  fun _ => readR 0x01A f .rem rfl rfl (by decide) (by decide) (fun _ => rfl)

theorem rcp (f : RForm) : Statement (.rcp f) :=
  fun _ => readR 0x020 f .rcp rfl rfl (by decide) (by decide) (fun _ => rfl)

theorem rsq (f : RForm) : Statement (.rsq f) :=
  fun _ => readR 0x021 f .rsq rfl rfl (by decide) (by decide) (fun _ => rfl)

theorem sqrt (f : RForm) : Statement (.sqrt f) :=
  fun _ => readR 0x022 f .sqrt rfl rfl (by decide) (by decide) (fun _ => rfl)

theorem exp2 (f : RForm) : Statement (.exp2 f) :=
  fun _ => readR 0x023 f .exp2 rfl rfl (by decide) (by decide) (fun _ => rfl)

theorem log2 (f : RForm) : Statement (.log2 f) :=
  fun _ => readR 0x024 f .log2 rfl rfl (by decide) (by decide) (fun _ => rfl)

theorem tanh (f : RForm) : Statement (.tanh f) :=
  fun _ => readR 0x025 f .tanh rfl rfl (by decide) (by decide) (fun _ => rfl)

theorem and_ (f : RForm) : Statement (.and_ f) :=
  fun _ => readR 0x030 f .and_ rfl rfl (by decide) (by decide) (fun _ => rfl)

theorem or_ (f : RForm) : Statement (.or_ f) :=
  fun _ => readR 0x031 f .or_ rfl rfl (by decide) (by decide) (fun _ => rfl)

theorem xor_ (f : RForm) : Statement (.xor_ f) :=
  fun _ => readR 0x032 f .xor_ rfl rfl (by decide) (by decide) (fun _ => rfl)

theorem andn (f : RForm) : Statement (.andn f) :=
  fun _ => readR 0x033 f .andn rfl rfl (by decide) (by decide) (fun _ => rfl)

theorem shl (f : RForm) : Statement (.shl f) :=
  fun _ => readR 0x034 f .shl rfl rfl (by decide) (by decide) (fun _ => rfl)

theorem shr (f : RForm) : Statement (.shr f) :=
  fun _ => readR 0x035 f .shr rfl rfl (by decide) (by decide) (fun _ => rfl)

theorem sar (f : RForm) : Statement (.sar f) :=
  fun _ => readR 0x036 f .sar rfl rfl (by decide) (by decide) (fun _ => rfl)

theorem rot (f : RForm) : Statement (.rot f) :=
  fun _ => readR 0x037 f .rot rfl rfl (by decide) (by decide) (fun _ => rfl)

theorem popc (f : RForm) : Statement (.popc f) :=
  fun _ => readR 0x038 f .popc rfl rfl (by decide) (by decide) (fun _ => rfl)

theorem clz (f : RForm) : Statement (.clz f) :=
  fun _ => readR 0x039 f .clz rfl rfl (by decide) (by decide) (fun _ => rfl)

theorem brev (f : RForm) : Statement (.brev f) :=
  fun _ => readR 0x03A f .brev rfl rfl (by decide) (by decide) (fun _ => rfl)

theorem bfx (f : RForm) : Statement (.bfx f) :=
  fun _ => readR 0x03B f .bfx rfl rfl (by decide) (by decide) (fun _ => rfl)

theorem bfi (f : RForm) : Statement (.bfi f) :=
  fun _ => readR 0x03C f .bfi rfl rfl (by decide) (by decide) (fun _ => rfl)

theorem prmt (f : RForm) : Statement (.prmt f) :=
  fun _ => readR 0x03D f .prmt rfl rfl (by decide) (by decide) (fun _ => rfl)

theorem cvtF32 (f : RForm) : Statement (.cvtF32 f) :=
  fun _ => readR 0x040 f .cvtF32 rfl rfl (by decide) (by decide) (fun _ => rfl)

theorem cvtBf16 (f : RForm) : Statement (.cvtBf16 f) :=
  fun _ => readR 0x041 f .cvtBf16 rfl rfl (by decide) (by decide) (fun _ => rfl)

theorem cvtF16 (f : RForm) : Statement (.cvtF16 f) :=
  fun _ => readR 0x042 f .cvtF16 rfl rfl (by decide) (by decide) (fun _ => rfl)

theorem cvtE4m3 (f : RForm) : Statement (.cvtE4m3 f) :=
  fun _ => readR 0x043 f .cvtE4m3 rfl rfl (by decide) (by decide) (fun _ => rfl)

theorem cvtE5m2 (f : RForm) : Statement (.cvtE5m2 f) :=
  fun _ => readR 0x044 f .cvtE5m2 rfl rfl (by decide) (by decide) (fun _ => rfl)

theorem cvtE2m1 (f : RForm) : Statement (.cvtE2m1 f) :=
  fun _ => readR 0x045 f .cvtE2m1 rfl rfl (by decide) (by decide) (fun _ => rfl)

theorem cvtDy8 (f : RForm) : Statement (.cvtDy8 f) :=
  fun _ => readR 0x046 f .cvtDy8 rfl rfl (by decide) (by decide) (fun _ => rfl)

theorem cvtI32 (f : RForm) : Statement (.cvtI32 f) :=
  fun _ => readR 0x047 f .cvtI32 rfl rfl (by decide) (by decide) (fun _ => rfl)

theorem cvtN32 (f : RForm) : Statement (.cvtN32 f) :=
  fun _ => readR 0x048 f .cvtN32 rfl rfl (by decide) (by decide) (fun _ => rfl)

theorem cvtI8 (f : RForm) : Statement (.cvtI8 f) :=
  fun _ => readR 0x049 f .cvtI8 rfl rfl (by decide) (by decide) (fun _ => rfl)

theorem cvtN8 (f : RForm) : Statement (.cvtN8 f) :=
  fun _ => readR 0x04A f .cvtN8 rfl rfl (by decide) (by decide) (fun _ => rfl)

theorem cmpEq (f : RForm) : Statement (.cmpEq f) :=
  fun _ => readR 0x050 f .cmpEq rfl rfl (by decide) (by decide) (fun _ => rfl)

theorem cmpNe (f : RForm) : Statement (.cmpNe f) :=
  fun _ => readR 0x051 f .cmpNe rfl rfl (by decide) (by decide) (fun _ => rfl)

theorem cmpLt (f : RForm) : Statement (.cmpLt f) :=
  fun _ => readR 0x052 f .cmpLt rfl rfl (by decide) (by decide) (fun _ => rfl)

theorem cmpLe (f : RForm) : Statement (.cmpLe f) :=
  fun _ => readR 0x053 f .cmpLe rfl rfl (by decide) (by decide) (fun _ => rfl)

theorem cmpGt (f : RForm) : Statement (.cmpGt f) :=
  fun _ => readR 0x054 f .cmpGt rfl rfl (by decide) (by decide) (fun _ => rfl)

theorem cmpGe (f : RForm) : Statement (.cmpGe f) :=
  fun _ => readR 0x055 f .cmpGe rfl rfl (by decide) (by decide) (fun _ => rfl)

theorem cmpOrd (f : RForm) : Statement (.cmpOrd f) :=
  fun _ => readR 0x056 f .cmpOrd rfl rfl (by decide) (by decide) (fun _ => rfl)

theorem cmpUnord (f : RForm) : Statement (.cmpUnord f) :=
  fun _ => readR 0x057 f .cmpUnord rfl rfl (by decide) (by decide) (fun _ => rfl)

theorem pand (f : RForm) : Statement (.pand f) :=
  fun _ => readR 0x060 f .pand rfl rfl (by decide) (by decide) (fun _ => rfl)

theorem por (f : RForm) : Statement (.por f) :=
  fun _ => readR 0x061 f .por rfl rfl (by decide) (by decide) (fun _ => rfl)

theorem pxor (f : RForm) : Statement (.pxor f) :=
  fun _ => readR 0x062 f .pxor rfl rfl (by decide) (by decide) (fun _ => rfl)

theorem pnot (f : RForm) : Statement (.pnot f) :=
  fun _ => readR 0x063 f .pnot rfl rfl (by decide) (by decide) (fun _ => rfl)

theorem pmov (f : RForm) : Statement (.pmov f) :=
  fun _ => readR 0x064 f .pmov rfl rfl (by decide) (by decide) (fun _ => rfl)

theorem vany (f : RForm) : Statement (.vany f) :=
  fun _ => readR 0x065 f .vany rfl rfl (by decide) (by decide) (fun _ => rfl)

theorem vall (f : RForm) : Statement (.vall f) :=
  fun _ => readR 0x066 f .vall rfl rfl (by decide) (by decide) (fun _ => rfl)

theorem vbal (f : RForm) : Statement (.vbal f) :=
  fun _ => readR 0x067 f .vbal rfl rfl (by decide) (by decide) (fun _ => rfl)

theorem shfl (f : RForm) : Statement (.shfl f) :=
  fun _ => readR 0x070 f .shfl rfl rfl (by decide) (by decide) (fun _ => rfl)

theorem shflx (f : RForm) : Statement (.shflx f) :=
  fun _ => readR 0x071 f .shflx rfl rfl (by decide) (by decide) (fun _ => rfl)

theorem shflu (f : RForm) : Statement (.shflu f) :=
  fun _ => readR 0x072 f .shflu rfl rfl (by decide) (by decide) (fun _ => rfl)

theorem shfld (f : RForm) : Statement (.shfld f) :=
  fun _ => readR 0x073 f .shfld rfl rfl (by decide) (by decide) (fun _ => rfl)

theorem bcast (f : RForm) : Statement (.bcast f) :=
  fun _ => readR 0x074 f .bcast rfl rfl (by decide) (by decide) (fun _ => rfl)

theorem lwr (f : RForm) : Statement (.lwr f) :=
  fun _ => readR 0x075 f .lwr rfl rfl (by decide) (by decide) (fun _ => rfl)

theorem mov (f : RForm) : Statement (.mov f) :=
  fun _ => readR 0x080 f .mov rfl rfl (by decide) (by decide) (fun _ => rfl)

theorem sel (f : RForm) : Statement (.sel f) :=
  fun _ => readR 0x081 f .sel rfl rfl (by decide) (by decide) (fun _ => rfl)

theorem msetr (f : RForm) : Statement (.msetr f) :=
  fun _ => readR 0x090 f .msetr rfl rfl (by decide) (by decide) (fun _ => rfl)

theorem join (f : RForm) : Statement (.join f) :=
  fun _ => readR 0x091 f .join rfl rfl (by decide) (by decide) (fun _ => rfl)

theorem ret (f : RForm) : Statement (.ret f) :=
  fun _ => readR 0x092 f .ret rfl rfl (by decide) (by decide) (fun _ => rfl)

theorem lbrk (f : RForm) : Statement (.lbrk f) :=
  fun _ => readR 0x093 f .lbrk rfl rfl (by decide) (by decide) (fun _ => rfl)

theorem exit (f : RForm) : Statement (.exit f) :=
  fun _ => readR 0x094 f .exit rfl rfl (by decide) (by decide) (fun _ => rfl)

theorem yld (f : RForm) : Statement (.yld f) :=
  fun _ => readR 0x095 f .yld rfl rfl (by decide) (by decide) (fun _ => rfl)

theorem bkpt (f : RForm) : Statement (.bkpt f) :=
  fun _ => readR 0x096 f .bkpt rfl rfl (by decide) (by decide) (fun _ => rfl)

theorem callt (f : RForm) : Statement (.callt f) :=
  fun _ => readR 0x097 f .callt rfl rfl (by decide) (by decide) (fun _ => rfl)

theorem lpb (f : RForm) : Statement (.lpb f) :=
  fun _ => readR 0x098 f .lpb rfl rfl (by decide) (by decide) (fun _ => rfl)

theorem ldi (f : KForm) : Statement (.ldi f) :=
  fun _ => readK 0x100 f .ldi rfl rfl (by decide) (by decide) (fun _ => rfl)

theorem ldih (f : KForm) : Statement (.ldih f) :=
  fun _ => readK 0x101 f .ldih rfl rfl (by decide) (by decide) (fun _ => rfl)

theorem ldc (f : KForm) : Statement (.ldc f) :=
  fun _ => readK 0x102 f .ldc rfl rfl (by decide) (by decide) (fun _ => rfl)

theorem srd (f : KForm) : Statement (.srd f) :=
  fun _ => readK 0x103 f .srd rfl rfl (by decide) (by decide) (fun _ => rfl)

theorem swr (f : KForm) : Statement (.swr f) :=
  fun _ => readK 0x104 f .swr rfl rfl (by decide) (by decide) (fun _ => rfl)

theorem mset (f : KForm) : Statement (.mset f) :=
  fun _ => readK 0x105 f .mset rfl rfl (by decide) (by decide) (fun _ => rfl)

theorem jmark (f : KForm) : Statement (.jmark f) :=
  fun _ => readK 0x106 f .jmark rfl rfl (by decide) (by decide) (fun _ => rfl)

theorem xacq (f : KForm) : Statement (.xacq f) :=
  fun _ => readK 0x107 f .xacq rfl rfl (by decide) (by decide) (fun _ => rfl)

theorem xrel (f : KForm) : Statement (.xrel f) :=
  fun _ => readK 0x108 f .xrel rfl rfl (by decide) (by decide) (fun _ => rfl)

theorem phase (f : KForm) : Statement (.phase f) :=
  fun _ => readK 0x109 f .phase rfl rfl (by decide) (by decide) (fun _ => rfl)

theorem trap (f : KForm) : Statement (.trap f) :=
  fun _ => readK 0x10A f .trap rfl rfl (by decide) (by decide) (fun _ => rfl)

theorem live (f : KForm) : Statement (.live f) :=
  fun _ => readK 0x10B f .live rfl rfl (by decide) (by decide) (fun _ => rfl)

theorem cntrd (f : KForm) : Statement (.cntrd f) :=
  fun _ => readK 0x10D f .cntrd rfl rfl (by decide) (by decide) (fun _ => rfl)

theorem maprd (f : KForm) : Statement (.maprd f) :=
  fun _ => readK 0x10E f .maprd rfl rfl (by decide) (by decide) (fun _ => rfl)

theorem lds32 (f : RForm) : Statement (.lds32 f) :=
  fun _ => readR 0x140 f .lds32 rfl rfl (by decide) (by decide) (fun _ => rfl)

theorem lds64 (f : RForm) : Statement (.lds64 f) :=
  fun _ => readR 0x141 f .lds64 rfl rfl (by decide) (by decide) (fun _ => rfl)

theorem lds128 (f : RForm) : Statement (.lds128 f) :=
  fun _ => readR 0x142 f .lds128 rfl rfl (by decide) (by decide) (fun _ => rfl)

theorem sts32 (f : RForm) : Statement (.sts32 f) :=
  fun _ => readR 0x144 f .sts32 rfl rfl (by decide) (by decide) (fun _ => rfl)

theorem sts64 (f : RForm) : Statement (.sts64 f) :=
  fun _ => readR 0x145 f .sts64 rfl rfl (by decide) (by decide) (fun _ => rfl)

theorem sts128 (f : RForm) : Statement (.sts128 f) :=
  fun _ => readR 0x146 f .sts128 rfl rfl (by decide) (by decide) (fun _ => rfl)

theorem ldg32 (f : RForm) : Statement (.ldg32 f) :=
  fun _ => readR 0x148 f .ldg32 rfl rfl (by decide) (by decide) (fun _ => rfl)

theorem ldg64 (f : RForm) : Statement (.ldg64 f) :=
  fun _ => readR 0x149 f .ldg64 rfl rfl (by decide) (by decide) (fun _ => rfl)

theorem ldg128 (f : RForm) : Statement (.ldg128 f) :=
  fun _ => readR 0x14A f .ldg128 rfl rfl (by decide) (by decide) (fun _ => rfl)

theorem stg32 (f : RForm) : Statement (.stg32 f) :=
  fun _ => readR 0x14C f .stg32 rfl rfl (by decide) (by decide) (fun _ => rfl)

theorem stg64 (f : RForm) : Statement (.stg64 f) :=
  fun _ => readR 0x14D f .stg64 rfl rfl (by decide) (by decide) (fun _ => rfl)

theorem stg128 (f : RForm) : Statement (.stg128 f) :=
  fun _ => readR 0x14E f .stg128 rfl rfl (by decide) (by decide) (fun _ => rfl)

theorem fenceAcq (f : RForm) : Statement (.fenceAcq f) :=
  fun _ => readR 0x150 f .fenceAcq rfl rfl (by decide) (by decide) (fun _ => rfl)

theorem fenceRel (f : RForm) : Statement (.fenceRel f) :=
  fun _ => readR 0x151 f .fenceRel rfl rfl (by decide) (by decide) (fun _ => rfl)

theorem fenceAr (f : RForm) : Statement (.fenceAr f) :=
  fun _ => readR 0x152 f .fenceAr rfl rfl (by decide) (by decide) (fun _ => rfl)

theorem flushq (f : RForm) : Statement (.flushq f) :=
  fun _ => readR 0x153 f .flushq rfl rfl (by decide) (by decide) (fun _ => rfl)

theorem bari (f : RForm) : Statement (.bari f) :=
  fun _ => readR 0x158 f .bari rfl rfl (by decide) (by decide) (fun _ => rfl)

theorem bara (f : RForm) : Statement (.bara f) :=
  fun _ => readR 0x159 f .bara rfl rfl (by decide) (by decide) (fun _ => rfl)

theorem barw (f : RForm) : Statement (.barw f) :=
  fun _ => readR 0x15A f .barw rfl rfl (by decide) (by decide) (fun _ => rfl)

theorem baraw (f : RForm) : Statement (.baraw f) :=
  fun _ => readR 0x15B f .baraw rfl rfl (by decide) (by decide) (fun _ => rfl)

theorem tbar (f : RForm) : Statement (.tbar f) :=
  fun _ => readR 0x15C f .tbar rfl rfl (by decide) (by decide) (fun _ => rfl)

theorem tri (f : RForm) : Statement (.tri f) :=
  fun _ => readR 0x160 f .tri rfl rfl (by decide) (by decide) (fun _ => rfl)

theorem trc (f : RForm) : Statement (.trc f) :=
  fun _ => readR 0x161 f .trc rfl rfl (by decide) (by decide) (fun _ => rfl)

theorem trf (f : RForm) : Statement (.trf f) :=
  fun _ => readR 0x162 f .trf rfl rfl (by decide) (by decide) (fun _ => rfl)

theorem trw (f : RForm) : Statement (.trw f) :=
  fun _ => readR 0x163 f .trw rfl rfl (by decide) (by decide) (fun _ => rfl)

theorem trr (f : RForm) : Statement (.trr f) :=
  fun _ => readR 0x164 f .trr rfl rfl (by decide) (by decide) (fun _ => rfl)

theorem tro (f : RForm) : Statement (.tro f) :=
  fun _ => readR 0x165 f .tro rfl rfl (by decide) (by decide) (fun _ => rfl)

theorem trv (f : RForm) : Statement (.trv f) :=
  fun _ => readR 0x166 f .trv rfl rfl (by decide) (by decide) (fun _ => rfl)

theorem trq (f : RForm) : Statement (.trq f) :=
  fun _ => readR 0x167 f .trq rfl rfl (by decide) (by decide) (fun _ => rfl)

theorem tcopy (f : RForm) : Statement (.tcopy f) :=
  fun _ => readR 0x168 f .tcopy rfl rfl (by decide) (by decide) (fun _ => rfl)

theorem tcopyv (f : RForm) : Statement (.tcopyv f) :=
  fun _ => readR 0x169 f .tcopyv rfl rfl (by decide) (by decide) (fun _ => rfl)

theorem tset (f : RForm) : Statement (.tset f) :=
  fun _ => readR 0x16A f .tset rfl rfl (by decide) (by decide) (fun _ => rfl)

theorem tget (f : RForm) : Statement (.tget f) :=
  fun _ => readR 0x16B f .tget rfl rfl (by decide) (by decide) (fun _ => rfl)

theorem slrun (f : RForm) : Statement (.slrun f) :=
  fun _ => readR 0x170 f .slrun rfl rfl (by decide) (by decide) (fun _ => rfl)

theorem stail (f : RForm) : Statement (.stail f) :=
  fun _ => readR 0x171 f .stail rfl rfl (by decide) (by decide) (fun _ => rfl)

theorem slseq (f : RForm) : Statement (.slseq f) :=
  fun _ => readR 0x172 f .slseq rfl rfl (by decide) (by decide) (fun _ => rfl)

theorem atmUnp (op : AtmOp) (f : RForm) : Statement (.atmUnp op f) :=
  fun _ => readA 0 op f .atmUnp rfl rfl (by decide) (by cases op <;> rfl) rfl

theorem atmCom (op : AtmOp) (f : RForm) : Statement (.atmCom op f) :=
  fun h => readA 1 op f .atmCom rfl rfl (by decide)
    (by simp only [Instr.wellFormed, Instr.atmOk, Bool.and_eq_true, Bool.not_eq_true'] at h; exact h.1.1.2) rfl

theorem atmNor (op : AtmOp) (f : RForm) : Statement (.atmNor op f) :=
  fun _ => readA 2 op f .atmNor rfl rfl (by decide) (by cases op <;> rfl) rfl

theorem atmQnt (op : AtmOp) (f : RForm) : Statement (.atmQnt op f) :=
  fun h => readA 3 op f .atmQnt rfl rfl (by decide)
    (by simp only [Instr.wellFormed, Instr.atmOk, Bool.and_eq_true, Bool.not_eq_true'] at h; exact h.1.1.2) rfl

theorem atmSpc (op : AtmOp) (f : RForm) : Statement (.atmSpc op f) :=
  fun h => readA 4 op f .atmSpc rfl rfl (by decide)
    (by simp only [Instr.wellFormed, Instr.atmOk, Bool.and_eq_true, Bool.not_eq_true'] at h; exact h.1.1.2) rfl

theorem atmAcq (op : AtmOp) (f : RForm) : Statement (.atmAcq op f) :=
  fun _ => readA 5 op f .atmAcq rfl rfl (by decide) (by cases op <;> rfl) rfl

theorem atmRel (op : AtmOp) (f : RForm) : Statement (.atmRel op f) :=
  fun _ => readA 6 op f .atmRel rfl rfl (by decide) (by cases op <;> rfl) rfl

theorem atmAr (op : AtmOp) (f : RForm) : Statement (.atmAr op f) :=
  fun _ => readA 7 op f .atmAr rfl rfl (by decide) (by cases op <;> rfl) rfl

theorem mshape (f : RForm) : Statement (.mshape f) :=
  fun _ => readR 0x1C0 f .mshape rfl rfl (by decide) (by decide) (fun _ => rfl)

theorem mwl (f : RForm) : Statement (.mwl f) :=
  fun _ => readR 0x1C1 f .mwl rfl rfl (by decide) (by decide) (fun _ => rfl)

theorem mswap (f : RForm) : Statement (.mswap f) :=
  fun _ => readR 0x1C2 f .mswap rfl rfl (by decide) (by decide) (fun _ => rfl)

theorem mstr (f : RForm) : Statement (.mstr f) :=
  fun _ => readR 0x1C3 f .mstr rfl rfl (by decide) (by decide) (fun _ => rfl)

theorem mdrn (f : RForm) : Statement (.mdrn f) :=
  fun _ => readR 0x1C4 f .mdrn rfl rfl (by decide) (by decide) (fun _ => rfl)

theorem mclr (f : RForm) : Statement (.mclr f) :=
  fun _ => readR 0x1C5 f .mclr rfl rfl (by decide) (by decide) (fun _ => rfl)

theorem mscl (f : RForm) : Statement (.mscl f) :=
  fun _ => readR 0x1C6 f .mscl rfl rfl (by decide) (by decide) (fun _ => rfl)

theorem mwait (f : RForm) : Statement (.mwait f) :=
  fun _ => readR 0x1C7 f .mwait rfl rfl (by decide) (by decide) (fun _ => rfl)

theorem clid (f : RForm) : Statement (.clid f) :=
  fun _ => readR 0x1D0 f .clid rfl rfl (by decide) (by decide) (fun _ => rfl)

theorem aqst (f : RForm) : Statement (.aqst f) :=
  fun _ => readR 0x1D1 f .aqst rfl rfl (by decide) (by decide) (fun _ => rfl)

theorem launch (f : RForm) : Statement (.launch f) :=
  fun _ => readR 0x1E0 f .launch rfl rfl (by decide) (by decide) (fun _ => rfl)

theorem lwait (f : RForm) : Statement (.lwait f) :=
  fun _ => readR 0x1E1 f .lwait rfl rfl (by decide) (by decide) (fun _ => rfl)

theorem mapack (f : RForm) : Statement (.mapack f) :=
  fun _ => readR 0x1E2 f .mapack rfl rfl (by decide) (by decide) (fun _ => rfl)

theorem rtt (f : RForm) : Statement (.rtt f) :=
  fun _ => readR 0x1F0 f .rtt rfl rfl (by decide) (by decide) (fun _ => rfl)

theorem pfmap (f : RForm) : Statement (.pfmap f) :=
  fun _ => readR 0x1F1 f .pfmap rfl rfl (by decide) (by decide) (fun _ => rfl)

theorem tlbi (f : RForm) : Statement (.tlbi f) :=
  fun _ => readR 0x1F2 f .tlbi rfl rfl (by decide) (by decide) (fun _ => rfl)

theorem errrd (f : RForm) : Statement (.errrd f) :=
  fun _ => readR 0x1F3 f .errrd rfl rfl (by decide) (by decide) (fun _ => rfl)

theorem kill (f : RForm) : Statement (.kill f) :=
  fun _ => readR 0x1F4 f .kill rfl rfl (by decide) (by decide) (fun _ => rfl)

theorem br (off : BitVec 22) : Statement (.br off) :=
  fun _ => readB 0x200 off .br rfl rfl (by decide) (by decide) (fun _ => rfl)

theorem call (off : BitVec 22) : Statement (.call off) :=
  fun _ => readB 0x201 off .call rfl rfl (by decide) (by decide) (fun _ => rfl)

theorem lpe (off : BitVec 22) : Statement (.lpe off) :=
  fun _ => readB 0x202 off .lpe rfl rfl (by decide) (by decide) (fun _ => rfl)

theorem sfetch (f : BoxForm) : Statement (.sfetch f) := fun _ => readBox 0x300 f .sfetch rfl rfl (by decide)
  (fun w x h => by simp only [decodeStream, h])

theorem sstore (f : BoxForm) : Statement (.sstore f) := fun _ => readBox 0x301 f .sstore rfl rfl (by decide)
  (fun w x h => by simp only [decodeStream, h])

theorem sloop (t : BitVec 16) (r : BitVec 6) : Statement (.sloop t r) := fun _ => by
  have h0 := t.isLt
  have h1 := r.isLt
  show decodeStream _ 0 0 = _
  refine readS 0x302 (t.toNat * 2 ^ 6 + r.toNat) 0 0 _ (by omega) (by decide) fun w h hw => ?_
  simp only [decodeStream, h]
  rw [ofNat_field _ 16 6 t (by rw [hw]; omega), ofNat_low _ 6 r (by rw [hw]; omega)]

theorem snext (r : BitVec 22) : Statement (.snext r) := fun _ => by
  have h0 := r.isLt
  show decodeStream _ 0 0 = _
  refine readS 0x303 (r.toNat) 0 0 _ (by omega) (by decide) fun w h hw => ?_
  simp only [decodeStream, h]
  rw [ofNat_low _ 22 r (by rw [hw]; omega)]

theorem sadv (c : BitVec 3) (t : BitVec 19) : Statement (.sadv c t) := fun _ => by
  have h0 := c.isLt
  have h1 := t.isLt
  show decodeStream _ 0 0 = _
  refine readS 0x304 (c.toNat * 2 ^ 19 + t.toNat) 0 0 _ (by omega) (by decide) fun w h hw => ?_
  simp only [decodeStream, h]
  rw [ofNat_field _ 3 19 c (by rw [hw]; omega), ofNat_low _ 19 t (by rw [hw]; omega)]

theorem swaitf (r : BitVec 22) : Statement (.swaitf r) := fun _ => by
  have h0 := r.isLt
  show decodeStream _ 0 0 = _
  refine readS 0x305 (r.toNat) 0 0 _ (by omega) (by decide) fun w h hw => ?_
  simp only [decodeStream, h]
  rw [ofNat_low _ 22 r (by rw [hw]; omega)]

theorem sacq (r : BitVec 20) (c : BitVec 2) : Statement (.sacq r c) := fun _ => by
  have h0 := r.isLt
  have h1 := c.isLt
  show decodeStream _ 0 0 = _
  refine readS 0x306 (r.toNat * 4 + c.toNat) 0 0 _ (by omega) (by decide) fun w h hw => ?_
  simp only [decodeStream, h]
  rw [show w.toNat / 4 = w.toNat / 2 ^ 2 from rfl, ofNat_field _ 20 2 r (by rw [hw]; omega), ofNat_low _ 2 c (by rw [hw]; omega)]

theorem srel (r : BitVec 20) (c : BitVec 2) : Statement (.srel r c) := fun _ => by
  have h0 := r.isLt
  have h1 := c.isLt
  show decodeStream _ 0 0 = _
  refine readS 0x307 (r.toNat * 4 + c.toNat) 0 0 _ (by omega) (by decide) fun w h hw => ?_
  simp only [decodeStream, h]
  rw [show w.toNat / 4 = w.toNat / 2 ^ 2 from rfl, ofNat_field _ 20 2 r (by rw [hw]; omega), ofNat_low _ 2 c (by rw [hw]; omega)]

theorem sseq (r : BitVec 22) : Statement (.sseq r) := fun _ => by
  have h0 := r.isLt
  show decodeStream _ 0 0 = _
  refine readS 0x308 (r.toNat) 0 0 _ (by omega) (by decide) fun w h hw => ?_
  simp only [decodeStream, h]
  rw [ofNat_low _ 22 r (by rw [hw]; omega)]

theorem slink (r : BitVec 22) (x y : Word) : Statement (.slink r x y) := fun _ => by
  have h0 := r.isLt
  show decodeStream _ x y = _
  refine readS 0x309 (r.toNat) x y _ (by omega) (by decide) fun w h hw => ?_
  simp only [decodeStream, h]
  rw [ofNat_low _ 22 r (by rw [hw]; omega)]

theorem shalt (r : BitVec 22) : Statement (.shalt r) := fun _ => by
  have h0 := r.isLt
  show decodeStream _ 0 0 = _
  refine readS 0x30A (r.toNat) 0 0 _ (by omega) (by decide) fun w h hw => ?_
  simp only [decodeStream, h]
  rw [ofNat_low _ 22 r (by rw [hw]; omega)]

theorem sset (c : BitVec 3) (r : BitVec 19) (v : Word) : Statement (.sset c r v) := fun _ => by
  have h0 := c.isLt
  have h1 := r.isLt
  show decodeStream _ v 0 = _
  refine readS 0x30B (c.toNat * 2 ^ 19 + r.toNat) v 0 _ (by omega) (by decide) fun w h hw => ?_
  simp only [decodeStream, h]
  rw [ofNat_field _ 3 19 c (by rw [hw]; omega), ofNat_low _ 19 r (by rw [hw]; omega)]

theorem engineCopy : ∀ x0, Statement (.engineCopy x0) := by intros; exact fun _ => rfl

theorem engineWaitEnd : ∀ x0 x1, Statement (.engineWaitEnd x0 x1) := by intros; exact fun _ => rfl

theorem lineFill : ∀ x0 x1, Statement (.lineFill x0 x1) := by intros; exact fun _ => rfl

theorem splitReady : ∀ x0 x1, Statement (.splitReady x0 x1) := by intros; exact fun _ => rfl

theorem limitWait : ∀ x0, Statement (.limitWait x0) := by intros; exact fun _ => rfl

theorem asyncTrapDelivery : ∀ x0, Statement (.asyncTrapDelivery x0) := by intros; exact fun _ => rfl

theorem gangForm : ∀ x0 x1 x2, Statement (.gangForm x0 x1 x2) := by intros; exact fun _ => rfl

theorem preEmption : ∀ x0 x1, Statement (.preEmption x0 x1) := by intros; exact fun _ => rfl

theorem gangResume : ∀ x0 x1, Statement (.gangResume x0 x1) := by intros; exact fun _ => rfl

theorem gridComplete : ∀ x0, Statement (.gridComplete x0) := by intros; exact fun _ => rfl

theorem packetArrival : ∀ x0, Statement (.packetArrival x0) := by intros; exact fun _ => rfl

theorem admission : ∀ x0 x1, Statement (.admission x0 x1) := by intros; exact fun _ => rfl

theorem queueStart : ∀ x0 x1 x2, Statement (.queueStart x0 x1 x2) := by intros; exact fun _ => rfl

theorem queueComplete : ∀ x0 x1, Statement (.queueComplete x0 x1) := by intros; exact fun _ => rfl

theorem queueFault : ∀ x0 x1, Statement (.queueFault x0 x1) := by intros; exact fun _ => rfl

theorem bandGate : ∀ x0 x1, Statement (.bandGate x0 x1) := by intros; exact fun _ => rfl

theorem narrowedMode : ∀ x0 x1, Statement (.narrowedMode x0 x1) := by intros; exact fun _ => rfl

theorem cadenceChange : ∀ x0 x1, Statement (.cadenceChange x0 x1) := by intros; exact fun _ => rfl

theorem ballastRow : ∀ x0 x1, Statement (.ballastRow x0 x1) := by intros; exact fun _ => rfl

theorem railVoteLapse : ∀ x0 x1, Statement (.railVoteLapse x0 x1) := by intros; exact fun _ => rfl

theorem energyRefresh : ∀ x0 x1, Statement (.energyRefresh x0 x1) := by intros; exact fun _ => rfl

theorem breach : ∀ x0 x1 x2 x3, Statement (.breach x0 x1 x2 x3) := by intros; exact fun _ => rfl

theorem quoteLapse : ∀ x0, Statement (.quoteLapse x0) := by intros; exact fun _ => rfl

theorem watchdog : ∀ x0, Statement (.watchdog x0) := by intros; exact fun _ => rfl

theorem mapAckLate : ∀ x0, Statement (.mapAckLate x0) := by intros; exact fun _ => rfl

theorem mapPublish : ∀ x0, Statement (.mapPublish x0) := by intros; exact fun _ => rfl

theorem patrolScrub : ∀ x0, Statement (.patrolScrub x0) := by intros; exact fun _ => rfl

theorem demotion : ∀ x0 x1, Statement (.demotion x0 x1) := by intros; exact fun _ => rfl

theorem migrationDone : ∀ x0 x1 x2, Statement (.migrationDone x0 x1 x2) := by intros; exact fun _ => rfl

theorem scan : ∀ x0, Statement (.scan x0) := by intros; exact fun _ => rfl

theorem scanPass : ∀ x0, Statement (.scanPass x0) := by intros; exact fun _ => rfl

theorem scanFail : ∀ x0, Statement (.scanFail x0) := by intros; exact fun _ => rfl

theorem linkStateChange : ∀ x0 x1, Statement (.linkStateChange x0 x1) := by intros; exact fun _ => rfl

theorem peerLost : ∀ x0, Statement (.peerLost x0) := by intros; exact fun _ => rfl

theorem peerAccess : ∀ x0, Statement (.peerAccess x0) := by intros; exact fun _ => rfl

theorem sqtail : ∀ x0 x1, Statement (.sqtail x0 x1) := by intros; exact fun _ => rfl

theorem cqack : ∀ x0 x1, Statement (.cqack x0 x1) := by intros; exact fun _ => rfl

theorem qstat : ∀ x0 x1, Statement (.qstat x0 x1) := by intros; exact fun _ => rfl

theorem qcfg : ∀ x0 x1, Statement (.qcfg x0 x1) := by intros; exact fun _ => rfl

theorem qpasid : ∀ x0 x1, Statement (.qpasid x0 x1) := by intros; exact fun _ => rfl

theorem fnpart : ∀ x0 x1, Statement (.fnpart x0 x1) := by intros; exact fun _ => rfl

theorem peerclr : ∀ x0, Statement (.peerclr x0) := by intros; exact fun _ => rfl

theorem pwrvote : ∀ x0 x1, Statement (.pwrvote x0 x1) := by intros; exact fun _ => rfl

theorem bandidle : ∀ x0, Statement (.bandidle x0) := by intros; exact fun _ => rfl

theorem partitionRegisters : ∀ x0 x1 x2, Statement (.partitionRegisters x0 x1 x2) := by intros; exact fun _ => rfl

theorem registerWrite : ∀ x0 x1, Statement (.registerWrite x0 x1) := by intros; exact fun _ => rfl

theorem interruptDelay : ∀ x0, Statement (.interruptDelay x0) := by intros; exact fun _ => rfl

theorem quote : ∀ x0, Statement (.quote x0) := by intros; exact fun _ => rfl

theorem quoted : ∀ x0 x1, Statement (.quoted x0 x1) := by intros; exact fun _ => rfl

theorem accept : ∀ x0, Statement (.accept x0) := by intros; exact fun _ => rfl

theorem decline : ∀ x0, Statement (.decline x0) := by intros; exact fun _ => rfl

theorem launchPacket : ∀ x0, Statement (.launchPacket x0) := by intros; exact fun _ => rfl

theorem mapackPacket : ∀ x0, Statement (.mapackPacket x0) := by intros; exact fun _ => rfl

theorem halt : ∀ x0, Statement (.halt x0) := by intros; exact fun _ => rfl

theorem haltAbort : ∀ x0, Statement (.haltAbort x0) := by intros; exact fun _ => rfl

theorem resume : ∀ x0, Statement (.resume x0) := by intros; exact fun _ => rfl

theorem record : ∀ x0, Statement (.record x0) := by intros; exact fun _ => rfl

theorem context : ∀ x0, Statement (.context x0) := by intros; exact fun _ => rfl

theorem pool : ∀ x0, Statement (.pool x0) := by intros; exact fun _ => rfl

theorem egreg : ∀ x0, Statement (.egreg x0) := by intros; exact fun _ => rfl

theorem egack : ∀ x0, Statement (.egack x0) := by intros; exact fun _ => rfl

theorem egress : ∀ x0, Statement (.egress x0) := by intros; exact fun _ => rfl

theorem flr : ∀ x0, Statement (.flr x0) := by intros; exact fun _ => rfl

theorem pasidStop : ∀ x0, Statement (.pasidStop x0) := by intros; exact fun _ => rfl

theorem atsInvalidation : ∀ x0 x1 x2, Statement (.atsInvalidation x0 x1 x2) := by intros; exact fun _ => rfl

theorem boot : ∀ x0, Statement (.boot x0) := by intros; exact fun _ => rfl

theorem getVersion : ∀ x0, Statement (.getVersion x0) := by intros; exact fun _ => rfl

theorem getCapabilities : ∀ x0, Statement (.getCapabilities x0) := by intros; exact fun _ => rfl

theorem negotiateAlgorithms : ∀ x0, Statement (.negotiateAlgorithms x0) := by intros; exact fun _ => rfl

theorem getDigests : ∀ x0, Statement (.getDigests x0) := by intros; exact fun _ => rfl

theorem getCertificate : ∀ x0, Statement (.getCertificate x0) := by intros; exact fun _ => rfl

theorem challenge : ∀ x0, Statement (.challenge x0) := by intros; exact fun _ => rfl

theorem getMeasurements : ∀ x0, Statement (.getMeasurements x0) := by intros; exact fun _ => rfl

theorem keyExchange : ∀ x0, Statement (.keyExchange x0) := by intros; exact fun _ => rfl

theorem finish : ∀ x0, Statement (.finish x0) := by intros; exact fun _ => rfl

theorem tdispProtocol : ∀ x0 x1, Statement (.tdispProtocol x0 x1) := by intros; exact fun _ => rfl

end Sys2Proof.Laws.Encoding
end

