-- ==== Sys2Proof/Laws/Registers.lean ====
section
/-! SUPPORT. What reading and writing registers, latches and flags of the issuing party comes to, and the end of an instruction that
has changed no more than these. -/
namespace Sys2Proof.Machine

/-- An operand's value depends on the registers, the latches and the party's place, and on nothing else. -/
theorem Ex.rd_congr {x y : Ex} (hl : y.sp.latches = x.sp.latches) (hgh : y.sp.ghost = x.sp.ghost) (hv : y.g.v = x.g.v) (hs : y.g.s = x.g.s) (hp : y.g.p = x.g.p)
    (hsv : y.g.sv = x.g.sv) (hss : y.g.ss = x.g.ss) (hsup : y.g.saved.isSome = x.g.saved.isSome) (hgrp : y.g.grp = x.g.grp)
    (hteam : y.g.team = x.g.team) (hmcc : y.g.mcc = x.g.mcc) (hgang : y.gang = x.gang) (hgrid : y.grid = x.grid)
    (o : Operand) (l : Nat) : y.rd o l = x.rd o l := by
  cases o <;>
    simp [Ex.rd, Ex.vreg, Ex.vbank, Ex.sreg, Ex.banked, hgh, Ex.sup, Group.pred, hl, hv, hs, hp, hsv, hss, hsup, hgrp, hteam, hmcc, hgang, hgrid]

theorem Ex.isAbsent_congr {x y : Ex} (ha : y.g.absent = x.g.absent) (hsup : y.g.saved.isSome = x.g.saved.isSome) (o : Operand) :
    y.isAbsent o = x.isAbsent o := by
  cases o <;> simp [Ex.isAbsent, Ex.inBank, Ex.banked, Ex.sup, ha, hsup]

/-- The party `y` holds what `x` held but for registers, flags, generators and latches: an instruction on its way. -/
structure Ex.Alike (x y : Ex) : Prop where
  s : y.s = x.s
  gid : y.gid = x.gid
  mate : y.mate = x.mate
  g : y.g = { x.g with v := y.g.v, s := y.g.s, p := y.g.p, sv := y.g.sv, ss := y.g.ss, absent := y.g.absent, fpx := y.g.fpx,
                       rngs := y.g.rngs, ueLane := y.g.ueLane }
  sp : y.sp = { x.sp with latches := y.sp.latches }

theorem Ex.Alike.refl (x : Ex) : x.Alike x := ⟨rfl, rfl, rfl, rfl, rfl⟩

theorem Ex.Alike.trans {x y z : Ex} (h : x.Alike y) (k : y.Alike z) : x.Alike z where
  s := k.s.trans h.s
  gid := k.gid.trans h.gid
  mate := k.mate.trans h.mate
  g := by rw [k.g, h.g]
  sp := by rw [k.sp, h.sp]

theorem Ex.present_alike (x : Ex) (o : Operand) : x.Alike (x.present o) := by
  unfold Ex.present
  split
  · exact .refl x
  · exact ⟨rfl, rfl, rfl, rfl, rfl⟩

theorem Ex.wrV_alike (x : Ex) (n : Nat) (m : Word) (f : Nat → Word) : x.Alike (x.wrV n m f) := by
  unfold Ex.wrV
  split
  · exact .refl x
  · dsimp only
    split
    · exact (x.present_alike (.ofNat n)).trans ⟨rfl, rfl, rfl, rfl, rfl⟩
    · split
      · exact .refl x
      · exact (x.present_alike (.ofNat n)).trans ⟨rfl, rfl, rfl, rfl, rfl⟩

theorem Ex.wrS_alike (x : Ex) (n : Nat) (w : Word) : x.Alike (x.wrS n w) := by
  unfold Ex.wrS
  refine (x.present_alike (.ofNat (64 + n))).trans ?_
  dsimp only
  split <;> exact ⟨rfl, rfl, rfl, rfl, rfl⟩

theorem Ex.wrP_alike (x : Ex) (n : Nat) (m : Word) (f : Nat → Bool) : x.Alike (x.wrP n m f) := by
  unfold Ex.wrP
  split
  · exact .refl x
  · exact (x.present_alike (.ofNat (100 + n))).trans ⟨rfl, rfl, rfl, rfl, rfl⟩

theorem Ex.wr_alike (x : Ex) (nw : Bool) (d : Operand) (w : Word) : x.Alike (x.wr nw d w) := by
  unfold Ex.wr
  split
  · exact .refl x
  · split
    · exact x.wrS_alike _ _
    · exact .refl x

theorem Ex.latch_alike (x : Ex) (f : Nat → Word) : x.Alike (x.latch f) := ⟨rfl, rfl, rfl, rfl, rfl⟩

theorem Ex.flag_alike (x : Ex) (fl : Nat) : x.Alike (x.flag fl) := ⟨rfl, rfl, rfl, rfl, rfl⟩

theorem Ex.setRng_alike (x : Ex) (m : Word) (f : Nat → Nat) : x.Alike (x.setRng m f) := ⟨rfl, rfl, rfl, rfl, rfl⟩

theorem Operand.toNat_injective {o p : Operand} (h : o.toNat = p.toNat) : o = p := by
  have key : ∀ q : Operand, Operand.ofNat q.toNat = q := by
    intro q
    cases q with
    | vreg n => revert n; decide
    | sreg n => revert n; decide
    | latch n => revert n; decide
    | preg n => revert n; decide
    | reserved n => revert n; decide
    | _ => rfl
  rw [← key o, ← key p, h]

/-- Marking a register present changes no register's content. -/
theorem Ex.rd_present (x : Ex) (d o : Operand) (l : Nat) : (x.present d).rd o l = x.rd o l := by
  unfold Ex.present
  split
  · rfl
  · exact Ex.rd_congr rfl rfl rfl rfl rfl rfl rfl rfl rfl rfl rfl rfl rfl o l

theorem contains_filter_ne (l : List Nat) (a b : Nat) : (l.filter (· != b)).contains a = (l.contains a && a != b) := by
  induction l with
  | nil => rfl
  | cons c t ih =>
    by_cases hc : c = b
    · subst hc
      rw [List.filter_cons_of_neg (by simp), ih]
      by_cases ha : a = c <;> simp [ha]
    · rw [List.filter_cons_of_pos (by simpa using hc), List.contains_cons, List.contains_cons, ih]
      by_cases ha : a = c
      · subst ha
        have h : (a != b) = true := by simpa using hc
        simp [h]
      · have h : (a == c) = false := beq_false_of_ne ha
        rw [h, Bool.false_or, Bool.false_or]

theorem Ex.isAbsent_present (x : Ex) (d o : Operand) : (x.present d).isAbsent o = (x.isAbsent o && o != d) := by
  unfold Ex.present
  by_cases hb : x.inBank d = true
  · rw [if_pos hb]
    by_cases ho : o = d
    · subst ho; simp [Ex.isAbsent, hb]
    · simp [ho]
  · rw [if_neg hb]
    have hin : ({ x with g := { x.g with absent := x.g.absent.filter (· != d.toNat) } } : Ex).inBank o = x.inBank o := by
      cases o <;> rfl
    unfold Ex.isAbsent
    rw [hin]
    dsimp only
    rw [contains_filter_ne]
    by_cases ho : o = d
    · subst ho; simp
    · have hne : o.toNat ≠ d.toNat := fun h => ho (Operand.toNat_injective h)
      have h1 : (o.toNat != d.toNat) = true := by simpa using hne
      have h2 : (o != d) = true := by simpa using ho
      rw [h1, h2, Bool.and_true, Bool.and_true]

theorem Operand.ofNat_vreg (n : Fin 64) : Operand.ofNat n.val = .vreg n := by revert n; decide
theorem Operand.ofNat_sreg (n : Fin 32) : Operand.ofNat (64 + n.val) = .sreg n := by revert n; decide
theorem Operand.ofNat_preg (n : Fin 8) : Operand.ofNat (100 + n.val) = .preg n := by revert n; decide

/-- A vector register after a write of some of its lanes: those lanes hold the values written, and the others what they held, or 0 in
a register that was absent (R290). -/
theorem Ex.rd_wrV (x : Ex) (n : Fin 64) (m : Word) (f : Nat → Word) (l : Nat) (hl : l < 32) (hgh : x.sp.ghost = []) :
    (x.wrV n.val m f).rd (.vreg n) l
      = if Word.has m l then f l else if m ≠ 0 ∧ x.isAbsent (.vreg n) = true then 0 else x.rd (.vreg n) l := by
  unfold Ex.wrV
  by_cases hm : m = 0
  · subst hm; simp [Word.has]
  · rw [if_neg hm]
    have hno : ¬ (32 ≤ n.val ∧ (Tab.find x.sp.ghost (n.val / 16 - 2)).isSome = true) := by simp [hgh, Tab.find]
    simp only [Operand.ofNat_vreg, hno, if_false]
    have hbank : (x.present (.vreg n)).banked n.val = x.banked n.val := by
      unfold Ex.banked Ex.sup Ex.present; split <;> rfl
    have hgp : (x.present (.vreg n)).sp.ghost = [] := by rw [← hgh]; unfold Ex.present; split <;> rfl
    have hv : ∀ (w : Lanes) (u : List (Nat × Nat)), (if x.banked n.val then
          { x.present (.vreg n) with g := { (x.present (.vreg n)).g with sv := Tab.put (x.present (.vreg n)).g.sv n.val w } }
        else { x.present (.vreg n) with g := { (x.present (.vreg n)).g with v := Tab.put (x.present (.vreg n)).g.v n.val w,
                                                                              ueLane := u } }).rd (.vreg n) l
        = w.at l := by
      intro w u
      by_cases hb : x.banked n.val = true
      · rw [if_pos hb]
        have : ({ x.present (.vreg n) with g := { (x.present (.vreg n)).g with
            sv := Tab.put (x.present (.vreg n)).g.sv n.val w } } : Ex).banked n.val = true := by rw [← hb, ← hbank]; rfl
        simp only [Ex.rd, Ex.vreg, Ex.vbank, this, if_true, Tab.read_put_self]
      · rw [if_neg hb]
        have : ({ x.present (.vreg n) with g := { (x.present (.vreg n)).g with
            v := Tab.put (x.present (.vreg n)).g.v n.val w, ueLane := u } } : Ex).banked n.val = false := by
          rw [Bool.not_eq_true] at hb; rw [← hb, ← hbank]; rfl
        simp only [Ex.rd, Ex.vreg, Ex.vbank, this, hgp, Tab.find, ite_self, Bool.false_eq_true, if_false, Tab.read_put_self]
    rw [hv, lanesOf_at _ _ hl]
    by_cases hh : Word.has m l = true
    · simp [hh]
    · simp only [hh, Bool.false_eq_true, if_false, hm, not_false_iff, true_and, ne_eq]
      by_cases ha : x.isAbsent (.vreg n) = true
      · simp [ha, Lanes.at]
      · simp [ha, Ex.rd]

/-- Two banks that read alike at a register read alike through the choice between the supervisor's, a released window's and the group's. -/
theorem bankRead_congr {k l : Nat} (b : Bool) (o : Option (Tab Lanes)) {A A' B B' : Tab Lanes} (hA : Tab.read A k [] = Tab.read A' k [])
    (hB : Tab.read B k [] = Tab.read B' k []) :
    (Tab.read (if b then A else match o with | some t => t | none => B) k []).at l
      = (Tab.read (if b then A' else match o with | some t => t | none => B') k []).at l := by
  cases b <;> cases o <;> simp [hA, hB]

/-- A write of a vector register leaves every other operand as it was. -/
theorem Ex.rd_wrV_of_ne (x : Ex) (n : Fin 64) (m : Word) (f : Nat → Word) (o : Operand) (l : Nat) (ho : o ≠ .vreg n) :
    (x.wrV n.val m f).rd o l = x.rd o l ∧ (x.wrV n.val m f).isAbsent o = x.isAbsent o := by
  unfold Ex.wrV
  by_cases hm : m = 0
  · rw [if_pos hm]; exact ⟨rfl, rfl⟩
  · rw [if_neg hm]
    simp only [Operand.ofNat_vreg]
    have hab : x.isAbsent o = (x.present (.vreg n)).isAbsent o := by
      rw [Ex.isAbsent_present]; simp [ho]
    have hrd := Ex.rd_present x (.vreg n) o l
    have hne : ∀ k : Fin 64, o = .vreg k → k.val ≠ n.val := fun k hk h => ho (by rw [hk, Fin.ext h])
    split
    · rw [← hrd, hab]
      generalize x.present (.vreg n) = y
      refine ⟨?_, Ex.isAbsent_congr rfl rfl o⟩
      cases o with
      | vreg k =>
        have h := hne k rfl
        exact bankRead_congr (y.banked k.val) _ (Tab.read_put_of_ne _ _ _ _ _ h) rfl
      | _ => rfl
    · split
      · exact ⟨rfl, rfl⟩
      · rw [← hrd, hab]
        generalize x.present (.vreg n) = y
        refine ⟨?_, Ex.isAbsent_congr rfl rfl o⟩
        cases o with
        | vreg k =>
          have h := hne k rfl
          exact bankRead_congr (y.banked k.val) _ rfl (Tab.read_put_of_ne _ _ _ _ _ h)
        | _ => rfl

/-- A scalar register after a write. -/
theorem Ex.rd_wrS (x : Ex) (n : Fin 32) (w : Word) (l : Nat) : (x.wrS n.val w).rd (.sreg n) l = w := by
  unfold Ex.wrS
  simp only [Operand.ofNat_sreg]
  have hbank : (x.present (.sreg n)).banked n.val = x.banked n.val := by
    unfold Ex.banked Ex.sup Ex.present; split <;> rfl
  split
  · rename_i hb
    show Tab.read (if (x.present (.sreg n)).banked n.val then Tab.put (x.present (.sreg n)).g.ss n.val w
      else (x.present (.sreg n)).g.s) n.val 0 = w
    rw [hbank, if_pos hb, Tab.read_put_self]
  · rename_i hb
    show Tab.read (if (x.present (.sreg n)).banked n.val then (x.present (.sreg n)).g.ss
      else Tab.put (x.present (.sreg n)).g.s n.val w) n.val 0 = w
    rw [hbank, if_neg hb, Tab.read_put_self]

/-- A write of a scalar register leaves every other operand as it was. -/
theorem Ex.rd_wrS_of_ne (x : Ex) (n : Fin 32) (w : Word) (o : Operand) (l : Nat) (ho : o ≠ .sreg n) :
    (x.wrS n.val w).rd o l = x.rd o l ∧ (x.wrS n.val w).isAbsent o = x.isAbsent o := by
  unfold Ex.wrS
  simp only [Operand.ofNat_sreg]
  rw [← Ex.rd_present x (.sreg n) o l]
  have hab : x.isAbsent o = (x.present (.sreg n)).isAbsent o := by
    rw [Ex.isAbsent_present]; simp [ho]
  rw [hab]
  generalize x.present (.sreg n) = y
  have hne : ∀ k : Fin 32, o = .sreg k → k.val ≠ n.val := fun k hk h => ho (by rw [hk, Fin.ext h])
  split
  · refine ⟨?_, Ex.isAbsent_congr rfl rfl o⟩
    cases o with
    | sreg k =>
      show Tab.read (if y.banked k.val then Tab.put y.g.ss n.val w else y.g.s) k.val 0
        = Tab.read (if y.banked k.val then y.g.ss else y.g.s) k.val 0
      split
      · rw [Tab.read_put_of_ne _ _ _ _ _ (hne k rfl)]
      · rfl
    | _ => rfl
  · refine ⟨?_, Ex.isAbsent_congr rfl rfl o⟩
    cases o with
    | sreg k =>
      show Tab.read (if y.banked k.val then y.g.ss else Tab.put y.g.s n.val w) k.val 0
        = Tab.read (if y.banked k.val then y.g.ss else y.g.s) k.val 0
      split
      · rfl
      · rw [Tab.read_put_of_ne _ _ _ _ _ (hne k rfl)]
    | _ => rfl

/-- A predicate register after a write of some of its lanes; `p7` cannot be written (R43). -/
theorem Ex.pred_wrP (x : Ex) (n : Fin 8) (m : Word) (f : Nat → Bool) (l : Nat) (hl : l < 32) (hn : n.val ≠ 7) :
    (x.wrP n.val m f).g.pred n.val l
      = if Word.has m l then f l else if m ≠ 0 ∧ x.isAbsent (.preg n) = true then false else x.g.pred n.val l := by
  unfold Ex.wrP
  by_cases hm : m = 0
  · subst hm; simp [Word.has]
  · rw [if_neg (fun h => h.elim hn hm)]
    simp only [Operand.ofNat_preg]
    simp only [Group.pred, hn, if_false, Tab.read_put_self, has_maskOf, hl, decide_true, Bool.true_and, hm, not_false_iff, true_and,
      ne_eq]
    by_cases hh : Word.has m l = true
    · simp [hh]
    · by_cases ha : x.isAbsent (.preg n) = true <;> simp [ha, Word.has]

/-- A write of a predicate register leaves every other operand as it was. -/
theorem Ex.rd_wrP_of_ne (x : Ex) (n : Fin 8) (m : Word) (f : Nat → Bool) (o : Operand) (l : Nat) (ho : o ≠ .preg n) :
    (x.wrP n.val m f).rd o l = x.rd o l ∧ (x.wrP n.val m f).isAbsent o = x.isAbsent o := by
  unfold Ex.wrP
  split
  · exact ⟨rfl, rfl⟩
  · simp only [Operand.ofNat_preg]
    rw [← Ex.rd_present x (.preg n) o l]
    have hab : x.isAbsent o = (x.present (.preg n)).isAbsent o := by
      rw [Ex.isAbsent_present]; simp [ho]
    rw [hab]
    generalize x.present (.preg n) = y
    have hne : ∀ k : Fin 8, o = .preg k → k.val ≠ n.val := fun k hk h => ho (by rw [hk, Fin.ext h])
    refine ⟨?_, Ex.isAbsent_congr rfl rfl o⟩
    cases o with
    | preg k =>
      simp only [Ex.rd, Group.pred]
      split
      · rfl
      · rw [Tab.read_put_of_ne _ _ _ _ _ (hne k rfl)]
    | _ => rfl

/-- Two changes of one split of a group: the last stands. -/
theorem Group.withSplit_withSplit (g : Group) (p q : Split) (h : q.entry = p.entry) :
    (g.withSplit p).withSplit q = g.withSplit q := by
  unfold Group.withSplit
  simp only [List.map_map, Group.mk.injEq, true_and, and_true]
  apply List.map_congr_left
  intro r _
  by_cases hr : r.entry = p.entry <;> simp [hr, h]

/-- What follows an instruction whose entry has left a party `y` that has neither trapped nor begun to wait: its state, the party's
group in it, the counters counted, and what the instruction leaves of its split. -/
theorem Ex.done {x y : Ex} {i : Instr} (hc : x.Calm) (hgid : y.gid = x.gid) (hm : y.mate = none) (he : y.sp.entry = x.sp.entry)
    (hin : (y.g.split? x.sp.entry).isSome = true) (hw : y.sp.wait = none) (hsv : y.g.saved.isSome = true → x.g.saved.isSome = true)
    (hq : y.g.trapq.length ≤ x.g.trapq.length) (hch : y.s.checked = false)
    (ha : y.g.mcc = true ∨ ∀ p ∈ (y.g.withSplit y.sp).splits, p.lanes &&& ~~~ y.g.dead ≠ 0) :
    ∃ c, x.finish i y.save
      = { y.s with counters := c, groups := Tab.put y.s.groups x.gid (y.g.withSplit (y.sp.over i)) } := by
  obtain ⟨q, hq'⟩ := Option.isSome_iff_exists.1 hin
  have hhome : y.home = y.g.withSplit y.sp := by unfold Ex.home Ex.housed; rw [hm]
  have hg : y.save.group x.gid = some (y.g.withSplit y.sp) := by
    unfold Ex.save; rw [hhome, hgid]; simp
  have hp : (y.g.withSplit y.sp).split? x.sp.entry = some y.sp := by
    rw [Group.split?_withSplit, if_pos he.symm, hq']; rfl
  rw [Ex.finish_calm hc hg hp hw hsv hq (by simp [Ex.save, hch]) ha]
  obtain ⟨c, hcs⟩ := x.tally_eq i y.save
  refine ⟨c, ?_⟩
  rw [hcs, Group.withSplit_withSplit _ _ _ (Split.over_entry _ _)]
  simp [Ex.save, State.setGroup, hgid]

/-- The party that an instruction leaves which has changed no more than registers, flags, generators and latches. -/
theorem Ex.done_alike {x y : Ex} {i : Instr} {s : State} (hi : x.Issues i s) (hc : x.Calm) (h : x.Alike y) (hs : i.isSwitch = false) :
    ∃ z : Ex, x.finish i y.next.save = z.s ∧ x.Becomes z ∧ x.StepsOn z ∧ x.OnlyGroup z ∧ x.OnlyRegs z
      ∧ z.sp.latches = y.sp.latches ∧ (∀ o l, z.rd o l = y.rd o l) ∧ (∀ o, z.isAbsent o = y.isAbsent o)
      ∧ z.g.fpx = y.g.fpx ∧ z.g.rngs = y.g.rngs ∧ z.g.p = y.g.p := by
  obtain ⟨h1, h2, h3⟩ := Ex.load_some hi.load hc.mate
  have hsp : y.next.sp = { x.sp with pc := x.sp.pc + 4, latches := y.sp.latches } := by
    show { y.sp with pc := y.sp.pc + 4 } = _
    rw [h.sp]
  have hsplit : y.next.g.splits = x.g.splits := by show y.g.splits = _; rw [h.g]
  have hdead : y.next.g.dead = x.g.dead := by show y.g.dead = _; rw [h.g]
  have hfind : y.next.g.split? x.sp.entry = some x.sp := by unfold Group.split?; rw [hsplit]; exact h3
  obtain ⟨c, hfin⟩ := Ex.done (i := i) (y := y.next) hc h.gid (by rw [← hc.mate]; exact h.mate) (by rw [hsp]) (Option.isSome_iff_exists.2 ⟨_, hfind⟩)
    (by rw [hsp]; exact hc.wait) (by show y.g.saved.isSome = true → _; rw [h.g]; exact id) (Nat.le_of_eq (by show y.g.trapq.length = _; rw [h.g]))
    (by show y.s.checked = false; rw [h.s]; exact hc.checked) (by
      rcases hc.alive with ha | ha
      · left; show y.g.mcc = true; rw [h.g]; exact ha
      · right
        rw [hdead]
        intro p hp
        simp only [Group.withSplit, hsplit, List.mem_map] at hp
        obtain ⟨r, hr, hrp⟩ := hp
        split at hrp
        · subst hrp; rw [hsp]; exact ha x.sp (List.mem_of_find?_eq_some h3)
        · subst hrp; exact ha r hr)
  have hov : y.next.sp.over i = y.next.sp.settled := by unfold Split.over; rw [hs]; rfl
  rw [hov] at hfin
  have hset : y.next.sp.settled = { x.sp with pc := x.sp.pc + 4, issued := none, latches := y.sp.latches } := by
    rw [hsp]; unfold Split.settled; rw [← hc.ghost]
  let g : Group := y.next.g.withSplit y.next.sp.settled
  refine ⟨⟨{ y.s with counters := c, groups := Tab.put y.s.groups x.gid g }, x.gid, g, y.next.sp.settled, none⟩, hfin,
    ⟨rfl, rfl, Tab.find_put_self _ _ _, ?_⟩, hset, ?_, ⟨?_, ?_⟩, rfl, ?_, ?_, rfl, rfl, rfl⟩
  · show (y.next.g.withSplit y.next.sp.settled).split? x.sp.entry = some y.next.sp.settled
    rw [Group.split?_withSplit, if_pos (by rw [hset]), hfind]; rfl
  · unfold Ex.OnlyGroup
    dsimp only
    rw [h.s]
  · show g = { x.g with v := y.g.v, s := y.g.s, p := y.g.p, sv := y.g.sv, ss := y.g.ss, absent := y.g.absent, fpx := y.g.fpx,
                        rngs := y.g.rngs, ueLane := y.g.ueLane, splits := g.splits }
    have : g = { y.g with splits := g.splits } := rfl
    rw [this]
    conv => lhs; rw [h.g]
  · intro e he
    show (y.next.g.withSplit y.next.sp.settled).split? e = _
    rw [Group.split?_withSplit, if_neg (by rw [hset]; exact he)]
    unfold Group.split?; rw [hsplit]
  · intro o l
    have hgh : y.sp.settled.ghost = y.sp.ghost := by rw [h.sp]; exact hc.ghost.symm
    apply Ex.rd_congr <;> first | exact hgh | rfl
  · intro o
    exact Ex.isAbsent_congr rfl rfl o

end Sys2Proof.Machine
end

