-- ==== Sys2Proof/Laws/Values.lean ====
section
/-! SUPPORT. The vector and the scalar form of R99: what they write, and the end of an instruction that does nothing else. -/
namespace Sys2Proof.Machine

/-- What a party has written, before the instruction ends. -/
structure Ex.Drafts (x y : Ex) (nw : Bool) (d : Operand) (val : Nat → Word) : Prop where
  alike : x.Alike y
  vector : d.isVreg = true → nw = false → ∀ l < 32,
    y.rd d l = if Word.has x.acting l then val l else if x.acting ≠ 0 ∧ x.isAbsent d = true then 0 else x.rd d l
  scalar : d.isSreg = true → nw = false → ∀ l, y.rd d l = if x.go then val x.lead else x.rd d l
  others : x.KeepsBut y d
  same : nw = true → ∀ l, y.rd d l = x.rd d l
  latches : y.sp.latches =
    if d.isVreg then ⟨lanesOf (fun l => if Word.has x.acting l then val l else 0), false, 0⟩ :: x.sp.latches.take 3 else x.sp.latches
  flags : x.g.fpx &&& y.g.fpx = x.g.fpx
  rngs : field x.mode 11 9 ≠ 5 → y.g.rngs = x.g.rngs

/-- The end of an instruction that has written `val` to `d`. -/
theorem Ex.Drafts.writes {x y : Ex} {i : Instr} {s : State} {body : Ex → Except Trap Ex} {nw : Bool} {d : Operand} {val : Nat → Word}
    (hi : x.Issues i s) (hc : x.Calm) (hs : i.isSwitch = false) (hb : body x = .ok y) (h : x.Drafts y nw d val)
    : ∃ z : Ex, issueEx i s body = .next z.s ∧ x.Writes z nw d val := by
  obtain ⟨z, hz, h1, h2, h3, h4, h5, h6, h7, h8, h9, -⟩ := Ex.done_alike hi hc h.alike hs
  refine ⟨z, by rw [issueEx_ok hi hb, hz], h1, h2, h3, h4, ?_, ?_, ?_, ?_, ?_, ?_, ?_⟩
  · intro ha hb l hl; rw [h6]; exact h.vector ha hb l hl
  · intro ha hb l; rw [h6]; exact h.scalar ha hb l
  · intro o l ho hn; rw [h6, h7]; exact h.others o l ho hn
  · intro hn l; rw [h6]; exact h.same hn l
  · rw [h5]; exact h.latches
  · rw [h8]; exact h.flags
  · intro hr; rw [h9]; exact h.rngs hr

/-- Raising flags clears none and touches nothing else. -/
theorem Ex.Drafts.flag {x y : Ex} {nw : Bool} {d : Operand} {val : Nat → Word} (h : x.Drafts y nw d val) (fl : Nat) :
    x.Drafts (y.flag fl) nw d val where
  alike := h.alike.trans (y.flag_alike fl)
  vector := h.vector
  scalar := h.scalar
  others := h.others
  same := h.same
  latches := h.latches
  flags := by
    show x.g.fpx &&& (y.g.fpx ||| word (fl % 512)) = x.g.fpx
    rw [BitVec.and_or_distrib_left, h.flags]
    ext k hk
    simp only [BitVec.getElem_or, BitVec.getElem_and]
    cases x.g.fpx[k] <;> simp
  rngs := h.rngs

theorem Ex.rd_latch (x : Ex) (f : Nat → Word) (o : Operand) (l : Nat) (ho : ∀ n, o ≠ .latch n) : (x.latch f).rd o l = x.rd o l := by
  cases o with
  | latch n => exact absurd rfl (ho n)
  | _ => rfl

theorem Ex.isAbsent_latch (x : Ex) (f : Nat → Word) (o : Operand) : (x.latch f).isAbsent o = x.isAbsent o := by
  cases o <;> rfl

/-- The form of R99 for a result without flags or draws. -/
theorem Ex.drafts_form (x : Ex) (nw : Bool) (d : Operand) (val : Nat → Word) (hgh : x.sp.ghost = []) (hd : ∀ n, d ≠ .latch n) :
    x.Drafts (x.form nw d val) nw d val := by
  by_cases hv : d.isVreg = true
  · obtain ⟨n, rfl⟩ : ∃ n, d = .vreg n := by cases d <;> first | exact ⟨_, rfl⟩ | simp [Operand.isVreg] at hv
    have hform : x.form nw (.vreg n) val
        = (if nw then x else x.wrV n.val x.acting val).latch (fun l => if Word.has x.acting l then val l else 0) := rfl
    rw [hform]
    refine ⟨?_, ?_, ?_, ?_, ?_, ?_, ?_, ?_⟩
    · refine Ex.Alike.trans ?_ (Ex.latch_alike _ _)
      split
      · exact .refl x
      · exact x.wrV_alike _ _ _
    · intro _ hnw l hl
      subst hnw
      rw [Ex.rd_latch _ _ _ _ hd, if_neg Bool.false_ne_true]
      exact Ex.rd_wrV x n x.acting val l hl hgh
    · intro h; simp [Operand.isSreg] at h
    · intro o l ho hl
      rw [Ex.rd_latch _ _ _ _ hl, Ex.isAbsent_latch]
      split
      · exact ⟨rfl, rfl⟩
      · exact Ex.rd_wrV_of_ne x n x.acting val o l ho
    · intro hnw l
      subst hnw
      rw [Ex.rd_latch _ _ _ _ hd, if_pos rfl]
    · have : (if nw then x else x.wrV n.val x.acting val).sp = x.sp := by
        split
        · rfl
        · have h := (x.wrV_alike n.val x.acting val).sp
          unfold Ex.wrV
          split
          · rfl
          · dsimp only
            unfold Ex.present
            split
            · split <;> rfl
            · split <;> (try split) <;> rfl
      show _ :: (if nw then x else x.wrV n.val x.acting val).sp.latches.take 3 = _
      rw [this, if_pos hv]
    · have : ((if nw then x else x.wrV n.val x.acting val).latch (fun l => if Word.has x.acting l then val l else 0)).g.fpx = x.g.fpx := by
        show (if nw then x else x.wrV n.val x.acting val).g.fpx = _
        unfold Ex.wrV Ex.present
        split
        · rfl
        · split
          · rfl
          · dsimp only
            split
            · split <;> rfl
            · split <;> (try split) <;> rfl
      rw [this]
      exact BitVec.and_self
    · intro _
      show (if nw then x else x.wrV n.val x.acting val).g.rngs = _
      unfold Ex.wrV Ex.present
      split
      · rfl
      · split
        · rfl
        · dsimp only
          split
          · split <;> rfl
          · split <;> (try split) <;> rfl
  · have hform : x.form nw d val = if x.go then x.wr nw d (val x.lead) else x := by
      cases d <;> first | exact absurd rfl hv | rfl
    rw [hform]
    have hfpx : ∀ w, (x.wr nw d w).g.fpx = x.g.fpx ∧ (x.wr nw d w).g.rngs = x.g.rngs ∧ (x.wr nw d w).sp = x.sp := by
      intro w
      unfold Ex.wr
      split
      · exact ⟨rfl, rfl, rfl⟩
      · split
        · unfold Ex.wrS Ex.present
          dsimp only
          split <;> split <;> exact ⟨rfl, rfl, rfl⟩
        · exact ⟨rfl, rfl, rfl⟩
    refine ⟨?_, ?_, ?_, ?_, ?_, ?_, ?_, ?_⟩
    · split
      · exact x.wr_alike _ _ _
      · exact .refl x
    · intro h; exact absurd h hv
    · intro hs hnw l
      obtain ⟨n, rfl⟩ : ∃ n, d = .sreg n := by cases d <;> first | exact ⟨_, rfl⟩ | simp [Operand.isSreg] at hs
      subst hnw
      split
      · exact Ex.rd_wrS x n _ l
      · rfl
    · intro o l ho hl
      split
      · unfold Ex.wr
        split
        · exact ⟨rfl, rfl⟩
        · split
          · rename_i n
            exact Ex.rd_wrS_of_ne x n _ o l ho
          · exact ⟨rfl, rfl⟩
      · exact ⟨rfl, rfl⟩
    · intro hnw l
      subst hnw
      split <;> rfl
    · rw [if_neg hv]
      split
      · rw [(hfpx _).2.2]
      · rfl
    · split
      · rw [(hfpx _).1]; exact BitVec.and_self
      · exact BitVec.and_self
    · intro _
      split
      · rw [(hfpx _).2.1]
      · rfl

theorem Ex.drafts_vecOver (x : Ex) (nw : Bool) (n : Fin 64) (val : Nat → Word) (hgh : x.sp.ghost = []) :
    x.Drafts (x.vecOver x.acting nw n.val val) nw (.vreg n) val := x.drafts_form nw (.vreg n) val hgh (fun _ => Operand.noConfusion)

/-- Only the values of the lanes that are written matter. -/
theorem Ex.Drafts.congr {x y : Ex} {nw : Bool} {d : Operand} {val : Nat → Word} (h : x.Drafts y nw d val) (val' : Nat → Word)
    (he : ∀ l < 32, Word.has x.acting l = true → val l = val' l) (hv : d.isVreg = true) : x.Drafts y nw d val' where
  alike := h.alike
  vector := by
    intro h1 h2 l hl
    rw [h.vector h1 h2 l hl]
    by_cases ha : Word.has x.acting l = true
    · rw [if_pos ha, if_pos ha, he l hl ha]
    · rw [if_neg ha, if_neg ha]
  scalar := by
    intro hs
    cases d <;> simp [Operand.isVreg, Operand.isSreg] at hv hs
  others := h.others
  same := h.same
  latches := by
    rw [h.latches, if_pos hv, if_pos hv]
    congr 2
    unfold lanesOf
    apply List.map_congr_left
    intro l hl
    by_cases ha : Word.has x.acting l = true
    · rw [if_pos ha, if_pos ha, he l (List.mem_range.1 hl) ha]
    · rw [if_neg ha, if_neg ha]
  flags := h.flags
  rngs := h.rngs

/-- The scalar form of R99. -/
theorem Ex.drafts_scalar (x : Ex) (nw : Bool) (d : Operand) (w : Word) (hgh : x.sp.ghost = []) (hv : d.isVreg = false) (hd : ∀ n, d ≠ .latch n) :
    x.Drafts (if x.go then x.wr nw d w else x) nw d (fun _ => w) := by
  have h := x.drafts_form nw d (fun _ => w) hgh hd
  have hform : x.form nw d (fun _ => w) = if x.go then x.wr nw d w else x := by
    cases d <;> first | exact absurd hv Bool.noConfusion | rfl
  rw [hform] at h
  exact h

/-- Generators that move only under stochastic rounding leave what has been written. -/
theorem Ex.Drafts.setRng {x y : Ex} {nw : Bool} {d : Operand} {val : Nat → Word} (h : x.Drafts y nw d val) (m : Word) (f : Nat → Nat)
    (hs : field x.mode 11 9 = 5) : x.Drafts (y.setRng m f) nw d val where
  alike := h.alike.trans (y.setRng_alike m f)
  vector := h.vector
  scalar := h.scalar
  others := h.others
  same := h.same
  latches := h.latches
  flags := h.flags
  rngs := fun hn => absurd hs hn

theorem Ex.acting_lt (x : Ex) (l : Nat) (h : Word.has x.acting l = true) : l < 32 := by
  simp only [Ex.acting, has_maskOf, Bool.and_eq_true, decide_eq_true_eq] at h
  exact h.1

/-- The form of R99 for a result with flags and draws. -/
theorem Ex.drafts_formRes (x : Ex) (nw : Bool) (d : Operand) (draws : Bool) (f : Nat → Res) (hgh : x.sp.ghost = [])
    (hd : ∀ n, d ≠ .latch n)
    (hdr : draws = true → field x.mode 11 9 = 5) : x.Drafts (x.formRes nw d draws f) nw d (fun l => word (f l).x) := by
  by_cases hv : d.isVreg = true
  · obtain ⟨n, rfl⟩ : ∃ n, d = .vreg n := by cases d <;> first | exact ⟨_, rfl⟩ | simp [Operand.isVreg] at hv
    have hr : ∀ l < 32, (lanes.map (fun l => if Word.has x.acting l then f l else ⟨0, 0, 0⟩)).getD l ⟨0, 0, 0⟩
        = if Word.has x.acting l then f l else ⟨0, 0, 0⟩ := by
      intro l hl
      rw [List.getD_eq_getElem?_getD, List.getElem?_map, lanes, List.getElem?_range hl, Option.map_some, Option.getD_some]
    have hbase := (x.drafts_vecOver nw n (fun l => word
        ((lanes.map (fun l => if Word.has x.acting l then f l else ⟨0, 0, 0⟩)).getD l ⟨0, 0, 0⟩).x) hgh).congr (fun l => word (f l).x)
      (fun l hl ha => by rw [hr l hl, if_pos ha]) hv
    simp only [Ex.formRes]
    refine Ex.Drafts.flag ?_ _
    split
    · rename_i hdraw
      exact Ex.Drafts.setRng hbase _ _ (hdr hdraw)
    · exact hbase
  · have hform : x.formRes nw d draws f = if x.go then
        (if draws then (x.wr nw d (word (f x.lead).x)).setRng (1#32 <<< x.lead) (fun _ => (f x.lead).rng)
          else x.wr nw d (word (f x.lead).x)).flag (f x.lead).fl else x := by
      cases d <;> first | exact absurd rfl hv | rfl
    have h := x.drafts_form nw d (fun l => word (f l).x) hgh hd
    have hform' : x.form nw d (fun l => word (f l).x) = if x.go then x.wr nw d (word (f x.lead).x) else x := by
      cases d <;> first | exact absurd rfl hv | rfl
    rw [hform]
    rw [hform'] at h
    split
    · rename_i hgo
      rw [if_pos hgo] at h
      refine Ex.Drafts.flag ?_ _
      split
      · rename_i hdraw
        exact h.setRng _ _ (hdr hdraw)
      · exact h
    · rename_i hgo
      rw [if_neg hgo] at h
      exact h

/-- No entry has a latch as its destination (R54-R57): what the checks of R68 have let through. -/
theorem Ex.Issues.shapeOk {x : Ex} {i : Instr} {s : State} {h : Shape} {f : RForm} (hi : x.Issues i s) (hs : i.shape = some (h, f)) :
    h.ok f = true := by
  have hc := hi.check
  unfold Ex.decodeCheck at hc
  split at hc
  · simp at hc
  · split at hc
    · simp at hc
    · split at hc
      · simp at hc
      · split at hc
        · simp at hc
        · rename_i hn
          simp only [Bool.or_eq_true, Bool.not_eq_true', not_or, Bool.not_eq_false] at hn
          have := hn.1.1
          simp only [Instr.staticOk, hs, Bool.and_eq_true] at this
          exact this.1.1.1

theorem FieldUse.admits_reg_ne_latch {v s z : Bool} {n : Nat} {d : Operand} (h : (FieldUse.reg v s z n).admits d = true) (k : Fin 4) :
    d ≠ .latch k := by
  rintro rfl
  simp [FieldUse.admits] at h

theorem Ex.Issues.dest_ne_latch {x : Ex} {i : Instr} {s : State} {h : Shape} {f : RForm} (hi : x.Issues i s)
    (hs : i.shape = some (h, f)) (hr : ∃ v s z n, h.d = .reg v s z n) (n : Fin 4) : f.d ≠ .latch n := by
  have := hi.shapeOk hs
  simp only [Shape.ok, Bool.and_eq_true] at this
  obtain ⟨v, s, z, k, hk⟩ := hr
  have h1 := this.1.1.1.1
  rw [hk] at h1
  exact FieldUse.admits_reg_ne_latch h1 n

/-- A destination that admits no vector register is none. -/
theorem Ex.Issues.dest_scalar {x : Ex} {i : Instr} {s : State} {h : Shape} {f : RForm} (hi : x.Issues i s)
    (hs : i.shape = some (h, f)) (hr : ∃ t z n, h.d = .reg false t z n) : f.d.isVreg = false := by
  have := hi.shapeOk hs
  simp only [Shape.ok, Bool.and_eq_true] at this
  obtain ⟨t, z, k, hk⟩ := hr
  have h1 := this.1.1.1.1
  rw [hk] at h1
  cases hd : f.d <;> first | rfl | simp [FieldUse.admits, hd] at h1

/-- Draws are made under stochastic rounding only (R89). -/
theorem Ex.sto_rounds (x : Ex) (b : Bool) (h : (x.sto && b) = true) : field x.mode 11 9 = 5 := by
  simp only [Ex.sto, Bool.and_eq_true, beq_iff_eq] at h
  exact h.1

theorem Ex.sto_eq (x : Ex) (h : x.sto = true) : field x.mode 11 9 = 5 := by
  simpa only [Ex.sto, beq_iff_eq] using h

end Sys2Proof.Machine
end

