-- ==== Sys2Proof/Laws/Turns.lean ====
section
/-! SUPPORT. The end of an instruction that changes a party's group and split only, of one that writes a predicate, and the entry of a
handler: what `takeTrap` can answer. -/
namespace Sys2Proof.Machine

/-- The end of an instruction that has changed the party's group and split and nothing else. -/
theorem Ex.turned {x y : Ex} {i : Instr} {s : State} {body : Ex → Except Trap State} (hi : x.Issues i s) (hc : x.Calm)
    (hb : body x = .ok y.save) (h1 : y.s = x.s) (h2 : y.gid = x.gid) (h3 : y.mate = none) (h4 : y.g.splits = x.g.splits)
    (h5 : y.g.mcc = x.g.mcc) (h6 : y.g.dead = x.g.dead) (h7 : y.g.saved.isSome = x.g.saved.isSome) (h8 : y.g.trapq = x.g.trapq)
    (h9 : y.sp.entry = x.sp.entry) (h10 : y.sp.lanes = x.sp.lanes) (h11 : y.sp.wait = none) :
    ∃ z : Ex, issueWith i s body = .next z.s ∧ x.Turns z y.g (if i.isSwitch then y.sp.stale else y.sp) := by
  obtain ⟨k1, k2, k3⟩ := Ex.load_some hi.load hc.mate
  have hfind : y.g.split? x.sp.entry = some x.sp := by unfold Group.split?; rw [h4]; exact k3
  obtain ⟨c, hfin⟩ := Ex.done (i := i) (y := y) hc h2 h3 h9 (Option.isSome_iff_exists.2 ⟨_, hfind⟩) h11 (fun h => h7 ▸ h) (Nat.le_of_eq (by rw [h8]))
    (by rw [h1]; exact hc.checked) (by
      rcases hc.alive with ha | ha
      · left; rw [h5]; exact ha
      · right
        rw [h6]
        intro p hp
        simp only [Group.withSplit, h4, List.mem_map] at hp
        obtain ⟨r, hr, hrp⟩ := hp
        split at hrp
        · subst hrp; rw [h10]; exact ha x.sp (List.mem_of_find?_eq_some k3)
        · subst hrp; exact ha r hr)
  rw [h1] at hfin
  have he : (y.sp.over i).entry = x.sp.entry := by rw [Split.over_entry]; exact h9
  have hrest : (if i.isSwitch then y.sp.stale else y.sp).rests = y.sp.over i := by
    unfold Split.rests Split.over
    split <;> simp [Split.stale, Split.settled, h11]
  refine ⟨⟨{ x.s with counters := c, groups := Tab.put x.s.groups x.gid (y.g.withSplit (y.sp.over i)) }, x.gid,
    y.g.withSplit (y.sp.over i), y.sp.over i, none⟩, (by rw [issueWith_ok hi hb, hfin]),
    ⟨rfl, rfl, Tab.find_put_self _ _ _, ?_⟩, rfl, rfl, ?_, hrest.symm⟩
  · show (y.g.withSplit _).split? x.sp.entry = _
    rw [Group.split?_withSplit, if_pos he.symm, hfind]; rfl
  · intro e hne
    show (y.g.withSplit _).split? e = _
    rw [Group.split?_withSplit, if_neg (by rw [he]; exact hne)]
    unfold Group.split?; rw [h4]

theorem Ex.turnedTo {x : Ex} {i : Instr} {s : State} {body : Ex → Except Trap State} {g : Group} {sp : Split} (hi : x.Issues i s) (hc : x.Calm)
    (hb : body x = .ok ({ x with g := g, sp := sp } : Ex).save) (h4 : g.splits = x.g.splits)
    (h5 : g.mcc = x.g.mcc) (h6 : g.dead = x.g.dead) (h7 : g.saved.isSome = x.g.saved.isSome) (h8 : g.trapq = x.g.trapq)
    (h9 : sp.entry = x.sp.entry) (h10 : sp.lanes = x.sp.lanes) (h11 : sp.wait = none) :
    ∃ z : Ex, issueWith i s body = .next z.s ∧ x.Turns z g (if i.isSwitch then sp.stale else sp) :=
  Ex.turned (y := { x with g := g, sp := sp }) hi hc hb rfl rfl hc.mate h4 h5 h6 h7 h8 h9 h10 h11

theorem Ex.turnedN {x : Ex} {i : Instr} {s : State} {body : Ex → Except Trap State} (g : Group) (sp : Split) (hi : x.Issues i s) (hc : x.Calm)
    (hs : i.isSwitch = false)
    (h4 : g.splits = x.g.splits)
    (h5 : g.mcc = x.g.mcc) (h6 : g.dead = x.g.dead) (h7 : g.saved.isSome = x.g.saved.isSome) (h8 : g.trapq = x.g.trapq)
    (h9 : sp.entry = x.sp.entry) (h10 : sp.lanes = x.sp.lanes) (h11 : sp.wait = none) (hb : body x = .ok ({ x with g := g, sp := sp } : Ex).save) :
    ∃ z : Ex, issueWith i s body = .next z.s ∧ x.Turns z g sp := by
  have := Ex.turnedTo hi hc hb h4 h5 h6 h7 h8 h9 h10 h11
  rw [hs] at this
  exact this
theorem Ex.turnedS {x : Ex} {i : Instr} {s : State} {body : Ex → Except Trap State} (g : Group) (sp : Split) (hi : x.Issues i s) (hc : x.Calm)
    (hs : i.isSwitch = true)
    (h4 : g.splits = x.g.splits)
    (h5 : g.mcc = x.g.mcc) (h6 : g.dead = x.g.dead) (h7 : g.saved.isSome = x.g.saved.isSome) (h8 : g.trapq = x.g.trapq)
    (h9 : sp.entry = x.sp.entry) (h10 : sp.lanes = x.sp.lanes) (h11 : sp.wait = none) (hb : body x = .ok ({ x with g := g, sp := sp } : Ex).save) :
    ∃ z : Ex, issueWith i s body = .next z.s ∧ x.Turns z g sp.stale := by
  have := Ex.turnedTo hi hc hb h4 h5 h6 h7 h8 h9 h10 h11
  rw [hs] at this
  exact this

/-- The same of a meaning that only changes the party and moves on. -/
theorem Ex.turnedEx {x : Ex} {i : Instr} {s : State} {body : Ex → Except Trap Ex} {g : Group} (hi : x.Issues i s) (hc : x.Calm)
    (hs : i.isSwitch = false)
    (hb : body x = .ok { x with g := g }) (h4 : g.splits = x.g.splits)
    (h5 : g.mcc = x.g.mcc) (h6 : g.dead = x.g.dead) (h7 : g.saved.isSome = x.g.saved.isSome) (h8 : g.trapq = x.g.trapq) :
    ∃ z : Ex, issueEx i s body = .next z.s ∧ x.Turns z g { x.sp with pc := x.sp.pc + 4 } := by
  have := Ex.turnedTo (x := x) (i := i) (s := s) (g := g) (sp := { x.sp with pc := x.sp.pc + 4 })
    (body := fun x => (body x).map (fun y => y.next.save)) hi hc (by dsimp only; rw [hb]; rfl) h4 h5 h6 h7 h8 rfl rfl hc.wait
  rw [hs] at this
  exact this

/-- The end of an instruction that has written a predicate and raised flags. -/
theorem Ex.setPred_writes {x : Ex} {i : Instr} {s : State} {nw : Bool} {d : Operand} {val : Nat → Bool} {fl : Nat} {body : Ex → Except Trap Ex}
    (hi : x.Issues i s) (hc : x.Calm) (hs : i.isSwitch = false)
    (hb : body x = .ok ((x.setPred nw d val).flag fl)) :
    ∃ z : Ex, issueEx i s body = .next z.s ∧ x.WritesBits z nw d val := by
  have hal : x.Alike (x.setPred nw d val) := by
    unfold Ex.setPred
    split
    · split
      · exact .refl x
      · exact x.wrP_alike _ _ _
    · exact .refl x
  have hsp : (x.setPred nw d val).sp = x.sp := by
    unfold Ex.setPred Ex.wrP Ex.present
    split
    · split
      · rfl
      · split
        · rfl
        · dsimp only; split <;> rfl
    · rfl
  have hfr : (x.setPred nw d val).g.fpx = x.g.fpx ∧ (x.setPred nw d val).g.rngs = x.g.rngs := by
    unfold Ex.setPred Ex.wrP Ex.present
    split
    · split
      · exact ⟨rfl, rfl⟩
      · split
        · exact ⟨rfl, rfl⟩
        · dsimp only; split <;> exact ⟨rfl, rfl⟩
    · exact ⟨rfl, rfl⟩
  obtain ⟨z, hz, h1, h2, h3, h4, h5, h6, h7, h8, h9, h10⟩ := Ex.done_alike hi hc (hal.trans (Ex.flag_alike _ fl)) hs
  refine ⟨z, by rw [issueEx_ok hi hb, hz], h1, ?_, h3, h4, ?_, ?_, ?_, ?_, ?_⟩
  · have : z.sp = { x.sp with pc := x.sp.pc + 4, issued := none, latches := z.sp.latches } := h2
    rw [this, h5]
    show _ = _
    have : ((x.setPred nw d val).flag fl).sp.latches = x.sp.latches := by show (x.setPred nw d val).sp.latches = _; rw [hsp]
    rw [this]
  · intro n hd hn hnw l hl
    subst hd hnw
    show (z.g.pred n.val l) = _
    have : z.g.pred n.val l = (x.setPred false (.preg n) val).g.pred n.val l := by
      unfold Group.pred; rw [h10]; rfl
    rw [this]
    have h7 : n.val ≠ 7 := fun h => hn (Fin.ext h)
    exact x.pred_wrP n x.acting val l hl h7
  · intro h
    rw [h10]
    show (x.setPred nw d val).g.p = _
    rcases h with h | h
    · subst h; unfold Ex.setPred; split <;> simp
    · subst h; unfold Ex.setPred; dsimp only; split
      · rfl
      · unfold Ex.wrP; rw [if_pos (Or.inl (show ((7 : Fin 8) : Nat) = 7 from rfl))]
  · intro o l ho hn
    rw [h6, h7]
    have a : ((x.setPred nw d val).flag fl).rd o l = (x.setPred nw d val).rd o l := Ex.rd_congr rfl rfl rfl rfl rfl rfl rfl rfl rfl rfl rfl rfl rfl o l
    have b : ((x.setPred nw d val).flag fl).isAbsent o = (x.setPred nw d val).isAbsent o := Ex.isAbsent_congr rfl rfl o
    rw [a, b]
    unfold Ex.setPred
    split
    · split
      · exact ⟨rfl, rfl⟩
      · exact Ex.rd_wrP_of_ne x _ _ _ o l ho
    · exact ⟨rfl, rfl⟩
  · rw [h8]
    show x.g.fpx &&& ((x.setPred nw d val).g.fpx ||| word (fl % 512)) = x.g.fpx
    rw [hfr.1]
    ext k hk
    simp only [BitVec.getElem_or, BitVec.getElem_and]
    cases x.g.fpx[k] <;> simp
  · rw [h9]; exact hfr.2

theorem Ex.flag_zero (x : Ex) : x.flag 0 = x := by
  unfold Ex.flag Fpx.raise
  have : x.g.fpx ||| word (0 % 512) = x.g.fpx := by simp [word]
  rw [this]

/-- What walks have cached is in the TLBs, and the count of free values may have moved (R154). -/
theorem State.cacheWalks_eq (w : Walker) (vas : List Nat) (s : State) :
    ∃ t n, s.cacheWalks w vas = { s with tlb := t, freeCtr := n } := by
  unfold State.cacheWalks
  induction vas generalizing s with
  | nil => exact ⟨_, _, rfl⟩
  | cons va vas ih =>
    rw [List.foldl_cons]
    have h1 : ∃ t n, (if canonical va then s.cacheEntries w va (s.entriesMet w va 5 (s.ctx w.ctx).root) else s)
        = { s with tlb := t, freeCtr := n } := by
      split
      · unfold State.cacheEntries
        dsimp only
        split <;> exact ⟨_, _, rfl⟩
      · exact ⟨_, _, rfl⟩
    obtain ⟨t, n, h⟩ := h1
    obtain ⟨t', n', h'⟩ := ih { s with tlb := t, freeCtr := n }
    exact ⟨t', n', by rw [h, h']⟩

/-- A trap that is no limit's, of a party in no handler, enters the handler and does nothing else. -/
theorem Ex.takeTrap_enters {x : Ex} {s : State} {t : Trap} (hl : Ex.load s = some x) (hu : x.User) (ht : t.cause.isLimit = false) :
    ∃ y : Ex, (x.takeTrap t).settleCheck = y.s ∧ x.Enters y t := by
  obtain ⟨h1, h2, h3⟩ := Ex.load_some hl hu.mate
  let sp := if t.cause = .swTrap then x.sp.stale else x.sp
  obtain ⟨tl, n, hcw⟩ := State.cacheWalks_eq x.walker t.seen x.s
  have htl : tl = if t.seen = [] then x.s.tlb else tl := by
    split
    · rename_i h0
      rw [h0] at hcw
      exact (congrArg State.tlb hcw).symm
    · rfl
  let xc : Ex := { x with s := { x.s with tlb := tl, freeCtr := n } }
  let g := x.g.enter sp x.ctx.hdlr (xc.pending t)
  let sp' : Split := { x.sp with pc := x.ctx.hdlr, wait := none, loops := [], rets := [], count := 0, ticket := none, ghost := [], issued := none }.stale
  have hspE : sp.entry = x.sp.entry := by dsimp only [sp]; split <;> rfl
  have hst : ({ sp with pc := x.ctx.hdlr, wait := none, loops := [], rets := [], count := 0, ticket := none, ghost := [], issued := none } : Split).stale = sp' := by
    dsimp only [sp, sp']
    split
    · simp [Split.stale]
    · rfl
  have hcnt : ∃ c, xc.s.draw.count x.part x.gid 15 1 = { xc.s.draw with counters := c } := ⟨_, rfl⟩
  obtain ⟨c, hc⟩ := hcnt
  have hsup : xc.sup = false := hu.sup
  have e1 : x.takeTrap t = (xc.s.draw.count x.part x.gid 15 1).setGroup x.gid g := by
    unfold Ex.takeTrap
    simp only [hcw]
    show (if xc.sup then _ else _) = _
    simp only [hsup, ht, hu.mate, Bool.false_eq_true, if_false]
    rfl
  have hsplits : g.splits = (x.g.withSplit sp').splits := by
    rw [← hst]
    dsimp only [g, Group.enter]
    split <;> rfl
  refine ⟨⟨(x.takeTrap t).settleCheck, x.gid, g, sp', none⟩, rfl, ⟨rfl, rfl, ?_, ?_⟩, ?_, ?_, ?_, rfl, ?_⟩
  · rw [State.settleCheck_of_clear _ (by rw [e1, hc]; exact hu.checked), e1]
    exact Tab.find_put_self _ _ _
  · show g.split? _ = _
    unfold Group.split?
    rw [hsplits]
    show (x.g.withSplit sp').split? _ = _
    rw [Group.split?_withSplit, if_pos (show x.sp.entry = sp'.entry from rfl), h3]; rfl
  · show (x.takeTrap t).settleCheck = _
    rw [State.settleCheck_of_clear _ (by rw [e1, hc]; exact hu.checked), e1, hc]
    exact congrArg (fun z => ({ x.s with counters := c, freeCtr := n + 1, tlb := z, groups := Tab.put x.s.groups x.gid g } : State)) htl
  · show g = _
    have hsv : g.saved = some { entry := x.sp.entry, mode := x.g.mode, fpx := x.g.fpx, latches := if t.cause = .swTrap then x.sp.stale.latches else x.sp.latches, loops := x.sp.loops, rets := x.sp.rets, count := x.sp.count, ticket := x.sp.keptTicket, pc := if t.next then x.sp.pc + 4 else x.sp.pc, cycles := 0 } := by
      dsimp only [g, Group.enter, sp]
      split <;> rfl
    have hte : g.trapc = word (t.cause.code + t.under.code * 2 ^ 8 + t.info % 2 ^ 16 * 2 ^ 16) := by
      show trapcWord (xc.pending t) = _
      unfold trapcWord Ex.pending b2n
      simp
    have hfr : g.frames = if x.sp.wait = some .join then (x.g.unarrive x.sp.entry).frames else x.g.frames := by
      have hw : sp.wait = x.sp.wait := by dsimp only [sp]; split <;> rfl
      dsimp only [g, Group.enter]
      rw [hw, hspE]
      split <;> rfl
    rw [← hfr]
    have : g = { x.g with splits := g.splits, frames := g.frames, saved := g.saved, mode := modeReset, trapc := g.trapc, trappc := g.trappc, trapmask := g.trapmask, trapaddrl := g.trapaddrl, trapaddrh := g.trapaddrh, stepping := none } := by
      dsimp only [g, Group.enter]
      split <;> rfl
    rw [hsv, hte] at this
    exact this
  · intro a ha
    show word (xc.pending t).addr = _ ∧ word ((xc.pending t).addr / 2 ^ 32) = _
    unfold Ex.pending Ex.trapAddr
    simp only [ha, and_self]
  · intro e he
    show g.split? e = _
    unfold Group.split?
    rw [hsplits]
    show (x.g.withSplit sp').split? e = _
    rw [Group.split?_withSplit, if_neg (show ¬ e = sp'.entry from he)]; rfl

end Sys2Proof.Machine
end

