-- ==== Sys2Proof/Tests/Slice0.lean ====
section
/-! SUPPORT. The package's own tests: words and results that the spec writes out or that follow from its rules by hand, terms that
the checks of well-formedness refuse, and for each statement a state and operands that meet its hypotheses. -/
open Sys2Proof Sys2Proof.Machine

section Tests
set_option Elab.async false

/-- A command of a stream list, or none where the word does not decode. -/
def testCommand (w x y : Word) : Option Instr := (decodeStream w x y).toOption

/-- Words that the spec writes out (R104, R107, R109-R113). -/
theorem test_decode_arithmetic :
    decode 0x05010286 = .mac ⟨false, .vreg 4, .vreg 5, .vreg 6⟩
    ∧ decode 0x04D0A1C4 = .mulh ⟨false, .sreg 2, .sreg 3, .sreg 4⟩
    ∧ decode 0x06408184 = .div ⟨false, .vreg 2, .vreg 3, .vreg 4⟩
    ∧ decode 0x05C04100 = .abs ⟨false, .vreg 1, .vreg 2, .vreg 0⟩
    ∧ decode 0x0841C380 = .rsq ⟨false, .vreg 7, .vreg 7, .vreg 0⟩
    ∧ decode 0x0EC080C5 = .bfx ⟨false, .vreg 2, .vreg 1, .sreg 5⟩
    ∧ decode 0x0F414347 = .prmt ⟨false, .vreg 5, .vreg 6, .sreg 7⟩
    ∧ decode 0x0D00F7C5 = .shl ⟨false, .vreg 3, .lane, .sreg 5⟩
    ∧ decode 0x0E106100 = .popc ⟨false, .sreg 1, .sreg 2, .vreg 0⟩
    ∧ decode 0x10C0C06C = .cvtE4m3 ⟨false, .vreg 3, .vreg 0, .zero⟩
    ∧ decode 0x00400000 = .nop ⟨false, .vreg 0, .vreg 0, .vreg 0⟩ := by decide +kernel

/-- Words that the spec writes out (R114, R117-R123). -/
theorem test_decode_lanes_and_predicates :
    decode 0x14994103 = .cmpLt ⟨false, .preg 1, .vreg 2, .vreg 3⟩
    ∧ decode 0x19D1B280 = .vbal ⟨false, .sreg 6, .preg 1, .vreg 0⟩
    ∧ decode 0x1C410241 = .shflx ⟨false, .vreg 4, .vreg 4, .sreg 1⟩
    ∧ decode 0x1D110145 = .bcast ⟨false, .sreg 4, .vreg 2, .sreg 5⟩
    ∧ decode 0x1D426041 = .lwr ⟨false, .vreg 9, .sreg 0, .sreg 1⟩
    ∧ decode 0x20022180 = .mov ⟨false, .vreg 8, .sreg 3, .vreg 0⟩
    ∧ decode 0x20404103 = .sel ⟨false, .vreg 1, .vreg 2, .vreg 3⟩
    ∧ decode 0x4001FFF4 = .ldi ⟨.vreg 3, 0x7FF4⟩
    ∧ decode 0x40623FFF = .ldih ⟨.sreg 4, 0x3FFF⟩
    ∧ decode 0x40A18000 = .ldc ⟨.sreg 3, 0⟩ := by decide +kernel

/-- Words that the spec writes out (R124-R142). -/
theorem test_decode_control :
    decode 0x40E18003 = .srd ⟨.sreg 3, 3⟩
    ∧ decode 0x41050009 = .swr ⟨.vreg 10, 9⟩
    ∧ decode 0x24002480 = .msetr ⟨false, .vreg 0, .sreg 9, .vreg 0⟩
    ∧ decode 0x41400001 = .mset ⟨.vreg 0, 1⟩
    ∧ decode 0x80000004 = .br 4
    ∧ decode 0x8040000A = .call 10
    ∧ decode 0x25C020C2 = .callt ⟨false, .vreg 0, .sreg 1, .sreg 2⟩
    ∧ decode 0x24800000 = .ret ⟨false, .vreg 0, .vreg 0, .vreg 0⟩
    ∧ decode 0x41800005 = .jmark ⟨.vreg 0, 5⟩
    ∧ decode 0x24400000 = .join ⟨false, .vreg 0, .vreg 0, .vreg 0⟩
    ∧ decode 0x26002000 = .lpb ⟨false, .vreg 0, .sreg 0, .vreg 0⟩
    ∧ decode 0x80BFFFFF = .lpe (-1)
    ∧ decode 0x24C00000 = .lbrk ⟨false, .vreg 0, .vreg 0, .vreg 0⟩
    ∧ decode 0x25000000 = .exit ⟨false, .vreg 0, .vreg 0, .vreg 0⟩
    ∧ decode 0x25400000 = .yld ⟨false, .vreg 0, .vreg 0, .vreg 0⟩
    ∧ decode 0x42400001 = .phase ⟨.vreg 0, 1⟩
    ∧ decode 0x25800000 = .bkpt ⟨false, .vreg 0, .vreg 0, .vreg 0⟩
    ∧ decode 0x41C00001 = .xacq ⟨.vreg 0, 1⟩
    ∧ decode 0x42800005 = .trap ⟨.vreg 0, 5⟩
    ∧ decode 0x42C01103 = .live ⟨.vreg 0, 0x1103⟩ := by decide +kernel

/-- Words that the spec writes out (R209-R216). -/
theorem test_decode_memory :
    decode 0x50010145 = .lds32 ⟨false, .vreg 4, .vreg 2, .sreg 5⟩
    ∧ decode 0x518200EC = .sts128 ⟨false, .vreg 8, .vreg 1, .zero⟩
    ∧ decode 0x52418143 = .ldg64 ⟨false, .vreg 6, .vreg 2, .sreg 3⟩
    ∧ decode 0x5300A003 = .stg32 ⟨false, .vreg 2, .sreg 0, .vreg 3⟩
    ∧ decode 0x605B0209 = .atmCom .add ⟨false, .zero, .vreg 4, .vreg 9⟩
    ∧ decode 0x6092216C = .atmNor .add ⟨false, .sreg 8, .sreg 2, .zero⟩
    ∧ decode 0x6D91216C = .atmRel .xchg ⟨false, .sreg 4, .sreg 2, .zero⟩
    ∧ decode 0x6F018140 = .atmSpc .cas ⟨false, .vreg 6, .vreg 2, .sreg 0⟩
    ∧ decode 0x6F418140 = .atmAcq .cas ⟨false, .vreg 6, .vreg 2, .sreg 0⟩
    ∧ decode 0x54000000 = .fenceAcq ⟨false, .vreg 0, .vreg 0, .vreg 0⟩
    ∧ decode 0x54C00000 = .flushq ⟨false, .vreg 0, .vreg 0, .vreg 0⟩ := by decide +kernel

/-- Words that the spec writes out (R218-R229). -/
theorem test_decode_synchronisation :
    decode 0x5600254C = .bari ⟨false, .vreg 0, .sreg 10, .sreg 12⟩
    ∧ decode 0x5650E500 = .bara ⟨false, .sreg 3, .sreg 10, .vreg 0⟩
    ∧ decode 0x56C02500 = .baraw ⟨false, .vreg 0, .sreg 10, .vreg 0⟩
    ∧ decode 0x56802543 = .barw ⟨false, .vreg 0, .sreg 10, .sreg 3⟩
    ∧ decode 0x57000000 = .tbar ⟨false, .vreg 0, .vreg 0, .vreg 0⟩
    ∧ decode 0x58002A58 = .tri ⟨false, .vreg 0, .sreg 20, .sreg 24⟩
    ∧ decode 0x58516A00 = .trc ⟨false, .sreg 5, .sreg 20, .vreg 0⟩
    ∧ decode 0x58802A45 = .trf ⟨false, .vreg 0, .sreg 20, .sreg 5⟩
    ∧ decode 0x58D1AA45 = .trw ⟨false, .sreg 6, .sreg 20, .sreg 5⟩
    ∧ decode 0x59002A45 = .trr ⟨false, .vreg 0, .sreg 20, .sreg 5⟩
    ∧ decode 0x59D1EA6C = .trq ⟨false, .sreg 7, .sreg 20, .zero⟩ := by decide +kernel

/-- Words that the spec writes out (R230-R241). -/
theorem test_decode_engines :
    decode 0x5A902248 = .tset ⟨false, .sreg 0, .sreg 4, .sreg 8⟩
    ∧ decode 0x5AD0E0C2 = .tget ⟨false, .sreg 3, .sreg 1, .sreg 2⟩
    ∧ decode 0x5A122650 = .tcopy ⟨false, .sreg 8, .sreg 12, .sreg 16⟩
    ∧ decode 0x5A522650 = .tcopyv ⟨false, .sreg 8, .sreg 12, .sreg 16⟩
    ∧ decode 0x5C10A641 = .slrun ⟨false, .sreg 2, .sreg 12, .sreg 1⟩
    ∧ decode 0x5C402143 = .stail ⟨false, .vreg 0, .sreg 2, .sreg 3⟩
    ∧ decode 0x5C912A00 = .slseq ⟨false, .sreg 4, .sreg 20, .vreg 0⟩ := by decide +kernel

/-- Words that the spec writes out (R264-R271). -/
theorem test_decode_matrix :
    decode 0x70002080 = .mshape ⟨false, .vreg 0, .sreg 1, .vreg 0⟩
    ∧ decode 0x71802180 = .mscl ⟨false, .vreg 0, .sreg 3, .vreg 0⟩
    ∧ decode 0x70402400 = .mwl ⟨false, .vreg 0, .sreg 8, .vreg 0⟩
    ∧ decode 0x70800000 = .mswap ⟨false, .vreg 0, .vreg 0, .vreg 0⟩
    ∧ decode 0x70C06241 = .mstr ⟨false, .vreg 1, .sreg 4, .sreg 1⟩
    ∧ decode 0x71002642 = .mdrn ⟨false, .vreg 0, .sreg 12, .sreg 2⟩
    ∧ decode 0x71408000 = .mclr ⟨false, .vreg 2, .vreg 0, .vreg 0⟩
    ∧ decode 0x71C02280 = .mwait ⟨false, .vreg 0, .sreg 5, .vreg 0⟩ := by decide +kernel

/-- Words that the spec writes out (R296, R297, R326-R329, R339-R343, R361). -/
theorem test_decode_launch_and_supervisor :
    decode 0x7C000000 = .rtt ⟨false, .vreg 0, .vreg 0, .vreg 0⟩
    ∧ decode 0x7D003680 = .kill ⟨false, .vreg 0, .one, .vreg 0⟩
    ∧ decode 0x43620100 = .cntrd ⟨.sreg 4, 0x100⟩
    ∧ decode 0x7410C000 = .clid ⟨false, .sreg 3, .vreg 0, .vreg 0⟩
    ∧ decode 0x74512280 = .aqst ⟨false, .sreg 4, .sreg 5, .vreg 0⟩
    ∧ decode 0x43A29018 = .maprd ⟨.sreg 5, 0x1018⟩
    ∧ decode 0x7851E300 = .lwait ⟨false, .sreg 7, .sreg 6, .vreg 0⟩
    ∧ decode 0x7C51A144 = .pfmap ⟨false, .sreg 6, .sreg 2, .sreg 4⟩
    ∧ decode 0x7C80216D = .tlbi ⟨false, .vreg 0, .sreg 2, .one⟩
    ∧ decode 0x7CD16080 = .errrd ⟨false, .sreg 5, .sreg 1, .vreg 0⟩
    ∧ decode 0x7811A16C = .launch ⟨false, .sreg 6, .sreg 2, .zero⟩
    ∧ decode 0x7890E200 = .mapack ⟨false, .sreg 3, .sreg 4, .vreg 0⟩ := by decide +kernel

/-- Words of a stream list that the spec writes out (R242): the command, and beside it its extension words. -/
theorem test_decode_list_words :
    testCommand 0xC2C80000 0 0 = some (.sset 1 0 0)
    ∧ testCommand 0xC08000C0 0 0 = some (.sloop 3 0)
    ∧ testCommand 0xC1400000 0 0 = some (.swaitf 0)
    ∧ testCommand 0xC000C000 0x000000FF 0 = some (.sfetch ⟨3, false, false, false, false, 0, 0, 0xFF⟩)
    ∧ testCommand 0xC1080001 0 0 = some (.sadv 1 1)
    ∧ testCommand 0xC0C00000 0 0 = some (.snext 0)
    ∧ testCommand 0xC2000000 0 0 = some (.sseq 0)
    ∧ testCommand 0xC2800000 0 0 = some (.shalt 0) := by decide +kernel

/-- The checks of the words alone (R54-R57, R63, R66, R70): a class that the entry does not admit, a field that it does not use, a
span that is not aligned, an immediate out of range, a register that no SWR writes, RNGS into a scalar, and a com atomic with a
destination. -/
theorem test_static_checks_refuse :
    (Instr.add ⟨false, .preg 1, .vreg 0, .vreg 0⟩).wellFormed = false
    ∧ (Instr.abs ⟨false, .vreg 1, .vreg 2, .vreg 1⟩).wellFormed = false
    ∧ (Instr.lds64 ⟨false, .vreg 3, .vreg 0, .vreg 0⟩).wellFormed = false
    ∧ (Instr.phase ⟨.vreg 0, 3⟩).wellFormed = false
    ∧ (Instr.swr ⟨.sreg 1, 3⟩).wellFormed = false
    ∧ (Instr.srd ⟨.sreg 1, 9⟩).wellFormed = false
    ∧ (Instr.atmCom .add ⟨false, .sreg 0, .sreg 2, .vreg 0⟩).wellFormed = false
    ∧ (Instr.add ⟨false, .vreg 1, .vreg 2, .vreg 3⟩).wellFormed = true
    ∧ (Instr.lds64 ⟨false, .vreg 4, .vreg 0, .vreg 0⟩).wellFormed = true
    ∧ (Instr.phase ⟨.vreg 0, 2⟩).wellFormed = true := by decide +kernel

/-- The illegal pairs of R66: an exchange of use com, and an addition of use spc. -/
theorem test_atomic_pairs_refuse :
    (Instr.atmQnt .xchg ⟨false, .sreg 0, .sreg 2, .vreg 0⟩).wellFormed = false
    ∧ (Instr.atmSpc .add ⟨false, .sreg 0, .sreg 2, .vreg 0⟩).wellFormed = false
    ∧ (Instr.atmSpc .xchg ⟨false, .sreg 0, .sreg 2, .vreg 0⟩).wellFormed = true := by decide +kernel

/-- A reserved bit of a stream command (R242). -/
theorem test_stream_reserved_bits_refuse :
    (Instr.shalt 1).wellFormed = false ∧ (Instr.sloop 3 1).wellFormed = false
    ∧ (Instr.sfetch ⟨0, false, false, false, false, 0, 1, 0⟩).wellFormed = false ∧ (Instr.shalt 0).wellFormed = true := by decide +kernel

/-- A fate of R67 for a word that is a legal instruction. -/
theorem test_fates_refuse :
    (Instr.illegalOpcode 0x00400000).wellFormed = false ∧ (Instr.streamWord 0x00400000).wellFormed = false
    ∧ (Instr.illegalOpcode 0x00000001).wellFormed = true ∧ (Instr.streamWord 0xC2800000).wellFormed = true := by decide +kernel

/-- Words that are no instruction: zero, opcode 0 with another bit, an illegal atomic pair, a stream command in a core's stream, and
opcodes outside 0x300 to 0x30B in a list (R66, R67, R242). -/
theorem test_decode_refuses_by_name :
    decode 0 = .illegalZero ∧ decode 1 = .illegalOpcode 1 ∧ decode 0x6C400000 = .illegalOpcode 0x6C400000
    ∧ decode 0xC2800000 = .streamWord 0xC2800000 ∧ testCommand 0x00400000 0 0 = none ∧ testCommand 0xC3000000 0 0 = none := by decide +kernel

/-- A state in which the turn is at a group whose code is these words, as the host places one. -/
def testAt (ws : List Word) : State := State.reset.placeGroup (ws.flatMap (fun w => bytesLE 4 w.toNat))

/-- The same in a handler, and on the MCC. -/
def testSup (ws : List Word) : State := State.reset.placeHandler (ws.flatMap (fun w => bytesLE 4 w.toNat))
def testMcc (ws : List Word) : State := State.reset.placeMcc (ws.flatMap (fun w => bytesLE 4 w.toNat))

/-- The party whose turn it is. -/
def testParty (s : State) : Ex := (Ex.load s).getD ⟨s, 0, placed false none, Split.start 0 0 0, none⟩

/-- The state with another group, or another split, for that party. -/
def testGroup (s : State) (f : Group → Group) : State := s.setGroup (testParty s).gid (f (testParty s).g)
def testSplit (s : State) (f : Split → Split) : State := testGroup s (fun g => g.withSplit (f (testParty s).sp))

/-- The state after an instruction or a step. -/
def testExec (i : Instr) (s : State) : State := match exec i s with | .next t => t | _ => s
def testStep (s : State) : State := match step s with | .next t => t | _ => s

/-- A group's registers: v1 the lane number plus 1, s1 to s3 words of a test. -/
def testRegs (a b c : Word) (g : Group) : Group :=
  { g with v := [(1, lanesOf (fun l => BitVec.ofNat 32 (l + 1)))], s := [(1, a), (2, b), (3, c)] }

/-- The premises `Issues` and `Calm` of the statements, as a check. -/
def testReady (i : Instr) (s : State) : Bool :=
  match Ex.load s with
  | none => false
  | some x => decide (x.decodeCheck i = none) && !x.g.ueGroup && decide (x.queueFault i = none) && decide (x.heldStore i = none)
      && decide (x.badLanes i = 0)
      && decide (x.mate = none) && decide (x.g.stepping = none) && decide (x.sp.wait = none) && decide (x.sp.ghost = [])
      && (x.g.mcc || x.g.splits.all (fun p => decide (p.lanes &&& ~~~ x.g.dead ≠ 0))) && !x.s.checked

theorem test_ready_meets (i : Instr) (s : State) (h : testReady i s = true) : (testParty s).Issues i s ∧ (testParty s).Calm := by
  unfold testReady at h
  cases hl : Ex.load s with
  | none => simp [hl] at h
  | some x =>
    have hx : testParty s = x := by simp [testParty, hl]
    simp only [hl, Bool.and_eq_true, decide_eq_true_eq, Bool.not_eq_true', Bool.or_eq_true, List.all_eq_true] at h
    obtain ⟨⟨⟨⟨⟨⟨⟨⟨⟨⟨h1, h2⟩, h3⟩, hp⟩, h4⟩, h5⟩, h6⟩, h7⟩, hg⟩, h8⟩, h9⟩ := h
    rw [hx]
    exact ⟨⟨hl, h1, h2, h3, hp, h4⟩, ⟨h5, h6, h7, hg, h8, h9⟩⟩

/-- The premises of a statement about one instruction, for a list of instructions each placed as the host places its words. -/
def testPlaced (i : Instr) : State := testAt (encode i)

/-- The state with another grid, team, context or kernel for the party placed. -/
def testGrid (s : State) (f : Grid → Grid) : State := s.setGrid 1 (f (s.grid 1))
def testKernel (s : State) (f : Kernel → Kernel) : State := testGrid s (fun g => { g with kernel := f g.kernel })
def testTeam (s : State) (f : Team → Team) : State := s.setTeam (teamKey 1 0) (f (s.team (teamKey 1 0)))
def testCtx (s : State) (f : Ctx → Ctx) : State := s.setCtx 0 (f (s.ctx 0))

/-- Every instruction of a list is issued by a party at rest in the state given with it, and has what the statement asks of it. -/
theorem test_all_meet {α : Type} (l : List α) (i : α → Instr) (s : α → State) (p : α → Bool)
    (h : l.all (fun e => testReady (i e) (s e) && p e) = true) (e : α) (he : e ∈ l) :
    ((testParty (s e)).Issues (i e) (s e) ∧ (testParty (s e)).Calm) ∧ p e = true := by
  have hh := List.all_eq_true.1 h e he
  rw [Bool.and_eq_true] at hh
  exact ⟨test_ready_meets _ _ hh.1, hh.2⟩

/-- The worked examples of R106: MULH under n32, DIV by zero under i32, ABS under i8x4 with sat; a wrap and a clamp under i32 (R87). -/
theorem test_integer_arithmetic :
    (aluWord .mulh 0x10 0x80000000 0x80000000 0 1).x = 0x40000000
    ∧ aluWord .div 0x00 7 0 0 1 = ⟨0xFFFFFFFF, Fpx.idz, 1⟩
    ∧ aluWord .abs 0x1070 0x80FF0102 0 0 1 = ⟨0x7F010102, Fpx.satd, 1⟩
    ∧ (aluWord .add 0x00 0x7FFFFFFF 1 0 1).x = 0x80000000
    ∧ aluWord .add 0x1000 0x7FFFFFFF 1 0 1 = ⟨0x7FFFFFFF, Fpx.satd, 1⟩
    ∧ (aluWord .sub 0x10 0 1 0 1).x = 0xFFFFFFFF ∧ (aluWord .mul 0x00 0xFFFFFFFF 3 0 1).x = 0xFFFFFFFD
    ∧ (aluWord .mac 0x00 3 4 5 1).x = 17 ∧ (aluWord .neg 0x10 1 0 0 1).x = 0xFFFFFFFF
    ∧ (aluWord .rem 0x00 0xFFFFFFF9 2 0 1).x = 0xFFFFFFFF
    ∧ (aluWord .min 0x00 0xFFFFFFFF 1 0 1).x = 0xFFFFFFFF ∧ (aluWord .max 0x10 0xFFFFFFFF 1 0 1).x = 0xFFFFFFFF := by decide +kernel

/-- Binary32 under rne: 1 + 2, 1 / 3, 1 / 0 with DZ, a fused product and sum, and the last place under each rounding (R81, R88, R105). -/
theorem test_float_arithmetic :
    aluWord .add 0x20 0x3F800000 0x40000000 0 1 = ⟨0x40400000, 0, 1⟩
    ∧ aluWord .div 0x20 0x3F800000 0x40400000 0 1 = ⟨0x3EAAAAAB, Fpx.nx, 1⟩
    ∧ aluWord .div 0x20 0x3F800000 0x80000000 0 1 = ⟨0xFF800000, Fpx.dz, 1⟩
    ∧ aluWord .mac 0x20 0x40400000 0x3F000000 0xBFC00000 1 = ⟨0, 0, 1⟩
    ∧ (aluWord .add 0x20 0x3F800000 0x33800000 0 1).x = 0x3F800000
    ∧ (aluWord .add 0x420 0x3F800000 0x33800000 0 1).x = 0x3F800001
    ∧ (aluWord .sub 0x220 0x3F800000 0x33000000 0 1).x = 0x3F7FFFFF
    ∧ aluWord .mul 0x20 0x7F000000 0x7F000000 0 1 = ⟨0x7F800000, Fpx.of ||| Fpx.nx, 1⟩
    ∧ (aluWord .min 0x20 0x80000000 0 0 1).x = 0x80000000
    ∧ aluWord .sub 0x20 0x7F800000 0x7F800000 0 1 = ⟨0x7FC00000, Fpx.nv, 1⟩ := by decide +kernel

/-- Stochastic rounding draws once, from state 1 to 0x00042021, whatever the result (R89). -/
theorem test_stochastic_draw :
    aluWord .add 0xA20 0x3F800000 0x40000000 0 1 = ⟨0x40400000, 0, 0x00042021⟩ := by decide +kernel

/-- The examples of R108: RSQ of 4, EXP2 of 4 and -2 under f16x2; exact powers and roots, the corners, and tanh 1. -/
theorem test_transcendentals :
    aluWord .rsq 0x20 0x40800000 0 0 1 = ⟨0x3F000000, 0, 1⟩ ∧ aluWord .exp2 0x40 0x4400C000 0 0 1 = ⟨0x4C003400, 0, 1⟩
    ∧ aluWord .rcp 0x20 0x40000000 0 0 1 = ⟨0x3F000000, 0, 1⟩ ∧ aluWord .sqrt 0x20 0x40800000 0 0 1 = ⟨0x40000000, 0, 1⟩
    ∧ aluWord .log2 0x20 0x41000000 0 0 1 = ⟨0x40400000, 0, 1⟩ ∧ aluWord .log2 0x20 0 0 0 1 = ⟨0xFF800000, Fpx.dz, 1⟩
    ∧ aluWord .rsq 0x20 0xFF800000 0 0 1 = ⟨0x7FC00000, Fpx.nv, 1⟩ ∧ aluWord .tanh 0x20 0xFF800000 0 0 1 = ⟨0xBF800000, 0, 1⟩ := by
  decide +kernel

theorem test_tanh_of_one : aluWord .tanh 0x20 0x3F800000 0 0 1 = ⟨0x3F42F7D6, Fpx.nx, 1⟩ := by decide +kernel

/-- The examples of R109 to R111, and the shifts by 32 and more. -/
theorem test_bit_operations :
    bfxWord 0x00 0x00001F00 0x00000508 = 0xFFFFFFFF ∧ bfxWord 0x10 0x00001F00 0x00000508 = 0x1F
    ∧ prmtWord 0xAABBCCDD 0x00000123 0 = 0xDDCCBBAA ∧ bitWord .popc 0xF0F00001 0 = 9
    ∧ bitWord .shl 1 32 = 0 ∧ bitWord .shl 1 31 = 0x80000000 ∧ bitWord .sar 0x80000000 40 = 0xFFFFFFFF ∧ bitWord .shr 0x80000000 31 = 1
    ∧ bitWord .rot 0x80000001 33 = 3 ∧ bitWord .clz 1 0 = 31 ∧ bitWord .brev 1 0 = 0x80000000 ∧ bitWord .andn 0xFF 0x0F = 0xF0
    ∧ bfiWord 0xAB 0x0808 0x11111111 = 0x1111AB11 := by decide +kernel

/-- The worked example of R113 and those of R86: conversions into and out of E4M3, into DYAD8, and an integer that does not fit. -/
theorem test_conversions :
    (cvtWord (.flt .e4m3) 0x20 0x3F800000 0 0 1).x = 0x38 ∧ cvtWord (.flt .e4m3) 0x20 0x43960000 1 0x38 1 = ⟨0x7938, Fpx.nx, 1⟩
    ∧ (cvtWord (.flt .e4m3) 0x20 0xBF000000 2 0x7938 1).x = 0x00B07938 ∧ (cvtWord (.flt .f32) 0x90 0x00B07938 1 0 1).x = 0x43900000
    ∧ (cvtWord .dyad 0x20 0x3F000000 0 0 1).x = 0x09 ∧ (cvtWord .dyad 0x20 0x3F400000 0 0 1).x = 0x0A
    ∧ (cvtWord .dyad 0x20 0xC0000000 0 0 1).x = 0x88 ∧ (cvtWord (.flt .f32) 0xC0 0xB1 0 0 1).x = 0x3EC00000
    ∧ (cvtWord (.int 8 true) 0x00 0x000000C8 0 0 1).x = 0xC8 ∧ cvtWord (.int 8 true) 0x1000 0x000000C8 0 0 1 = ⟨0x7F, Fpx.satd, 1⟩
    ∧ (cvtWord (.flt .bf16) 0x20 0x3F800000 1 0 1).x = 0x3F800000 ∧ (cvtWord (.flt .f16) 0x20 0x3F800000 0 0 1).x = 0x3C00
    ∧ (cvtWord (.flt .e5m2) 0x20 0x3F800000 0 0 1).x = 0x3C ∧ (cvtWord (.flt .e2m1) 0x20 0x3F800000 0 0 1).x = 0x2
    ∧ (cvtWord (.int 32 true) 0x20 0x40200000 0 0 1).x = 2 ∧ (cvtWord (.int 32 false) 0x20 0x40200000 0 0 1).x = 2
    ∧ (cvtWord (.int 8 false) 0x20 0x40200000 3 0 1).x = 0x02000000 := by decide +kernel

/-- The example of R115, and the order of signed and natural words, of zeros and of NaN. -/
theorem test_compares :
    cmpWord .lt 0x30 0x3F804000 0x40004040 = (true, 0) ∧ (cmpWord .lt 0x00 0xFFFFFFFF 1).1 = true ∧ (cmpWord .lt 0x10 0xFFFFFFFF 1).1 = false
    ∧ (cmpWord .eq 0x20 0x80000000 0).1 = true ∧ cmpWord .ne 0x20 0x7FC00000 0 = (true, 0) ∧ cmpWord .ge 0x20 0x7FC00000 0 = (false, Fpx.nv)
    ∧ (cmpWord .unord 0x20 0x7FC00000 0).1 = true ∧ (cmpWord .ord 0x00 1 2).1 = true ∧ (cmpWord .le 0x00 1 1).1 = true
    ∧ (cmpWord .gt 0x00 1 1).1 = false := by decide +kernel

/-- Instructions of the compute entries, each with a MODE under which its decode checks pass. -/
def testCompute : List (Word × Instr) :=
  let f : RForm := ⟨false, .vreg 2, .vreg 1, .sreg 1⟩
  let u : RForm := ⟨false, .vreg 2, .vreg 1, .vreg 0⟩
  let p : RForm := ⟨false, .sreg 4, .preg 1, .vreg 0⟩
  let k : KForm := ⟨.vreg 3, 5⟩
  [(7, .add f), (7, .sub f), (7, .mul ⟨false, .sreg 4, .sreg 1, .sreg 2⟩), (7, .mulh f), (7, .mac f), (7, .min f), (7, .max f), (7, .abs u),
   (7, .neg u), (7, .div f), (7, .rem f), (0x27, .rcp u), (0x27, .rsq u), (0x27, .sqrt u), (0x27, .exp2 u), (0x27, .log2 u), (0x27, .tanh u)]
  ++ [(7, .and_ f), (7, .or_ f), (7, .xor_ f), (7, .andn f), (7, .shl f), (7, .shr f), (7, .sar f), (7, .rot f), (7, .popc u), (7, .clz u),
   (7, .brev u), (7, .bfx f), (7, .bfi f), (7, .prmt f), (7, .cvtF32 f), (7, .cvtBf16 f), (7, .cvtF16 f), (7, .cvtE4m3 f), (7, .cvtE5m2 f),
   (7, .cvtE2m1 f), (7, .cvtDy8 f), (7, .cvtI32 f), (7, .cvtN32 f), (7, .cvtI8 f), (7, .cvtN8 f)]
  ++ [(7, .shfl f), (7, .shflx f), (7, .shflu f), (7, .shfld f), (7, .mov ⟨true, .vreg 2, .vreg 1, .vreg 0⟩), (7, .ldi k), (7, .ldih k),
   (7, .ldc ⟨.sreg 4, 0⟩), (7, .vany p), (7, .vall p), (7, .vbal p), (7, .bcast ⟨false, .sreg 4, .vreg 1, .sreg 2⟩), (7, .srd ⟨.sreg 4, 5⟩),
   (7, .srd ⟨.vreg 4, 9⟩), (7, .cntrd ⟨.sreg 4, 0⟩), (7, .cntrd ⟨.sreg 4, 5⟩), (7, .aqst ⟨false, .sreg 4, .sreg 1, .vreg 0⟩),
   (7, .tget ⟨false, .sreg 4, .sreg 1, .sreg 2⟩), (7, .clid ⟨false, .sreg 4, .vreg 0, .vreg 0⟩), (7, .maprd ⟨.sreg 4, 5⟩)]

/-- One of them placed, with a constant, an allow-list of events 0 and 2, and registers. -/
def testComputeAt (e : Word × Instr) : State :=
  let s := testKernel (testPlaced e.2) (fun k => { k with consts := [100000] })
  { testGroup s (fun g => { testRegs 5 2 9 g with mode := e.1, p := [(1, 0xF0)] }) with regs := [(0x2000, 0x80028000)] }

theorem witness_ComputeResultsLand (e : Word × Instr) (he : e ∈ testCompute) :
    ∃ (s : State) (x : Ex) (nw : Bool) (d : Operand) (val : Nat → Word),
      x.Issues e.2 s ∧ x.Calm ∧ x.value? e.2 = some (nw, d, val) := by
  have h := test_all_meet testCompute (·.2) testComputeAt (fun e => ((testParty (testComputeAt e)).value? e.2).isSome)
    (by decide +kernel) e he
  obtain ⟨v, hv⟩ := Option.isSome_iff_exists.1 h.2
  exact ⟨_, _, v.1, v.2.1, v.2.2, h.1.1, h.1.2, hv⟩

/-- Compares and predicate operations, into a predicate, into p7 and under nw. -/
def testPredicates : List Instr :=
  let f : RForm := ⟨false, .preg 2, .vreg 1, .sreg 1⟩
  let p : RForm := ⟨false, .preg 2, .preg 1, .preg 3⟩
  [.cmpEq f, .cmpNe f, .cmpLt f, .cmpLe f, .cmpGt f, .cmpGe ⟨false, .preg 7, .vreg 1, .sreg 1⟩, .cmpOrd f, .cmpUnord ⟨true, .preg 2, .vreg 1, .sreg 1⟩,
   .pand p, .por p, .pxor p, .pnot ⟨false, .preg 2, .preg 1, .vreg 0⟩, .pmov ⟨false, .preg 2, .vreg 1, .vreg 0⟩]

def testPredicateAt (i : Instr) : State := testGroup (testPlaced i) (fun g => { testRegs 5 2 9 g with p := [(1, 0xF0), (2, 0x0F)] })

theorem witness_PredicateResultsLand (i : Instr) (hi : i ∈ testPredicates) :
    ∃ (s : State) (x : Ex) (nw : Bool) (d : Operand) (val : Nat → Bool), x.Issues i s ∧ x.Calm ∧ x.bit? i = some (nw, d, val) := by
  have h := test_all_meet testPredicates id testPredicateAt (fun i => ((testParty (testPredicateAt i)).bit? i).isSome) (by decide +kernel) i hi
  obtain ⟨v, hv⟩ := Option.isSome_iff_exists.1 h.2
  exact ⟨_, _, v.1, v.2.1, v.2.2, h.1.1, h.1.2, hv⟩

theorem witness_WordArithmeticWraps : ∃ m a b d : Nat, field m 8 4 ≤ 1 ∧ bit m 12 = false ∧ a < 2 ^ 32 ∧ b < 2 ^ 32 ∧ d < 2 ^ 32 :=
  ⟨0x10, 2 ^ 32 - 1, 0, 1, by decide +kernel⟩

theorem witness_DivisionByZeroNeverTraps :
    (∃ m a : Nat, field m 8 4 ≤ 1 ∧ field m 8 4 ≤ 8 ∧ a < 2 ^ 32) ∧ ∃ m a : Nat, 5 ≤ field m 8 4 ∧ field m 8 4 ≤ 8 ∧ a < 2 ^ 32 :=
  ⟨⟨0x10, 2 ^ 32 - 1, by decide +kernel⟩, ⟨0x80, 0, by decide +kernel⟩⟩

theorem witness_ShiftsByAnyAmount : (∃ (b : Word) (i : Nat), i < 32 ∧ 32 ≤ b.toNat) ∧ ∃ (b : Word) (i : Nat), i < 32 ∧ b.toNat < 32 :=
  ⟨⟨32, 31, by decide +kernel⟩, ⟨31, 0, by decide +kernel⟩⟩

/-- A state at rest for one instruction, and one more premise about its party, checked together. -/
theorem test_meet (i : Instr) (s : State) (p : Ex → Prop) (h : testReady i s = true) (hp : p (testParty s)) :
    ∃ (s : State) (x : Ex), x.Issues i s ∧ x.Calm ∧ p x :=
  ⟨s, testParty s, (test_ready_meets i s h).1, (test_ready_meets i s h).2, hp⟩

def testLwr : RForm := ⟨false, .vreg 9, .sreg 1, .sreg 2⟩
def testSel : RForm := ⟨false, .vreg 2, .vreg 1, .sreg 1⟩

theorem witness_LwrWritesOneLane : ∃ (f : RForm) (s : State) (x : Ex) (n : Fin 64), x.Issues (.lwr f) s ∧ x.Calm ∧ f.d = .vreg n :=
  have h := test_ready_meets (.lwr testLwr) (testGroup (testPlaced (.lwr testLwr)) (testRegs 5 33 0)) (by decide +kernel)
  ⟨testLwr, _, _, 9, h.1, h.2, rfl⟩

theorem witness_SelChoosesBySource : ∃ (f : RForm) (s : State) (x : Ex), x.Issues (.sel f) s ∧ x.Calm :=
  have h := test_ready_meets (.sel testSel) (testGroup (testPlaced (.sel testSel)) (fun g => { testRegs 5 2 0 g with mode := 1, p := [(1, 0xF0)] }))
    (by decide +kernel)
  ⟨testSel, _, _, h.1, h.2⟩

theorem witness_ReadsWithAnEffect :
    (∃ (f : KForm) (s : State) (x : Ex), x.Issues (.srd f) s ∧ x.Calm ∧ f.k.toNat = 3)
    ∧ ∃ (f : KForm) (s : State) (x : Ex), x.Issues (.swr f) s ∧ x.Calm ∧ f.k.toNat = 0x27 ∧ x.go = true ∧ bit (x.rdU f.d).toNat 2 = true :=
  have h1 := test_ready_meets (.srd ⟨.sreg 3, 3⟩) (testPlaced (.srd ⟨.sreg 3, 3⟩)) (by decide +kernel)
  let s3 := testGroup (testSup (encode (.swr ⟨.sreg 3, 0x27⟩))) (testRegs 5 2 6)
  have h3 := test_ready_meets (.swr ⟨.sreg 3, 0x27⟩) s3 (by decide +kernel)
  ⟨⟨⟨.sreg 3, 3⟩, _, _, h1.1, h1.2, by decide⟩,  ⟨⟨.sreg 3, 0x27⟩, s3, _, h3.1, h3.2, by decide, by decide +kernel, by decide +kernel⟩⟩

/-- One instruction followed by eight NOP, so that short transfers stay in the code. -/
def testCode (i : Instr) : State := testAt (encode i ++ List.replicate 8 0x00400000)

/-- A guard that is false in every lane: p0, which is 0. -/
def testNoGo (g : Group) : Group := { g with mode := 0 }

/-- Instructions that turn the party, one for each way that PartyTurns names, with what their state needs. -/
def testTurns : List (Instr × (State → State)) :=
  let u : RForm := ⟨false, .vreg 0, .vreg 0, .vreg 0⟩
  let regs := fun (s : State) => testGroup s (testRegs 3 1 0x1F)
  let noGo := fun (s : State) => testGroup s (fun g => testNoGo (testRegs 3 1 0x1F g))
  let split := fun (f : Split → Split) (s : State) => testSplit (regs s) f
  let loop := fun (c : Option Nat) (n : Nat) => split (fun p => { p with loops := [⟨0, 12, c, n, some 9⟩] })
  let limits := fun (l : Limit) (s : State) => testKernel (regs s) (fun k => { k with limits := [l] })
  [(.nop u, id), (.phase ⟨.vreg 0, 2⟩, id), (.mset ⟨.vreg 0, 0x7FFF⟩, id), (.msetr ⟨false, .vreg 0, .sreg 3, .vreg 0⟩, regs),
   (.live ⟨.vreg 0, 0x1FFF⟩, id), (.swr ⟨.sreg 3, 0⟩, regs), (.swr ⟨.sreg 3, 1⟩, regs), (.swr ⟨.vreg 1, 9⟩, regs), (.swr ⟨.sreg 3, 10⟩, regs),
   (.swr ⟨.sreg 3, 16⟩, noGo), (.swr ⟨.sreg 3, 16⟩, regs)]
  ++ [(.jmark ⟨.vreg 0, 5⟩, regs), (.br 4, regs), (.br 4, noGo), (.br 0, regs), (.call 3, regs), (.call 3, noGo), (.call 3, limits ⟨false, 12, 2, 1, 0⟩),
   (.callt ⟨false, .vreg 0, .sreg 1, .sreg 2⟩, fun s => testKernel (regs s) (fun k => { k with jtabs := [(3, [8, 12])] })),
   (.callt ⟨false, .vreg 0, .sreg 1, .sreg 2⟩, noGo), (.ret u, split (fun p => { p with rets := [⟨8, 4⟩] })), (.ret u, noGo)]
  ++ [(.lpb ⟨false, .vreg 0, .sreg 1, .vreg 0⟩, limits ⟨false, 0, 0, 7, 16⟩), (.lpb ⟨false, .vreg 0, .zero, .vreg 0⟩, limits ⟨false, 0, 0, 7, 16⟩),
   (.lpb ⟨false, .vreg 0, .sreg 9, .vreg 0⟩, limits ⟨false, 0, 0, 7, 16⟩), (.lpe 2, loop (some 3) 2), (.lpe 2, loop (some 3) 3), (.lpe 2, loop none 1),
   (.lbrk u, loop none 1), (.lbrk u, noGo), (.yld u, noGo), (.yld u, split (fun p => { p with ticket := some 8 })), (.bkpt u, noGo),
   (.trap ⟨.vreg 0, 5⟩, noGo)]

def testTurnAt (e : Instr × (State → State)) : State := e.2 (testCode e.1)

theorem witness_PartyTurns (e : Instr × (State → State)) (he : e ∈ testTurns) :
    ∃ (s : State) (x : Ex) (g : Group) (sp : Split), x.Issues e.1 s ∧ x.Calm ∧ x.turn? e.1 = some (g, sp) := by
  have h := test_all_meet testTurns (·.1) testTurnAt (fun e => ((testParty (testTurnAt e)).turn? e.1).isSome) (by decide +kernel) e he
  obtain ⟨v, hv⟩ := Option.isSome_iff_exists.1 h.2
  exact ⟨_, _, v.1, v.2, h.1.1, h.1.2, hv⟩

/-- SWR of TRAPPC and SUPSTAT, and of MODE and FPX as a handler reaches the saved ones, and a branch of a handler (R334, R336). -/
def testSupTurns : List (Instr × (State → State)) :=
  let regs := fun (s : State) => testGroup s (testRegs 3 1 3)
  [(.swr ⟨.sreg 3, 0x21⟩, regs), (.swr ⟨.sreg 3, 0x27⟩, regs), (.swr ⟨.sreg 3, 0⟩, regs), (.swr ⟨.sreg 3, 10⟩, regs), (.jmark ⟨.vreg 0, 0⟩, regs),
   (.br 0, regs)]

def testSupTurnAt (e : Instr × (State → State)) : State := e.2 (testSup (encode e.1))

theorem witness_PartyTurns_in_a_handler (e : Instr × (State → State)) (he : e ∈ testSupTurns) :
    ∃ (s : State) (x : Ex) (g : Group) (sp : Split), x.Issues e.1 s ∧ x.Calm ∧ x.turn? e.1 = some (g, sp) := by
  have h := test_all_meet testSupTurns (·.1) testSupTurnAt (fun e => ((testParty (testSupTurnAt e)).turn? e.1).isSome) (by decide +kernel) e he
  obtain ⟨v, hv⟩ := Option.isSome_iff_exists.1 h.2
  exact ⟨_, _, v.1, v.2, h.1.1, h.1.2, hv⟩

theorem test_load (s : State) (h : (Ex.load s).isSome = true) : Ex.load s = some (testParty s) := by
  obtain ⟨x, hx⟩ := Option.isSome_iff_exists.1 h
  simp [testParty, hx]

/-- The premise `User` of the statements, as a check. -/
def testUser (x : Ex) : Bool := !x.sup && decide (x.mate = none) && !x.s.checked

theorem test_user_meets (x : Ex) (h : testUser x = true) : x.User := by
  simp only [testUser, Bool.and_eq_true, Bool.not_eq_true', decide_eq_true_eq] at h
  exact ⟨h.1.1, h.1.2, h.2⟩

/-- The premises `Plain`, `Counts` and `Room`, as checks. -/
def testPlain (x : Ex) : Bool := decide (x.s.coms = []) && decide ((x.s.cluster x.cluster).qnt = [])
def testCounts (x : Ex) : Bool := decide (x.s.epochOf x.gid + 2 < 2 ^ 48) && decide ((x.s.cluster x.cluster).kcount + 2 < 2 ^ 48)

def testRoom (x : Ex) (n : Nat) : Bool := decide (x.s.epochOf x.gid + n < 2 ^ 48) && decide ((x.s.cluster x.cluster).kcount + n < 2 ^ 48)

theorem test_plain_meets (x : Ex) (h : testPlain x = true) : x.Plain := by
  simp only [testPlain, Bool.and_eq_true, decide_eq_true_eq] at h
  exact ⟨h.1, h.2⟩

theorem test_counts_meet (x : Ex) (h : testCounts x = true) : x.Counts := by
  simp only [testCounts, Bool.and_eq_true, decide_eq_true_eq] at h
  exact ⟨h.1, h.2⟩

theorem test_room_meets (x : Ex) (n : Nat) (h : testRoom x n = true) : x.Room n := by
  simp only [testRoom, Bool.and_eq_true, decide_eq_true_eq] at h
  exact ⟨h.1, h.2⟩

theorem witness_ExecWriteKeepsOtherLanes : ∃ (x : Ex) (l : Nat), Word.has x.g.dead l = true :=
  ⟨testParty (testGroup (testAt []) (fun g => { g with dead := 1 })), 0, by decide +kernel⟩

/-- Words whose checks fail, in the order of R68: an operand that the entry does not admit, a reserved MODE type, an extended
register not held, an absent register, a stale latch, an RO register and a supervisor register. -/
def testBad : List (Instr × Word × List Nat) :=
  [(.add ⟨false, .preg 1, .vreg 0, .vreg 0⟩, 7, []), (.add ⟨false, .vreg 1, .vreg 0, .vreg 0⟩, 0xF7, []), (.add ⟨false, .vreg 1, .vreg 32, .vreg 0⟩, 7, []),
   (.add ⟨false, .vreg 1, .vreg 2, .vreg 0⟩, 7, [2]), (.add ⟨false, .vreg 1, .latch 0, .vreg 0⟩, 7, []), (.swr ⟨.sreg 1, 3⟩, 7, []),
   (.swr ⟨.sreg 1, 0x21⟩, 7, [])]

def testBadAt (e : Instr × Word × List Nat) : State := testGroup (testPlaced e.1) (fun g => { g with mode := e.2.1, absent := e.2.2 })

theorem witness_FailedChecksEnterTheHandler (e : Instr × Word × List Nat) (he : e ∈ testBad) :
    ∃ (s : State) (x : Ex) (c : Cause), encode e.1 ≠ [] ∧ e.1.isCommand = false ∧ Ex.load s = some x ∧ x.User ∧ x.decodeCheck e.1 = some c := by
  have hh : testBad.all (fun e => let x := testParty (testBadAt e)
      (encode e.1 != []) && !e.1.isCommand && (Ex.load (testBadAt e)).isSome && testUser x && (x.decodeCheck e.1).isSome) = true := by decide +kernel
  have h := List.all_eq_true.1 hh e he
  simp only [Bool.and_eq_true, bne_iff_ne, Bool.not_eq_true'] at h
  obtain ⟨⟨⟨⟨h1, h2⟩, h3⟩, h4⟩, h5⟩ := h
  obtain ⟨c, hc⟩ := Option.isSome_iff_exists.1 h5
  exact ⟨_, _, c, h1, h2, test_load _ h3, test_user_meets _ h4, hc⟩

theorem witness_TrapInstructionsEnterTheHandler :
    (∃ (f : RForm) (s : State) (x : Ex), x.Issues (.bkpt f) s ∧ x.User ∧ x.go = true)
    ∧ ∃ (f : KForm) (s : State) (x : Ex), x.Issues (.trap f) s ∧ x.User ∧ x.go = true :=
  have h1 := test_ready_meets (.bkpt ⟨false, .vreg 0, .vreg 0, .vreg 0⟩) (testAt [0x25800000]) (by decide +kernel)
  have h2 := test_ready_meets (.trap ⟨.vreg 0, 5⟩) (testAt [0x42800005]) (by decide +kernel)
  ⟨⟨_, _, _, h1.1, test_user_meets _ (by decide +kernel), by decide +kernel⟩,
    ⟨_, _, _, h2.1, test_user_meets _ (by decide +kernel), by decide +kernel⟩⟩

theorem witness_WordsThatAreNoInstructionTrap :
    (∃ (s : State) (x : Ex), x.User ∧ x.Issues .illegalZero s)
    ∧ (∃ (w : Word) (s : State) (x : Ex), x.User ∧ x.Issues (.illegalOpcode w) s)
    ∧ ∃ (w : Word) (s : State) (x : Ex), x.User ∧ x.Issues (.streamWord w) s :=
  have h1 := test_ready_meets .illegalZero (testAt [0]) (by decide +kernel)
  have h2 := test_ready_meets (.illegalOpcode 0x6C400000) (testAt [0x6C400000]) (by decide +kernel)
  have h3 := test_ready_meets (.streamWord 0xC2800000) (testAt [0xC2800000]) (by decide +kernel)
  ⟨⟨_, _, test_user_meets _ (by decide +kernel), h1.1⟩, ⟨_, _, _, test_user_meets _ (by decide +kernel), h2.1⟩,
    ⟨_, _, _, test_user_meets _ (by decide +kernel), h3.1⟩⟩

theorem witness_TrapInAHandlerEndsTheContext : ∃ (i : Instr) (s : State) (x : Ex) (c : Cause) (k : Nat) (g : Grid),
    encode i ≠ [] ∧ i.isCommand = false ∧ Ex.load s = some x ∧ x.sup = true ∧ x.decodeCheck i = some c
    ∧ Tab.find s.grids k = some g ∧ g.ctx = x.ctxId :=
  let i : Instr := .add ⟨false, .preg 1, .vreg 0, .vreg 0⟩
  let s := testSup (encode i)
  ⟨i, s, testParty s, .illegalOperand, 1, s.grid 1, by decide +kernel, by decide +kernel, test_load _ (by decide +kernel), by decide +kernel,
    by decide +kernel, by decide +kernel, by decide +kernel⟩

/-- What a handler has saved of its split. -/
def testSaved : Saved := { entry := 0, mode := modeReset, fpx := 0, latches := freshLatches, loops := [], rets := [], count := 0, ticket := none, cycles := 0, pc := 0 }

theorem witness_RttReturns : ∃ (f : RForm) (s : State) (x : Ex) (sv : Saved), x.Issues (.rtt f) s ∧ x.Calm ∧ x.go = true ∧ x.g.mcc = false ∧
    x.g.saved = some sv ∧ sv.entry = x.sp.entry ∧ x.g.trapc.toNat % 128 ≠ Cause.hostAbort.code ∧ x.g.trapq = [] ∧ x.g.apend = [] :=
  have h := test_ready_meets (.rtt ⟨false, .vreg 0, .vreg 0, .vreg 0⟩) (testSup [0x7C000000]) (by decide +kernel)
  ⟨_, _, _, testSaved, h.1, h.2, by decide +kernel, by decide +kernel, by decide +kernel, by decide +kernel, by decide +kernel, by decide +kernel,
    by decide +kernel⟩

/-- A handler about to issue KILL with a mode in s1. -/
def testKill (m : Word) : State := testGroup (testSup [0x7D002080]) (testRegs m 0 0)

theorem witness_KillModes (m : Word) (hm : m ∈ [0, 1, 2, 3]) : ∃ (f : RForm) (s : State) (x : Ex) (sv : Saved), x.Issues (.kill f) s ∧ x.Calm ∧
    x.go = true ∧ x.g.mcc = false ∧ x.g.saved = some sv ∧ sv.entry = x.sp.entry ∧ x.rdU f.a = m ∧ x.g.owedBy x.sp.entry = none ∧ x.Counts := by
  have hh : [0, 1, 2, 3].all (fun m : Word => testReady (.kill ⟨false, .vreg 0, .sreg 1, .vreg 0⟩) (testKill m) &&
      (let x := testParty (testKill m)
       x.go && !x.g.mcc && decide (x.g.saved = some testSaved) && decide (testSaved.entry = x.sp.entry) && decide (x.rdU (.sreg 1) = m)
         && decide (x.g.owedBy x.sp.entry = none) && testCounts x)) = true := by decide +kernel
  have h := List.all_eq_true.1 hh m hm
  simp only [Bool.and_eq_true, decide_eq_true_eq, Bool.not_eq_true'] at h
  obtain ⟨h1, ⟨⟨⟨⟨⟨⟨h2, h3⟩, h4⟩, h5⟩, h6⟩, h7⟩, h8⟩⟩ := h
  have h0 := test_ready_meets _ _ h1
  exact ⟨_, _, _, testSaved, h0.1, h0.2, h2, h3, h4, h5, h6, h7, test_counts_meet _ h8⟩

/-- A kernel of three clauses, of bytes 0 to 3, 4 to 23 and 24 to 31 of the code, each with a station of its own; the group stands on the
first, and `n` packets hold places of the others. -/
def testSpeech (n : Nat) (s : State) : State :=
  let s := testKernel s (fun k => { k with clauses := [⟨0, 0, 4, 1⟩, ⟨1, 4, 20, 1⟩, ⟨2, 24, 8, 1⟩] })
  s.setGang 1 { s.gang 1 with stations := [(0, ⟨0, 0, [], [], 0⟩), (1, ⟨1, 0, List.replicate n 9, [], 0⟩), (2, ⟨2, 0, List.replicate n 9, [], 0⟩)] }

/-- The premises `travelsLeft` and `mayDepart`, as checks. -/
def testLeft (x : Ex) (item : Option Word) (more : Nat) : Bool :=
  match x.travelLimit item with
  | some (key, n) => decide (Tab.read x.grid.travels key 0 + more < n)
  | none => true

theorem test_left_meets (x : Ex) (item : Option Word) (h : testLeft x item 0 = true) : x.travelsLeft item := by
  intro key n hk
  simpa [testLeft, hk] using h

def testMay (x : Ex) (pc : Word) (item : Option Word) (k : Nat) : Bool :=
  testLeft x item 0 && match x.grid.kernel.clauseAt pc with
    | some c => decide (chooseStation (x.gang.openStations c.n) x.g.team x.g.grp pc.toNat = some k)
    | none => false

theorem test_may_meets (x : Ex) (pc : Word) (item : Option Word) (k : Nat) (h : testMay x pc item k = true) : x.mayDepart pc item k := by
  unfold testMay at h
  rw [Bool.and_eq_true] at h
  refine ⟨test_left_meets x item h.1, ?_⟩
  cases hc : x.grid.kernel.clauseAt pc with
  | none => simp [hc] at h
  | some c => exact ⟨c, rfl, by simpa [hc] using h.2⟩

/-- Transfers of the whole split out of the group's clause, with what their state needs. -/
def testTravels : List (Instr × (State → State)) :=
  let regs := fun (s : State) => testSpeech 0 (testGroup s (testRegs 3 1 0x1F))
  let noGo := fun (s : State) => testSpeech 0 (testGroup s (fun g => testNoGo (testRegs 3 1 0x1F g)))
  let split := fun (f : Split → Split) (s : State) => testSplit (regs s) f
  let loop := fun (c : Option Nat) (n : Nat) => split (fun p => { p with loops := [⟨0, 12, c, n, some 9⟩] })
  let limits := fun (l : Limit) (s : State) => testKernel s (fun k => { k with limits := k.limits ++ [l] })
  [(.br 4, regs), (.br 6, fun s => limits ⟨false, 0, 3, 1, 0⟩ (regs s)), (.call 3, regs), (.ret ⟨false, .vreg 0, .vreg 0, .vreg 0⟩, split (fun p => { p with rets := [⟨8, 4⟩] })),
   (.lpb ⟨false, .vreg 0, .zero, .vreg 0⟩, fun s => limits ⟨false, 0, 0, 7, 16⟩ (noGo s)),
   (.lpb ⟨false, .vreg 0, .sreg 9, .vreg 0⟩, fun s => limits ⟨false, 0, 0, 7, 16⟩ (regs s)), (.lpe 2, loop (some 3) 2), (.lpe 2, loop (some 3) 3),
   (.lbrk ⟨false, .vreg 0, .vreg 0, .vreg 0⟩, loop none 1)]

/-- What a state has of the premises of a travel, for a check of the rest. -/
def testGoes (i : Instr) (x : Ex) (p : Split → Option Word → Bool → Bool) : Bool :=
  match x.goes? i with
  | some (sig, item, ret) => x.travels sig.pc && p sig item ret
  | none => false

theorem test_goes_meets (i : Instr) (x : Ex) (p : Split → Option Word → Bool → Bool) (h : testGoes i x p = true) :
    ∃ sig item ret, x.goes? i = some (sig, item, ret) ∧ x.travels sig.pc = true ∧ p sig item ret = true := by
  unfold testGoes at h
  cases hg : x.goes? i with
  | none => simp [hg] at h
  | some v => exact ⟨v.1, v.2.1, v.2.2, rfl, by simpa [hg, Bool.and_eq_true] using h⟩

theorem witness_PartyTurns_travels (e : Instr × (State → State)) (he : e ∈ testTravels) :
    ∃ (s : State) (x : Ex) (sig : Split) (item : Option Word) (ret : Bool) (k : Nat), x.Issues e.1 s ∧ x.Calm ∧ x.goes? e.1 = some (sig, item, ret) ∧
      x.travels sig.pc = true ∧ x.mayDepart sig.pc item k ∧ x.Plain ∧ x.Counts ∧ x.g.owedBy x.sp.entry = none := by
  have h := test_all_meet testTravels (·.1) testTurnAt (fun e => testPlain (testParty (testTurnAt e)) && testCounts (testParty (testTurnAt e)) &&
    decide ((testParty (testTurnAt e)).g.owedBy (testParty (testTurnAt e)).sp.entry = none) &&
    testGoes e.1 (testParty (testTurnAt e)) (fun sig item _ => (List.range 3).any (testMay (testParty (testTurnAt e)) sig.pc item)))
    (by decide +kernel) e he
  obtain ⟨h0, h⟩ := h
  simp only [Bool.and_eq_true, decide_eq_true_eq] at h
  obtain ⟨⟨⟨h1, h2⟩, h3⟩, h4⟩ := h
  obtain ⟨sig, item, ret, hg, ht, hk⟩ := test_goes_meets _ _ _ h4
  obtain ⟨k, -, hk⟩ := List.any_eq_true.1 hk
  exact ⟨_, _, sig, item, ret, k, h0.1, h0.2, hg, ht, test_may_meets _ _ _ _ hk, test_plain_meets _ h1, test_counts_meet _ h2, h3⟩

/-- A branch to an address of no clause, one whose limit is reached, one to a clause whose station is full, and a jump-table call out of
the clause. -/
def testLost (n : Nat) : Instr × State :=
  match n with
  | 0 => (.br 8, testSpeech 0 (testCode (.br 8)))
  | 1 => (.br 4, testKernel (testSpeech 0 (testCode (.br 4))) (fun k => { k with limits := [⟨false, 0, 3, 0, 0⟩] }))
  | 2 => (.br 4, testSpeech 32 (testCode (.br 4)))
  | _ => (.callt ⟨false, .vreg 0, .sreg 1, .sreg 2⟩, testKernel (testSpeech 0 (testGroup (testCode (.callt ⟨false, .vreg 0, .sreg 1, .sreg 2⟩)) (testRegs 3 1 3)))
      (fun k => { k with jtabs := [(3, [8, 12])] }))

theorem witness_PartyTurns_lost :
    (∃ (i : Instr) (s : State) (x : Ex) (sig : Split) (item : Option Word) (ret : Bool), x.Issues i s ∧ x.Calm ∧ x.goes? i = some (sig, item, ret) ∧
      x.travels sig.pc = true ∧ x.User ∧ x.grid.kernel.clauseAt sig.pc = none)
    ∧ (∀ full : Bool, ∃ (i : Instr) (s : State) (x : Ex) (sig : Split) (item : Option Word) (ret : Bool) (c : Clause), x.Issues i s ∧ x.Calm ∧
        x.goes? i = some (sig, item, ret) ∧ x.travels sig.pc = true ∧ x.User ∧ x.grid.quote = none ∧ x.grid.kernel.clauseAt sig.pc = some c ∧
        if full then x.travelsLeft item ∧ x.gang.openStations c.n = [] else ¬ x.travelsLeft item)
    ∧ ∃ (f : RForm) (s : State) (x : Ex) (t : Word), x.Issues (.callt f) s ∧ x.User ∧ x.go = true ∧ x.jump (x.rdU f.a) (x.rdU f.b) = some t ∧
        x.travels t = true := by
  have h0 := test_ready_meets (testLost 0).1 (testLost 0).2 (by decide +kernel)
  have h1 := test_ready_meets (testLost 1).1 (testLost 1).2 (by decide +kernel)
  have h2 := test_ready_meets (testLost 2).1 (testLost 2).2 (by decide +kernel)
  have h3 := test_ready_meets (testLost 3).1 (testLost 3).2 (by decide +kernel)
  have u := fun n (h : testUser (testParty (testLost n).2) = true) => test_user_meets _ h
  refine ⟨⟨_, _, _, { (testParty (testLost 0).2).sp with pc := 32 }, some 0, false, h0.1, h0.2, by decide +kernel, by decide +kernel, u 0 (by decide +kernel), by decide +kernel⟩, fun full => ?_,
    ⟨_, _, _, 12, h3.1, u 3 (by decide +kernel), by decide +kernel, by decide +kernel, by decide +kernel⟩⟩
  cases full with
  | true => exact ⟨_, _, _, { (testParty (testLost 2).2).sp with pc := 16 }, some 0, false, ⟨1, 4, 20, 1⟩, h2.1, h2.2, by decide +kernel, by decide +kernel, u 2 (by decide +kernel),
      by decide +kernel, by decide +kernel, test_left_meets _ _ (by decide +kernel), by decide +kernel⟩
  | false => exact ⟨_, _, _, { (testParty (testLost 1).2).sp with pc := 16 }, some 0, false, ⟨1, 4, 20, 1⟩, h1.1, h1.2, by decide +kernel, by decide +kernel, u 1 (by decide +kernel),
      by decide +kernel, by decide +kernel, fun h => absurd (h 0 0 (by decide +kernel)) (by decide +kernel)⟩

/-- A branch guarded by p1, true in lanes 4 to 7, under a frame whose JOIN lies at byte 20, on a core with and without free entries. -/
def testSplitAt (i : Instr) (frames : List Frame) : State :=
  testGroup (testCode i) (fun g => { g with mode := 1, p := [(1, 0xF0)], frames := frames })

def testFrame : Frame := { join := 20, loopDepth := 0, retDepth := 0, members := [0], arrived := [], parked := [], sides := [] }

/-- The same with every buffer entry of the pool taken by other splits of the core. -/
def testFullCore (s : State) : State := s.setGroup 1 { placed false none with
  splits := (List.range 48).map (fun n => { Split.start 0 0 1 with entry := 16 + n }) }

/-- The divergent transfers of each kind, with what their split needs. -/
def testDivides : List (Instr × (Split → Split)) :=
  [(.br 4, id), (.call 4, id), (.lpe 2, fun p => { p with loops := [⟨0, 12, some 3, 1, some 9⟩] }), (.lpe 2, fun p => { p with loops := [⟨0, 12, none, 2, none⟩] })]

def testDivideAt (frames : List Frame) (e : Instr × (Split → Split)) : State := testSplit (testSplitAt e.1 frames) e.2

/-- What a state has of the premises of a divergent transfer: which sides travel, and the rest. -/
def testSides (i : Instr) (x : Ex) (a b : Bool) (p : Word → Split → Split → Bool) : Bool :=
  match x.sides? i, x.way with
  | some (tk, ft, pops), .diverges m => x.travels tk.pc == a && (pops && x.travels ft.pc) == b && !x.g.mcc && p m tk ft
  | _, _ => false

theorem test_sides_meets (i : Instr) (x : Ex) (a b : Bool) (p : Word → Split → Split → Bool) (h : testSides i x a b p = true) :
    ∃ m tk ft pops, x.sides? i = some (tk, ft, pops) ∧ x.way = .diverges m ∧ x.travels tk.pc = a ∧ (pops && x.travels ft.pc) = b ∧ x.g.mcc = false ∧
      p m tk ft = true := by
  unfold testSides at h
  split at h
  · rename_i tk ft pops m h1 h2
    simp only [Bool.and_eq_true, beq_iff_eq, Bool.not_eq_true'] at h
    exact ⟨m, tk, ft, pops, h1, h2, h.1.1.1, h.1.1.2, h.1.2, h.2⟩
  · cases h

theorem witness_DivergenceMakesTwoSplits (d : Instr × (Split → Split)) (hd : d ∈ testDivides) :
    ∃ (s : State) (x : Ex) (m : Word) (tk ft : Split) (pops : Bool) (e : Nat) (h : Frame) (rest : List Frame),
      x.Issues d.1 s ∧ x.Calm ∧ x.g.mcc = false ∧ x.sides? d.1 = some (tk, ft, pops) ∧ x.way = .diverges m ∧ x.travels tk.pc = false ∧
      (pops && x.travels ft.pc) = false ∧ x.g.frames = h :: rest ∧ x.freeEntry = some e := by
  have h := test_all_meet testDivides (·.1) (testDivideAt [testFrame, testFrame]) (fun d => let x := testParty (testDivideAt [testFrame, testFrame] d)
    decide (x.g.frames = [testFrame, testFrame]) && decide (x.freeEntry = some 16) && testSides d.1 x false false (fun _ _ _ => true)) (by decide +kernel) d hd
  obtain ⟨h0, h⟩ := h
  simp only [Bool.and_eq_true, decide_eq_true_eq] at h
  obtain ⟨⟨h1, h2⟩, h3⟩ := h
  obtain ⟨m, tk, ft, pops, hs, hw, ha, hb, hm, -⟩ := test_sides_meets _ _ _ _ _ h3
  exact ⟨_, _, m, tk, ft, pops, 16, testFrame, [testFrame], h0.1, h0.2, hm, hs, hw, ha, hb, h1, h2⟩

theorem witness_SerialDivergenceRecordsASide (d : Instr × (Split → Split)) (hd : d ∈ testDivides) :
    (∃ (s : State) (x : Ex) (m : Word) (tk ft : Split) (pops : Bool) (h : Frame) (rest : List Frame), x.Issues d.1 s ∧ x.Calm ∧ x.g.mcc = false ∧
      x.sides? d.1 = some (tk, ft, pops) ∧ x.way = .diverges m ∧ x.travels tk.pc = false ∧ (pops && x.travels ft.pc) = false ∧
      x.g.frames = h :: rest ∧ x.freeEntry = none)
    ∧ ∃ (s : State) (x : Ex) (m : Word) (tk ft : Split) (pops : Bool), x.Issues d.1 s ∧ x.Calm ∧ x.g.mcc = false ∧
      x.sides? d.1 = some (tk, ft, pops) ∧ x.way = .diverges m ∧ x.travels tk.pc = false ∧ (pops && x.travels ft.pc) = false ∧
      x.g.frames = [] ∧ x.User := by
  have h := test_all_meet testDivides (·.1) (fun d => testFullCore (testDivideAt [testFrame] d)) (fun d => let x := testParty (testFullCore (testDivideAt [testFrame] d))
    decide (x.g.frames = [testFrame]) && decide (x.freeEntry = none) && testSides d.1 x false false (fun _ _ _ => true)) (by decide +kernel) d hd
  have k := test_all_meet testDivides (·.1) (testDivideAt []) (fun d => let x := testParty (testDivideAt [] d)
    decide (x.g.frames = []) && testUser x && testSides d.1 x false false (fun _ _ _ => true)) (by decide +kernel) d hd
  obtain ⟨h0, h⟩ := h
  obtain ⟨k0, k⟩ := k
  simp only [Bool.and_eq_true, decide_eq_true_eq] at h k
  obtain ⟨m, tk, ft, pops, hs, hw, ha, hb, hm, -⟩ := test_sides_meets _ _ _ _ _ h.2
  obtain ⟨m', tk', ft', pops', hs', hw', ha', hb', hm', -⟩ := test_sides_meets _ _ _ _ _ k.2
  exact ⟨⟨_, _, m, tk, ft, pops, testFrame, [], h0.1, h0.2, hm, hs, hw, ha, hb, h.1.1, h.1.2⟩,
    ⟨_, _, m', tk', ft', pops', k0.1, k0.2, hm', hs', hw', ha', hb', k.1.1, test_user_meets _ k.1.2⟩⟩

/-- A divergent transfer of a sentence: its taken side travels, its other side travels, or both. -/
def testParts (n : Nat) : Instr × State :=
  let lpe := fun off => (Instr.lpe off, testSpeech 0 (testDivideAt [] (.lpe off, fun p => { p with loops := [⟨0, 12, some 3, 1, some 9⟩] })))
  match n with
  | 0 => (.br 4, testSpeech 0 (testSplitAt (.br 4) []))
  | 1 => (.call 4, testSpeech 0 (testSplitAt (.call 4) []))
  | 2 => lpe 0
  | _ => lpe 6

/-- The premises of a divergence whose sides travel (`a` the taken one, `b` the other), to stations 1 and 2. -/
def testPartOk (i : Instr) (x : Ex) (a b : Bool) : Bool :=
  testPlain x && testCounts x && testRoom x 3 && testSides i x a b (fun m tk ft =>
    (!a || (List.range 3).any (testMay x tk.pc (some x.sp.pc))) && (!b || (List.range 3).any (testMay x ft.pc (some x.sp.pc)))
      && (!b || decide (x.sp.lanes &&& ~~~ m &&& ~~~ x.g.dead ≠ 0))
      && (!(a && b) || decide (x.g.splits = [x.sp]) && decide (x.g.owedBy x.sp.entry = none) && testLeft x (some x.sp.pc) 1
          && decide ((x.grid.kernel.clauseAt tk.pc).map (·.n) ≠ (x.grid.kernel.clauseAt ft.pc).map (·.n))))

theorem witness_SerialDivergenceRecordsASide_travels :
    (∀ n < 2, ∃ (i : Instr) (s : State) (x : Ex) (m : Word) (tk ft : Split) (pops : Bool) (k : Nat), x.Issues i s ∧ x.Calm ∧ x.g.mcc = false ∧
      x.sides? i = some (tk, ft, pops) ∧ x.way = .diverges m ∧ x.travels tk.pc = true ∧ (pops && x.travels ft.pc) = false ∧
      x.mayDepart tk.pc (some x.sp.pc) k ∧ x.Plain ∧ x.Counts)
    ∧ (∃ (i : Instr) (s : State) (x : Ex) (m : Word) (tk ft : Split) (pops : Bool) (k : Nat), x.Issues i s ∧ x.Calm ∧ x.g.mcc = false ∧
      x.sides? i = some (tk, ft, pops) ∧ x.way = .diverges m ∧ x.travels tk.pc = false ∧ (pops && x.travels ft.pc) = true ∧
      x.mayDepart ft.pc (some x.sp.pc) k ∧ x.Plain ∧ x.Counts ∧ x.sp.lanes &&& ~~~ m &&& ~~~ x.g.dead ≠ 0)
    ∧ ∃ (i : Instr) (s : State) (x : Ex) (m : Word) (tk ft : Split) (pops : Bool) (k j : Nat), x.Issues i s ∧ x.Calm ∧ x.g.mcc = false ∧
      x.sides? i = some (tk, ft, pops) ∧ x.way = .diverges m ∧ x.travels tk.pc = true ∧ (pops && x.travels ft.pc) = true ∧
      x.mayDepart tk.pc (some x.sp.pc) k ∧ x.Plain ∧ x.Room 3 ∧ x.sp.lanes &&& ~~~ m &&& ~~~ x.g.dead ≠ 0 ∧ x.mayDepart ft.pc (some x.sp.pc) j ∧
      x.g.splits = [x.sp] ∧ x.g.owedBy x.sp.entry = none ∧
      (∀ key n, x.travelLimit (some x.sp.pc) = some (key, n) → Tab.read x.grid.travels key 0 + 1 < n) ∧
      (x.grid.kernel.clauseAt tk.pc).map (·.n) ≠ (x.grid.kernel.clauseAt ft.pc).map (·.n) := by
  have hh : ([(0, true, false), (1, true, false), (2, false, true), (3, true, true)] : List (Nat × Bool × Bool)).all (fun e =>
    testReady (testParts e.1).1 (testParts e.1).2 && testPartOk (testParts e.1).1 (testParty (testParts e.1).2) e.2.1 e.2.2) = true := by decide +kernel
  have part := fun e he => by
    have h := List.all_eq_true.1 hh e he
    simp only [testPartOk, Bool.and_eq_true] at h
    obtain ⟨h0, ⟨⟨h1, h2⟩, h3⟩, h4⟩ := h
    exact And.intro (test_ready_meets _ _ h0) (And.intro (test_plain_meets _ h1) (And.intro (test_counts_meet _ h2)
      (And.intro (test_room_meets _ _ h3) (test_sides_meets _ _ _ _ _ h4))))
  refine ⟨fun n hn => ?_, ?_, ?_⟩
  · obtain ⟨h0, h1, h2, -, m, tk, ft, pops, hs, hw, ha, hb, hm, hp⟩ := part (n, true, false) (by
      rcases (by omega : n = 0 ∨ n = 1) with rfl | rfl <;> simp)
    simp only [Bool.and_eq_true, Bool.not_true, Bool.false_or] at hp
    obtain ⟨k, -, hk⟩ := List.any_eq_true.1 hp.1.1.1
    exact ⟨_, _, _, m, tk, ft, pops, k, h0.1, h0.2, hm, hs, hw, ha, hb, test_may_meets _ _ _ _ hk, h1, h2⟩
  · obtain ⟨h0, h1, h2, -, m, tk, ft, pops, hs, hw, ha, hb, hm, hp⟩ := part (2, false, true) (by simp)
    simp only [Bool.and_true, Bool.and_eq_true, Bool.not_true, Bool.false_or, decide_eq_true_eq] at hp
    obtain ⟨k, -, hk⟩ := List.any_eq_true.1 hp.1.1.2
    exact ⟨_, _, _, m, tk, ft, pops, k, h0.1, h0.2, hm, hs, hw, ha, hb, test_may_meets _ _ _ _ hk, h1, h2, hp.1.2⟩
  · obtain ⟨h0, h1, -, h3, m, tk, ft, pops, hs, hw, ha, hb, hm, hp⟩ := part (3, true, true) (by simp)
    simp only [Bool.and_true, Bool.and_eq_true, Bool.not_true, Bool.false_or, decide_eq_true_eq] at hp
    obtain ⟨⟨⟨hk, hj⟩, hl⟩, ⟨⟨h5, h6⟩, h7⟩, h8⟩ := hp
    obtain ⟨k, -, hk⟩ := List.any_eq_true.1 hk
    obtain ⟨j, -, hj⟩ := List.any_eq_true.1 hj
    exact ⟨_, _, _, m, tk, ft, pops, k, j, h0.1, h0.2, hm, hs, hw, ha, hb, test_may_meets _ _ _ _ hk, h1, h3, hl, test_may_meets _ _ _ _ hj, h5, h6,
      fun key n hn => by simpa [testLeft, hn] using h7, h8⟩

def testForm0 : RForm := ⟨false, .vreg 0, .vreg 0, .vreg 0⟩

/-- A JOIN at byte 0 with these frames. -/
def testJoinAt (frames : List Frame) : State := testGroup (testAt [0x24400000]) (fun g => { g with frames := frames })

/-- The frames of a JOIN at byte 0 that meet the premises of each clause: the JOIN of another frame, a side to take up, a member that
is still away, and every member there. -/
def testFrames (n : Nat) : Frame :=
  match n with
  | 0 => testFrame
  | 1 => { testFrame with join := 0, sides := [⟨8, 0xF0, [], [], 0, 0⟩] }
  | 2 => { testFrame with join := 0, members := [0, 16] }
  | _ => { testFrame with join := 0, parked := [(0, 0xF)] }

/-- The premises of the clauses about a frame, as a check. -/
def testJoinOk (n : Nat) (x : Ex) (h : Frame) : Bool :=
  !x.sup && decide (x.g.frames = [h]) && decide (x.sp.ticket = none) && !h.arrived.contains x.sp.entry &&
    (if n = 0 then h.join != x.sp.pc else h.join == x.sp.pc && x.sp.rets.length == h.retDepth && x.sp.loops.length == h.loopDepth) &&
    match n with
    | 0 => true
    | 1 => match h.sides.find? (fun sd => sd.owner == x.sp.entry) with | some sd => sd.lanes &&& ~~~ x.g.dead != 0 | none => false
    | 2 => h.sides.isEmpty && h.members.any (fun k => k != x.sp.entry && !h.arrived.contains k)
    | _ => h.sides.isEmpty && h.members.all (fun k => k == x.sp.entry || h.arrived.contains k)

theorem witness_JoinRegangs :
    (∃ (f : RForm) (s : State) (x : Ex), x.Issues (.join f) s ∧ x.Calm ∧ x.sup = true)
    ∧ (∃ (f : RForm) (s : State) (x : Ex), x.Issues (.join f) s ∧ x.Calm ∧ x.g.frames = [])
    ∧ ∀ n < 4, ∃ (f : RForm) (s : State) (x : Ex), x.Issues (.join f) s ∧ x.Calm ∧ testJoinOk n x (testFrames n) = true := by
  have h1 := test_ready_meets (.join testForm0) (testSup [0x24400000]) (by decide +kernel)
  have h2 := test_ready_meets (.join testForm0) (testJoinAt []) (by decide +kernel)
  have hh : (List.range 4).all (fun n => testReady (.join testForm0) (testJoinAt [testFrames n]) &&
      testJoinOk n (testParty (testJoinAt [testFrames n])) (testFrames n)) = true := by decide +kernel
  refine ⟨⟨_, _, _, h1.1, h1.2, by decide +kernel⟩, ⟨_, _, _, h2.1, h2.2, by decide +kernel⟩, fun n hn => ?_⟩
  have h := List.all_eq_true.1 hh n (List.mem_range.2 hn)
  rw [Bool.and_eq_true] at h
  have h0 := test_ready_meets _ _ h.1
  exact ⟨_, _, _, h0.1, h0.2, h.2⟩

/-- EXIT of no lane, of half of them, of all, and of the MCC. -/
def testExitAt (p1 : Word) : State := testGroup (testAt [0x25000000]) (fun g => { g with mode := 1, p := [(1, p1)] })

theorem witness_ExitLeaves :
    (∃ (f : RForm) (s : State) (x : Ex), x.Issues (.exit f) s ∧ x.Calm ∧ x.sup = false ∧ x.g.mcc = false ∧ x.leaving = 0)
    ∧ (∃ (f : RForm) (s : State) (x : Ex), x.Issues (.exit f) s ∧ x.Calm ∧ x.sup = false ∧ x.g.mcc = false ∧
        x.sp.lanes &&& ~~~ x.leaving &&& ~~~ x.g.dead ≠ 0)
    ∧ (∃ (f : RForm) (s : State) (x : Ex), x.Issues (.exit f) s ∧ x.Calm ∧ x.sup = false ∧ x.g.mcc = false ∧ x.leaving ≠ 0 ∧
        x.sp.lanes &&& ~~~ x.leaving &&& ~~~ x.g.dead = 0 ∧ x.g.owedBy x.sp.entry = none ∧ x.g.splits = [x.sp])
    ∧ ∃ (f : RForm) (s : State) (x : Ex), x.Issues (.exit f) s ∧ x.Calm ∧ x.sup = false ∧ x.g.mcc = true ∧ x.gid = gidOf x.cluster 64 ∧
        x.leaving ≠ 0 ∧ (∀ m, Tab.find x.s.mccs x.cluster = some m → m.qf = none) :=
  have h1 := test_ready_meets (.exit testForm0) (testExitAt 0) (by decide +kernel)
  have h2 := test_ready_meets (.exit testForm0) (testExitAt 0xFFFF) (by decide +kernel)
  have h3 := test_ready_meets (.exit testForm0) (testExitAt 0xFFFFFFFF) (by decide +kernel)
  have h4 := test_ready_meets (.exit testForm0) (testMcc [0x25000000]) (by decide +kernel)
  ⟨⟨_, _, _, h1.1, h1.2, by decide +kernel, by decide +kernel, by decide +kernel⟩,
    ⟨_, _, _, h2.1, h2.2, by decide +kernel, by decide +kernel, by decide +kernel⟩,
    ⟨_, _, _, h3.1, h3.2, by decide +kernel, by decide +kernel, by decide +kernel, by decide +kernel, by decide +kernel, by decide +kernel⟩,
    ⟨_, _, _, h4.1, h4.2, by decide +kernel, by decide +kernel, by decide +kernel, by decide +kernel, fun m hm => by
      have hq : ((Tab.find (testParty (testMcc [0x25000000])).s.mccs (testParty (testMcc [0x25000000])).cluster).map (·.qf)) = some none := by
        decide +kernel
      rw [hm] at hq
      simpa using hq⟩⟩

/-- Windows: XACQ and XREL of window 1, with a pool of these free blocks, and a window held. -/
def testWindowAt (w : Word) (free : List Nat) (held : Tab Nat) : State :=
  testTeam (testGroup (testAt [w]) (fun g => { g with held := held })) (fun t => { t with pool := [3, 4], free := free })

theorem witness_WaitsBegin :
    (∃ (f : RForm) (s : State) (x : Ex), x.Issues (.yld f) s ∧ x.Calm ∧ x.go = true ∧ x.sp.ticket = none)
    ∧ ∃ (f : KForm) (s : State) (x : Ex), x.Issues (.xacq f) s ∧ x.Calm ∧ x.go = true ∧ Tab.find x.g.held f.k.toNat = none ∧ x.team.free = [] :=
  have h1 := test_ready_meets (.yld testForm0) (testAt [0x25400000]) (by decide +kernel)
  have h2 := test_ready_meets (.xacq ⟨.vreg 0, 1⟩) (testWindowAt 0x41C00001 [] []) (by decide +kernel)
  ⟨⟨_, _, _, h1.1, h1.2, by decide +kernel, by decide +kernel⟩,
    ⟨_, _, _, h2.1, h2.2, by decide +kernel, by decide +kernel, by decide +kernel⟩⟩

theorem witness_WindowsAreLentAndGivenBack :
    (∃ (f : KForm) (s : State) (x : Ex) (b : Nat) (rest : List Nat), x.Issues (.xacq f) s ∧ x.Calm ∧ x.go = true ∧
      Tab.find x.g.held f.k.toNat = none ∧ x.team.free = b :: rest ∧ x.aheadAtPool f.k.toNat = [])
    ∧ (∃ (f : KForm) (s : State) (x : Ex) (b : Nat), x.Issues (.xacq f) s ∧ x.Calm ∧ x.go = true ∧ Tab.find x.g.held f.k.toNat = some b)
    ∧ (∃ (f : KForm) (s : State) (x : Ex) (b : Nat), x.Issues (.xrel f) s ∧ x.Calm ∧ x.go = true ∧ Tab.find x.g.held f.k.toNat = some b)
    ∧ (∃ (f : KForm) (s : State) (x : Ex), x.Issues (.xrel f) s ∧ x.Calm ∧ Tab.find x.g.held f.k.toNat = none)
    ∧ ∃ (f : KForm) (s : State) (x : Ex), x.Issues (.xacq f) s ∧ x.Calm ∧ x.go = false :=
  have h1 := test_ready_meets (.xacq ⟨.vreg 0, 1⟩) (testWindowAt 0x41C00001 [3, 4] []) (by decide +kernel)
  have h2 := test_ready_meets (.xacq ⟨.vreg 0, 1⟩) (testWindowAt 0x41C00001 [4] [(1, 3)]) (by decide +kernel)
  have h3 := test_ready_meets (.xrel ⟨.vreg 0, 1⟩) (testWindowAt 0x42000001 [4] [(1, 3)]) (by decide +kernel)
  have h4 := test_ready_meets (.xrel ⟨.vreg 0, 1⟩) (testWindowAt 0x42000001 [4] []) (by decide +kernel)
  have h5 := test_ready_meets (.xacq ⟨.vreg 0, 1⟩) (testGroup (testWindowAt 0x41C00001 [4] []) (fun g => { g with mode := 1 })) (by decide +kernel)
  ⟨⟨_, _, _, 3, [4], h1.1, h1.2, by decide +kernel, by decide +kernel, by decide +kernel, by decide +kernel⟩,
    ⟨_, _, _, 3, h2.1, h2.2, by decide +kernel, by decide +kernel⟩, ⟨_, _, _, 3, h3.1, h3.2, by decide +kernel, by decide +kernel⟩,
    ⟨_, _, _, h4.1, h4.2, by decide +kernel⟩, ⟨_, _, _, h5.1, h5.2, by decide +kernel⟩⟩

/-- Page tables of context 0 in the first HBM stack, which is live: below 2^30 a page of local HBM at 2^30, readable, writable and
the user's; at 2^30 a sync page at 0x6000; at 2^30 + 4096 the first page of hub registers, which the context is granted. -/
def testTables (s : State) : State :=
  let entry := fun (s : State) (e : Nat × Nat) => s.storeBytes e.1 (bytesLE 8 e.2)
  let s1 := [(0x1000, 0x2001), (0x2000, 0x3001), (0x3000, 0x400000E2), (0x3008, 0x4001), (0x4000, 0x5001), (0x5000, 0x60FA), (0x5008, 0xF6)].foldl entry s
  testCtx { s1 with map := [(0x1002, 1)] } (fun c => { c with root := 0x1000, grants := [0] })

/-- Registers for memory accesses: v8 words to store, v10 the offsets 16 times the lane, v11 zero, s10 to s13 addresses. -/
def testMemRegs (g : Group) : Group :=
  { g with exec := 0xF, v := [(4, lanesOf (fun l => BitVec.ofNat 32 (l + 7))), (8, lanesOf (fun l => BitVec.ofNat 32 (l + 1))), (10, lanesOf (fun l => BitVec.ofNat 32 (16 * l)))],
           s := [(4, 5), (8, 0x01020304), (10, 64), (12, 0x40000000)] }

def testMemAt (i : Instr) : State := testGroup (testTables (testPlaced i)) testMemRegs

/-- What the checks of a form's lanes come to, if they all pass. -/
def testTargets : Looked → Option (List (Nat × Target))
  | .all ts => some ts
  | _ => none

theorem test_targets_meet (l : Looked) (h : (testTargets l).isSome = true) : l = .all ((testTargets l).getD []) := by
  cases l <;> simp_all [testTargets]

/-- A check that entails `apart`. -/
def testApart (ts : List (Nat × Target)) : Bool :=
  ts.all (fun e => e.2.loc % 4 == 0) &&
    ts.all (fun e => e.2.walk.all (fun p => ts.all (fun g => decide (p.1 + 1 < g.2.loc) || decide (g.2.loc + 4 ≤ p.1 + 1))))

theorem test_apart_meets (ts : List (Nat × Target)) (h : testApart ts = true) : apart ts := by
  simp only [testApart, Bool.and_eq_true, List.all_eq_true, beq_iff_eq, Bool.or_eq_true, decide_eq_true_eq] at h
  refine ⟨fun e he => h.1 e he, fun a ⟨e, he, p, hp, ha⟩ ⟨g, hg, h1, h2⟩ => ?_⟩
  have := h.2 e he p hp g hg
  omega

/-- Loads and stores of every width, in the vector and the scalar form, of the allotment and of global memory. -/
def testLoads : List Instr :=
  let f : RForm := ⟨false, .vreg 4, .vreg 10, .zero⟩
  let u : RForm := ⟨false, .sreg 4, .sreg 10, .zero⟩
  [.lds32 f, .lds64 f, .lds128 f, .lds32 u, .ldg32 f, .ldg64 f, .ldg128 f, .ldg128 u, .ldg32 ⟨true, .vreg 4, .vreg 10, .zero⟩]
def testStores : List Instr :=
  let f : RForm := ⟨false, .vreg 8, .vreg 10, .zero⟩
  let u : RForm := ⟨false, .sreg 8, .sreg 10, .zero⟩
  [.sts32 f, .sts64 f, .sts128 f, .sts32 u, .stg32 f, .stg64 f, .stg128 f, .stg64 u, .sts32 ⟨false, .vreg 8, .zero, .zero⟩]

/-- What a load or a store of the lists reaches. -/
def testLooks (e : Bool × Nat × RForm) (store : Bool) (x : Ex) : Looked :=
  let m := if store then x.memLanes (anyVec [e.2.2.d, e.2.2.a, e.2.2.b]) else x.memLanes e.2.2.d.isVreg
  x.lookAll ⟨e.1, 4 * e.2.1, if store then .store (4 * e.2.1) else .load (4 * e.2.1), if store then .write else .read, false⟩ m
    (fun l => if e.1 then x.offsetAt e.2.2 l else x.addrAt e.2.2 l)

theorem witness_LoadsWriteTheirDestination (i : Instr) (hi : i ∈ testLoads) :
    ∃ (s : State) (x : Ex) (inSpad : Bool) (w : Nat) (f : RForm) (ts : List (Nat × Target)), loadForm? i = some (inSpad, w, f) ∧ x.Issues i s ∧
      x.Calm ∧ x.Plain ∧ x.reaches inSpad (4 * w) (.load (4 * w)) .read (x.memLanes f.d.isVreg) f ts ∧ x.s.poisonLanes ts (4 * w) = 0 := by
  have h := test_all_meet testLoads id testMemAt (fun i => let x := testParty (testMemAt i)
    testPlain x && (match loadForm? i with
      | some e => match testTargets (testLooks e false x) with | some ts => decide (x.s.poisonLanes ts (4 * e.2.1) = 0) | none => false
      | none => false)) (by decide +kernel) i hi
  obtain ⟨⟨h1, h2⟩, h3⟩ := h
  rw [Bool.and_eq_true] at h3
  obtain ⟨h3, h4⟩ := h3
  cases hf : loadForm? i with
  | none => simp [hf] at h4
  | some e =>
    cases ht : testTargets (testLooks e false (testParty (testMemAt i))) with
    | none => simp [hf, ht] at h4
    | some ts =>
      simp only [hf, ht, decide_eq_true_eq] at h4
      refine ⟨_, _, e.1, e.2.1, e.2.2, ts, rfl, h1, h2, test_plain_meets _ h3, ?_, h4⟩
      have := test_targets_meet (testLooks e false (testParty (testMemAt i))) (by simp [ht])
      rw [ht] at this
      exact this

theorem witness_StoresWriteTheirBytesOnly (i : Instr) (hi : i ∈ testStores) :
    ∃ (s : State) (x : Ex) (inSpad : Bool) (w : Nat) (f : RForm) (ts : List (Nat × Target)), storeForm? i = some (inSpad, w, f) ∧ x.Issues i s ∧
      x.Calm ∧ x.Plain ∧ x.reaches inSpad (4 * w) (.store (4 * w)) .write (x.memLanes (anyVec [f.d, f.a, f.b])) f ts ∧ ∀ e ∈ ts, e.2.ty ≠ 5 := by
  have h := test_all_meet testStores id testMemAt (fun i => let x := testParty (testMemAt i)
    testPlain x && (match storeForm? i with
      | some e => match testTargets (testLooks e true x) with | some ts => ts.all (fun e => decide (e.2.ty ≠ 5)) | none => false
      | none => false)) (by decide +kernel) i hi
  obtain ⟨⟨h1, h2⟩, h3⟩ := h
  rw [Bool.and_eq_true] at h3
  obtain ⟨h3, h4⟩ := h3
  cases hf : storeForm? i with
  | none => simp [hf] at h4
  | some e =>
    cases ht : testTargets (testLooks e true (testParty (testMemAt i))) with
    | none => simp [hf, ht] at h4
    | some ts =>
      simp only [hf, ht, List.all_eq_true, decide_eq_true_eq] at h4
      refine ⟨_, _, e.1, e.2.1, e.2.2, ts, rfl, h1, h2, test_plain_meets _ h3, ?_, h4⟩
      have := test_targets_meet (testLooks e true (testParty (testMemAt i))) (by simp [ht])
      rw [ht] at this
      exact this

/-- A store to BANDIDLE by one lane: the hub page lies at 2^30 + 4096, the register at offset 0x10C. -/
def testHubStore : RForm := ⟨false, .sreg 8, .sreg 12, .zero⟩
def testHubAt : State := testGroup (testTables (testPlaced (.stg32 testHubStore))) (fun g => { g with s := [(8, 0x00012345), (12, 0x4000110C)] })
def testHubTarget : Target :=
  { loc := 5 * 2 ^ 72 + 0x10C, ty := 5, chk := false, node := 0,
    walk := [⟨0x1000, 0x2001, 0⟩, ⟨0x2000, 0x3001, 0⟩, ⟨0x3008, 0x4001, 0⟩, ⟨0x4000, 0x5001, 0⟩, ⟨0x5008, 0xF6, 0⟩], run := 0xEF4 }

theorem witness_StoresToHubRegisters : ∃ (f : RForm) (s : State) (x : Ex) (l : Nat) (t : Target), x.Issues (.stg32 f) s ∧ x.Calm ∧
    x.reaches false 4 (.store 4) .write (x.memLanes (anyVec [f.d, f.a, f.b])) f [(l, t)] ∧ t.ty = 5 :=
  have h := test_ready_meets (.stg32 testHubStore) testHubAt (by decide +kernel)
  ⟨_, _, _, 0, testHubTarget, h.1, h.2, by unfold Ex.reaches; decide +kernel, rfl⟩

/-- Atomics of every use and operation, in the vector and the scalar form. -/
def testAtomics : List Instr :=
  let f : RForm := ⟨false, .vreg 4, .vreg 10, .zero⟩
  let u : RForm := ⟨false, .sreg 4, .sreg 10, .zero⟩
  [.atmUnp .add f, .atmUnp .cas u, .atmNor .max f, .atmSpc .xchg u, .atmAcq .xor_ f, .atmAcq .cas u, .atmRel .or_ f, .atmRel .min u, .atmAr .and_ f,
   .atmUnp .add ⟨true, .vreg 4, .vreg 10, .vreg 10⟩]

theorem witness_AtomicsReadAndWriteOnce (i : Instr) (hi : i ∈ testAtomics) :
    ∃ (s : State) (x : Ex) (use : AtmUse) (op : AtmOp) (f : RForm) (ts : List (Nat × Target)), atmForm? i = some (use, op, f) ∧ use ≠ .com ∧
      use ≠ .qnt ∧ (use = .spc → op ≠ .cas) ∧ x.Issues i s ∧ x.Calm ∧ x.Plain ∧ x.Room (if use = .spc then x.g.fences.length else 1) ∧
      x.lookAll ⟨false, 4, .atomic, .atomic, use.acquires || use.releases⟩ (x.memLanes f.d.isVreg) (x.addrAt f) = .all ts ∧
      x.s.poisonLanes ts 4 = 0 ∧ apart ts ∧ ∀ e ∈ ts, e.2.ty ≠ 5 := by
  have h := test_all_meet testAtomics id testMemAt (fun i => let x := testParty (testMemAt i)
    testPlain x && (match atmForm? i with
      | some e => testRoom x (if e.1 = .spc then x.g.fences.length else 1) && decide (e.1 ≠ .com) && decide (e.1 ≠ .qnt) && decide (e.1 = .spc → e.2.1 ≠ .cas) &&
        (match testTargets (x.lookAll ⟨false, 4, .atomic, .atomic, e.1.acquires || e.1.releases⟩ (x.memLanes e.2.2.d.isVreg) (x.addrAt e.2.2)) with
         | some ts => decide (x.s.poisonLanes ts 4 = 0) && testApart ts && ts.all (fun e => decide (e.2.ty ≠ 5))
         | none => false)
      | none => false)) (by decide +kernel) i hi
  obtain ⟨⟨h1, h2⟩, h3⟩ := h
  rw [Bool.and_eq_true] at h3
  obtain ⟨h3, h5⟩ := h3
  cases hf : atmForm? i with
  | none => simp [hf] at h5
  | some e =>
    simp only [hf, Bool.and_eq_true, decide_eq_true_eq] at h5
    obtain ⟨⟨⟨⟨h4, h5⟩, h6⟩, h7⟩, h8⟩ := h5
    cases ht : testTargets ((testParty (testMemAt i)).lookAll ⟨false, 4, .atomic, .atomic, e.1.acquires || e.1.releases⟩
        ((testParty (testMemAt i)).memLanes e.2.2.d.isVreg) ((testParty (testMemAt i)).addrAt e.2.2)) with
    | none => simp [ht] at h8
    | some ts =>
      simp only [ht, Bool.and_eq_true, decide_eq_true_eq, List.all_eq_true] at h8
      obtain ⟨⟨h8, h9⟩, h10⟩ := h8
      refine ⟨_, _, e.1, e.2.1, e.2.2, ts, rfl, h5, h6, h7, h1, h2, test_plain_meets _ h3, test_room_meets _ _ h4, ?_, h8,
        test_apart_meets _ h9, h10⟩
      have := test_targets_meet ((testParty (testMemAt i)).lookAll ⟨false, 4, .atomic, .atomic, e.1.acquires || e.1.releases⟩
        ((testParty (testMemAt i)).memLanes e.2.2.d.isVreg) ((testParty (testMemAt i)).addrAt e.2.2)) (by simp [ht])
      rw [ht] at this
      exact this

/-- Updates that combine: ATM.com into the words of four lanes, ATM.qnt into one word by all of them. -/
def testCom : RForm := ⟨false, .zero, .vreg 10, .vreg 8⟩
def testQnt : RForm := ⟨false, .vreg 4, .vreg 10, .zero⟩
def testQntAt : State := testGroup (testMemAt (.atmQnt .add testQnt)) (fun g => { g with v := g.v.filter (fun e => e.1 != 10) })

theorem witness_CombiningAtomicsWait :
    (∃ (op : AtmOp) (f : RForm) (s : State) (x : Ex) (ts : List (Nat × Target)), x.Calm ∧ x.Issues (.atmCom op f) s ∧
      x.lookAll ⟨false, 4, .atomic, .combining, false⟩ (x.memLanes (anyVec [f.a, f.b])) (x.pair f.a) = .all ts)
    ∧ ∃ (op : AtmOp) (f : RForm) (s : State) (x : Ex) (ts : List (Nat × Target)), x.Calm ∧ x.Issues (.atmQnt op f) s ∧ x.Plain ∧ op ≠ .cas ∧
      x.lookAll ⟨false, 4, .atomic, .combining, false⟩ (x.memLanes f.d.isVreg) (x.addrAt f) = .all ts ∧ x.s.poisonLanes ts 4 = 0 ∧ apart ts :=
  have h1 := test_ready_meets (.atmCom .add testCom) (testMemAt (.atmCom .add testCom)) (by decide +kernel)
  have h2 := test_ready_meets (.atmQnt .add testQnt) testQntAt (by decide +kernel)
  ⟨⟨_, _, _, _, _, h1.2, h1.1, test_targets_meet _ (by decide +kernel)⟩,
    ⟨_, _, _, _, _, h2.2, h2.1, test_plain_meets _ (by decide +kernel), by decide, test_targets_meet _ (by decide +kernel),
      by decide +kernel, test_apart_meets _ (by decide +kernel)⟩⟩

/-- An ATM.cas.spc of one lane whose word equals its compare value, and one whose word does not. -/
def testCas : RForm := ⟨false, .sreg 4, .sreg 10, .zero⟩
def testCasAt (w : Word) : State := (testMemAt (.atmSpc .cas testCas)).storeBytes 0x40000040 (bytesLE 4 w.toNat)

theorem witness_SpcCasMayFail (w : Word) (hw : w ∈ [5, 6]) : ∃ (f : RForm) (s : State) (x : Ex) (l : Nat) (t : Target), x.Issues (.atmSpc .cas f) s ∧
    x.Calm ∧ x.Plain ∧ x.Room x.g.fences.length ∧ x.lookAll ⟨false, 4, .atomic, .atomic, false⟩ (x.memLanes f.d.isVreg) (x.addrAt f) = .all [(l, t)] ∧
    x.s.poisonLanes [(l, t)] 4 = 0 ∧ apart [(l, t)] ∧ t.ty ≠ 5 ∧ x.s.word32 t.loc = w.toNat := by
  let t : Target := { loc := 0x40000040, ty := 0, chk := false, node := 0, walk := [⟨0x1000, 0x2001, 0⟩, ⟨0x2000, 0x3001, 0⟩, ⟨0x3000, 0x400000E2, 0⟩],
                      run := 0x3FFFFFC0 }
  have hh : [5, 6].all (fun w : Word => testReady (.atmSpc .cas testCas) (testCasAt w) && (let x := testParty (testCasAt w)
      testPlain x && testRoom x x.g.fences.length && decide (x.lookAll ⟨false, 4, .atomic, .atomic, false⟩ (x.memLanes false) (x.addrAt testCas) = .all [(0, t)]) &&
        decide (x.s.poisonLanes [(0, t)] 4 = 0) && testApart [(0, t)] && decide (x.s.word32 t.loc = w.toNat))) = true := by decide +kernel
  have h := List.all_eq_true.1 hh w hw
  simp only [Bool.and_eq_true, decide_eq_true_eq] at h
  obtain ⟨h1, ⟨⟨⟨⟨h2, hr⟩, h3⟩, h4⟩, h5⟩, h6⟩ := h
  have h0 := test_ready_meets _ _ h1
  exact ⟨testCas, _, _, 0, t, h0.1, h0.2, test_plain_meets _ h2, test_room_meets _ _ hr, h3, h4, test_apart_meets _ h5, by decide, h6⟩

/-- A fence, and FLUSHQ with an update in the cluster's buffers. -/
theorem witness_FencesOrder :
    (∃ (f : RForm) (s : State) (x : Ex), x.Calm ∧ x.go = true ∧ x.Issues (.fenceAcq f) s)
    ∧ (∃ (f : RForm) (s : State) (x : Ex), x.Calm ∧ x.go = true ∧ x.Issues (.fenceRel f) s ∧ x.Plain ∧ x.Counts)
    ∧ (∃ (f : RForm) (s : State) (x : Ex), x.Calm ∧ x.go = true ∧ x.Issues (.fenceAr f) s ∧ x.Plain ∧ x.Counts)
    ∧ ∃ (f : RForm) (s : State) (x : Ex), x.Calm ∧ x.go = true ∧ x.Issues (.flushq f) s :=
  have h1 := test_ready_meets (.fenceAcq testForm0) (testAt [0x54000000]) (by decide +kernel)
  have h2 := test_ready_meets (.fenceRel testForm0) (testAt [0x54400000]) (by decide +kernel)
  have h3 := test_ready_meets (.fenceAr testForm0) (testAt [0x54800000]) (by decide +kernel)
  have h4 := test_ready_meets (.flushq testForm0) (testAt [0x54C00000]) (by decide +kernel)
  ⟨⟨_, _, _, h1.2, by decide +kernel, h1.1⟩,
    ⟨_, _, _, h2.2, by decide +kernel, h2.1, test_plain_meets _ (by decide +kernel), test_counts_meet _ (by decide +kernel)⟩,
    ⟨_, _, _, h3.2, by decide +kernel, h3.1, test_plain_meets _ (by decide +kernel), test_counts_meet _ (by decide +kernel)⟩,
    ⟨_, _, _, h4.2, by decide +kernel, h4.1⟩⟩

/-- A barrier at byte 64 of the allotment, named by s10 and s11, with `n` expected and `a` arrived; s12 the count or the ticket. -/
def testBarAt (i : Instr) (n a : Nat) (v : Word) : State :=
  let s := testGroup (testPlaced i) (fun g => { g with s := [(10, 65), (12, v)] })
  let w := if n = 0 then 0 else n + 2 ^ 31
  { s.storeBytes (spadLoc 0 64) (bytesLE 4 w ++ bytesLE 4 a) with bars := if n = 0 then [] else [(spadLoc 0 64, 0)] }

def testBari : RForm := ⟨false, .vreg 0, .sreg 10, .sreg 12⟩
def testBara : RForm := ⟨false, .sreg 3, .sreg 10, .vreg 0⟩
def testBaraw : RForm := ⟨false, .vreg 0, .sreg 10, .vreg 0⟩

theorem witness_BarriersCountArrivals :
    (∃ (f : RForm) (s : State) (x : Ex) (loc : Nat), x.Calm ∧ x.go = true ∧ x.s.object x.walker x.allot (x.syncWord f.a) 32 32 false = .at loc ∧
      x.Issues (.bari f) s ∧ 1 ≤ (x.rdU f.b).toNat ∧ (x.rdU f.b).toNat ≤ 0xFFFFFF ∧ Tab.find x.s.bars loc = none)
    ∧ (∃ (f : RForm) (s : State) (x : Ex) (loc : Nat), x.Calm ∧ x.go = true ∧ x.s.object x.walker x.allot (x.syncWord f.a) 32 32 false = .at loc ∧
      x.Issues (.bari f) s ∧ 1 ≤ (x.rdU f.b).toNat ∧ (x.rdU f.b).toNat ≤ 0xFFFFFF ∧ Tab.find x.s.bars loc = some x.part ∧ x.s.barArrived loc = 0)
    ∧ (∃ (f : RForm) (s : State) (x : Ex) (loc : Nat), x.Calm ∧ x.go = true ∧ x.s.object x.walker x.allot (x.syncWord f.a) 32 32 false = .at loc ∧
      x.Issues (.bara f) s ∧ x.Plain ∧ x.Counts ∧ Tab.find x.s.bars loc = some x.part ∧
      (x.touchObject f.a true).s.barArrived loc + 1 ≠ (x.touchObject f.a true).s.barExpected loc)
    ∧ ∃ (f : RForm) (s : State) (x : Ex) (loc : Nat), x.Calm ∧ x.go = true ∧ x.s.object x.walker x.allot (x.syncWord f.a) 32 32 false = .at loc ∧
      x.Issues (.bara f) s ∧ x.Plain ∧ x.Counts ∧ Tab.find x.s.bars loc = some x.part ∧
      (x.touchObject f.a true).s.barArrived loc + 1 = (x.touchObject f.a true).s.barExpected loc :=
  have h1 := test_ready_meets (.bari testBari) (testBarAt (.bari testBari) 0 0 0xFFFFFF) (by decide +kernel)
  have h2 := test_ready_meets (.bari testBari) (testBarAt (.bari testBari) 3 0 1) (by decide +kernel)
  have h3 := test_ready_meets (.bara testBara) (testBarAt (.bara testBara) 2 0 0) (by decide +kernel)
  have h4 := test_ready_meets (.bara testBara) (testBarAt (.bara testBara) 1 0 0) (by decide +kernel)
  ⟨⟨_, _, _, spadLoc 0 64, h1.2, by decide +kernel, by decide +kernel, h1.1, by decide +kernel, by decide +kernel, by decide +kernel⟩,
    ⟨_, _, _, spadLoc 0 64, h2.2, by decide +kernel, by decide +kernel, h2.1, by decide +kernel, by decide +kernel, by decide +kernel,
      by decide +kernel⟩,
    ⟨_, _, _, spadLoc 0 64, h3.2, by decide +kernel, by decide +kernel, h3.1, test_plain_meets _ (by decide +kernel),
      test_counts_meet _ (by decide +kernel), by decide +kernel, by decide +kernel⟩,
    ⟨_, _, _, spadLoc 0 64, h4.2, by decide +kernel, by decide +kernel, h4.1, test_plain_meets _ (by decide +kernel),
      test_counts_meet _ (by decide +kernel), by decide +kernel, by decide +kernel⟩⟩

/-- A BARW or BARAW at that barrier, whose generation is `g`, with ticket `t` in s12 or held by the split. -/
def testWaitAt (i : Instr) (g : Nat) (t : Word) (held : Option Word) : State :=
  let s := testBarAt i 3 1 t
  testSplit (s.storeBytes (spadLoc 0 64 + 8) (bytesLE 4 g)) (fun p => { p with ticket := held })

def testBarw : RForm := ⟨false, .vreg 0, .sreg 10, .sreg 12⟩

/-- A TBAR with this ticket, of a team whose barrier is at generation 4, with a second split of the group where asked. -/
def testTbarAt (t : Option Word) (two : Bool) : State :=
  testTeam (testGroup (testPlaced (.tbar testForm0)) (fun g =>
    { g with splits := g.splits.map (fun p => { p with ticket := t }) ++ (if two then [{ Split.start 8 0 1 with entry := 16 }] else []) }))
    (fun t => { t with barGen := 4 })

/-- Tickets one and 2^31 - 1 generations behind, of the generation itself and 2^31 behind it. -/
theorem witness_BarrierWaitsEnd :
    ((∀ e ∈ ([1, 0x80000001] : List Word), ∃ (f : RForm) (s : State) (x : Ex) (loc : Nat), x.Issues (.barw f) s ∧ x.Calm ∧ x.go = true ∧
        x.s.object x.walker x.allot (x.syncWord f.a) 32 32 false = .at loc ∧ Tab.find x.s.bars loc = some x.part ∧ x.rdU f.b = e ∧
        x.s.barDone loc (x.rdU f.b).toNat = true ∧ (x.touchObject f.a false).s.barGen loc = x.s.barGen loc)
      ∧ ∀ e ∈ ([2, 3] : List Word), ∃ (f : RForm) (s : State) (x : Ex) (loc : Nat), x.Issues (.barw f) s ∧ x.Calm ∧ x.go = true ∧
        x.s.object x.walker x.allot (x.syncWord f.a) 32 32 false = .at loc ∧ Tab.find x.s.bars loc = some x.part ∧ x.rdU f.b = e ∧
        x.s.barDone loc (x.rdU f.b).toNat = false ∧ (x.touchObject f.a false).s.barGen loc = x.s.barGen loc)
    ∧ ((∃ (f : RForm) (s : State) (x : Ex) (loc : Nat) (t : Word), x.Issues (.baraw f) s ∧ x.Calm ∧ x.sp.ticket = some t ∧
        x.s.object x.walker x.allot (x.syncWord f.a) 32 32 false = .at loc ∧ Tab.find x.s.bars loc = some x.part ∧ x.s.barDone loc t.toNat = true)
      ∧ ∃ (f : RForm) (s : State) (x : Ex) (loc : Nat) (t : Word), x.Issues (.baraw f) s ∧ x.Calm ∧ x.sp.ticket = some t ∧
        x.s.object x.walker x.allot (x.syncWord f.a) 32 32 false = .at loc ∧ Tab.find x.s.bars loc = some x.part ∧ x.s.barDone loc t.toNat = false)
    ∧ (∃ (f : RForm) (s : State) (x : Ex) (t : Word), x.Issues (.tbar f) s ∧ x.Calm ∧ x.g.mcc = false ∧ x.sp.ticket = some t ∧ t.toNat < x.team.barGen)
    ∧ ∃ (f : RForm) (s : State) (x : Ex), x.Issues (.tbar f) s ∧ x.Calm ∧ x.g.mcc = false ∧ x.sp.ticket = none ∧ x.go = true ∧
        ∃ p ∈ x.g.splits, p.entry ≠ x.sp.entry ∧ p.wait = none := by
  have check : ∀ (g : Nat) (t : Word) (b : Bool), testReady (.barw testBarw) (testWaitAt (.barw testBarw) g t none) = true →
      (let x := testParty (testWaitAt (.barw testBarw) g t none)
       (x.go && decide (x.s.object x.walker x.allot (x.syncWord testBarw.a) 32 32 false = .at (spadLoc 0 64)) &&
         decide (Tab.find x.s.bars (spadLoc 0 64) = some x.part) && decide (x.rdU testBarw.b = t) &&
         decide (x.s.barDone (spadLoc 0 64) (x.rdU testBarw.b).toNat = b) &&
         decide ((x.touchObject testBarw.a false).s.barGen (spadLoc 0 64) = x.s.barGen (spadLoc 0 64))) = true) →
      ∃ (f : RForm) (s : State) (x : Ex) (loc : Nat), x.Issues (.barw f) s ∧ x.Calm ∧ x.go = true ∧
        x.s.object x.walker x.allot (x.syncWord f.a) 32 32 false = .at loc ∧ Tab.find x.s.bars loc = some x.part ∧ x.rdU f.b = t ∧
        x.s.barDone loc (x.rdU f.b).toNat = b ∧ (x.touchObject f.a false).s.barGen loc = x.s.barGen loc := by
    intro g t b h k
    simp only [Bool.and_eq_true, decide_eq_true_eq] at k
    exact ⟨_, _, _, _, (test_ready_meets _ _ h).1, (test_ready_meets _ _ h).2, k.1.1.1.1.1, k.1.1.1.1.2, k.1.1.1.2, k.1.1.2, k.1.2, k.2⟩
  have h1 := test_ready_meets (.baraw testBaraw) (testWaitAt (.baraw testBaraw) 0 0 (some 0xFFFFFFFF)) (by decide +kernel)
  have h2 := test_ready_meets (.baraw testBaraw) (testWaitAt (.baraw testBaraw) 7 0 (some 7)) (by decide +kernel)
  have h3 := test_ready_meets (.tbar testForm0) (testTbarAt (some 3) false) (by decide +kernel)
  have h4 := test_ready_meets (.tbar testForm0) (testTbarAt none true) (by decide +kernel)
  refine ⟨⟨fun e he => ?_, fun e he => ?_⟩,
    ⟨⟨_, _, _, spadLoc 0 64, 0xFFFFFFFF, h1.1, h1.2, by decide +kernel, by decide +kernel, by decide +kernel, by decide +kernel⟩,
      ⟨_, _, _, spadLoc 0 64, 7, h2.1, h2.2, by decide +kernel, by decide +kernel, by decide +kernel, by decide +kernel⟩⟩,
    ⟨_, _, _, 3, h3.1, h3.2, by decide +kernel, by decide +kernel, by decide +kernel⟩,
    ⟨_, _, _, h4.1, h4.2, by decide +kernel, by decide +kernel, by decide +kernel, { Split.start 8 0 1 with entry := 16 }, by decide +kernel,
      by decide +kernel, rfl⟩⟩
  · rcases List.mem_cons.1 he with rfl | he
    · exact check 0x80000000 1 true (by decide +kernel) (by decide +kernel)
    · rcases List.mem_singleton.1 he with rfl
      exact check 0x80000002 0x80000001 true (by decide +kernel) (by decide +kernel)
  · rcases List.mem_cons.1 he with rfl | he
    · exact check 2 2 false (by decide +kernel) (by decide +kernel)
    · rcases List.mem_singleton.1 he with rfl
      exact check 0x80000003 3 false (by decide +kernel) (by decide +kernel)

/-- The first issue of a BARAW, at a barrier that expects two arrivals and at one that expects only this one. -/
theorem witness_BarrierWaitsEnd_arrives (last : Bool) : ∃ (f : RForm) (s : State) (x : Ex) (loc : Nat), x.Issues (.baraw f) s ∧ x.Calm ∧ x.Plain ∧
    x.Counts ∧ x.go = true ∧ x.sp.ticket = none ∧ x.s.object x.walker x.allot (x.syncWord f.a) 32 32 false = .at loc ∧
    Tab.find x.s.bars loc = some x.part ∧ (x.touchObject f.a true).s.barGen loc = x.s.barGen loc ∧
    ((x.touchObject f.a true).s.barArrived loc + 1 = (x.touchObject f.a true).s.barExpected loc ↔ last = true) := by
  have all : [true, false].all (fun last => let s := testBarAt (.baraw testBaraw) (if last then 1 else 2) 0 0
      testReady (.baraw testBaraw) s && (let x := testParty s
        testPlain x && testCounts x && x.go && decide (x.sp.ticket = none) &&
        decide (x.s.object x.walker x.allot (x.syncWord testBaraw.a) 32 32 false = .at (spadLoc 0 64)) &&
        decide (Tab.find x.s.bars (spadLoc 0 64) = some x.part) &&
        decide ((x.touchObject testBaraw.a true).s.barGen (spadLoc 0 64) = x.s.barGen (spadLoc 0 64)) &&
        decide ((x.touchObject testBaraw.a true).s.barArrived (spadLoc 0 64) + 1 = (x.touchObject testBaraw.a true).s.barExpected (spadLoc 0 64) ↔
          last = true))) = true := by decide +kernel
  have h := List.all_eq_true.1 all last (by cases last <;> simp)
  simp only [Bool.and_eq_true, decide_eq_true_eq] at h
  obtain ⟨h0, ⟨⟨⟨⟨⟨⟨h1, h2⟩, h3⟩, h4⟩, h5⟩, h6⟩, h7⟩, h8⟩ := h
  have hh := test_ready_meets _ _ h0
  exact ⟨testBaraw, _, _, spadLoc 0 64, hh.1, hh.2, test_plain_meets _ h1, test_counts_meet _ h2, h3, h4, h5, h6, h7, h8⟩

theorem witness_LastGroupCompletesTheTeamBarrier : ∃ (f : RForm) (s : State) (x : Ex), x.Issues (.tbar f) s ∧ x.Calm ∧ x.Plain ∧ x.Counts ∧
    x.g.mcc = false ∧ x.sp.ticket = none ∧ x.go = true ∧ x.g.splits = [x.sp] ∧ x.g.grp ∉ x.team.arrived ∧
    (Tab.find x.s.teams x.teamId).isSome = true ∧ ∀ e ∈ x.s.members x.g.gang x.g.team, e.2.grp = x.g.grp ∨ e.2.grp ∈ x.team.arrived :=
  have h := test_ready_meets (.tbar testForm0) (testTbarAt none false) (by decide +kernel)
  ⟨_, _, _, h.1, h.2, test_plain_meets _ (by decide +kernel), test_counts_meet _ (by decide +kernel), by decide +kernel, by decide +kernel,
    by decide +kernel, by decide +kernel, by decide +kernel, by decide +kernel, by decide +kernel⟩

/-- A tray at byte 64 of the allotment, of four slots and a window of 4, named by `a` in s10 and s11, with this header; s12 an index. -/
def testTrayAt (i : Instr) (a idx : Word) (filled released claimed attrs resolved states : Nat) : State :=
  let s := testGroup (testPlaced i) (fun g => { g with s := [(10, a), (12, idx)] })
  { s.storeBytes (spadLoc 0 64) (bytesLE 4 filled ++ bytesLE 4 released ++ bytesLE 4 claimed ++ bytesLE 4 0 ++ bytesLE 4 0x403 ++ bytesLE 4 1 ++
      bytesLE 4 (attrs + 8) ++ bytesLE 4 resolved ++ bytesLE 4 0x100 ++ bytesLE 4 0 ++ bytesLE 24 states) with
    trays := [spadLoc 0 64] }

def testTray1 : RForm := ⟨false, .sreg 3, .sreg 10, .vreg 0⟩
def testTray2 : RForm := ⟨false, .vreg 0, .sreg 10, .sreg 12⟩
def testTray3 : RForm := ⟨false, .sreg 3, .sreg 10, .sreg 12⟩

/-- What the statement asks of a tray that an instruction names. -/
def testTrayLies (f : RForm) (s : State) (view : Bool) : Bool :=
  let x := testParty s
  x.go && x.s.trayOk (spadLoc 0 64) x.part && decide (x.s.object x.walker x.allot (x.syncWord f.a) 64 64 view = .at (spadLoc 0 64)) &&
    testPlain x && testCounts x && decide (x.reportAt (spadLoc 0 64) = none) && x.s.trHolder (spadLoc 0 64) == x.part && x.s.trOwner (spadLoc 0 64) == x.part

theorem test_tray_meets (i : Instr) (f : RForm) (s : State) (view : Bool) (h : (testReady i s && testTrayLies f s view) = true) :
    (testParty s).Issues i s ∧ (testParty s).Calm ∧ (testParty s).go = true ∧ (testParty s).s.trayOk (spadLoc 0 64) (testParty s).part = true ∧
      (testParty s).s.object (testParty s).walker (testParty s).allot ((testParty s).syncWord f.a) 64 64 view = .at (spadLoc 0 64) ∧
      (testParty s).Plain ∧ (testParty s).Counts ∧ (testParty s).reportAt (spadLoc 0 64) = none ∧
      (testParty s).s.trHolder (spadLoc 0 64) = (testParty s).part ∧ (testParty s).s.trOwner (spadLoc 0 64) = (testParty s).part := by
  rw [Bool.and_eq_true] at h
  obtain ⟨h1, h2⟩ := h
  simp only [testTrayLies, Bool.and_eq_true, decide_eq_true_eq, beq_iff_eq] at h2
  obtain ⟨⟨⟨⟨⟨⟨⟨h2, h3⟩, h4⟩, h5⟩, h6⟩, h7⟩, h8⟩, h9⟩ := h2
  have h0 := test_ready_meets _ _ h1
  exact ⟨h0.1, h0.2, h2, h3, h4, test_plain_meets _ h5, test_counts_meet _ h6, h7, h8, h9⟩

/-- Trays with room and without, counts that wrap, an index that is open and one that is filled. -/
theorem witness_TraySlotsMove : let s := fun c => testTrayAt (.trc testTray1) 65 0 0xFFFFFFFE 0xFFFFFFFE c 0 0xFFFFFFFE (2 ^ 186 + 2 ^ 189)
    let h := spadLoc 0 64
    sub32 ((s 1).trClaimed h) ((s 1).trReleased h) < (s 1).trWindow h ∧ (s 2).trWindow h ≤ sub32 ((s 2).trClaimed h) ((s 2).trReleased h)
    ∧ (s 1).trState h 0xFFFFFFFE = slotClaimed ∧ (s 1).trHold h = false
    ∧ (∃ t : State, t.canRelease h 3 = true) ∧ (s 1).trBelow h 0 ((s 1).trClaimed h) = true :=
  ⟨by decide +kernel, by decide +kernel, by decide +kernel, by decide +kernel,
    ⟨testTrayAt (.trc testTray1) 65 0 4 3 4 1 4 (5 * 8 ^ 3), by decide +kernel⟩, by decide +kernel⟩

theorem witness_TrayInstructionsAct :
    (∃ (f : RForm) (s : State) (x : Ex) (h i : Nat) (t : State), x.Calm ∧ x.go = true ∧ x.s.trayOk h x.part = true ∧
      x.s.object x.walker x.allot (x.syncWord f.a) 64 64 false = .at h ∧ x.Issues (.trc f) s ∧ x.reportAt h = none ∧ x.s.trHold h = true ∧
      x.s.trOwner h = x.part ∧ x.s.claim h = some (i, t) ∧ x.slotLow h i = false)
    ∧ (∃ (f : RForm) (s : State) (x : Ex) (h : Nat), x.Calm ∧ x.go = true ∧ x.s.trayOk h x.part = true ∧
      x.s.object x.walker x.allot (x.syncWord f.a) 64 64 false = .at h ∧ x.Issues (.trc f) s ∧ x.reportAt h = none ∧ x.s.trHold h = false ∧
      x.s.claim h = none)
    ∧ (∃ (f : RForm) (s : State) (x : Ex) (h : Nat), x.Calm ∧ x.go = true ∧ x.s.trayOk h x.part = true ∧
      x.s.object x.walker x.allot (x.syncWord f.a) 64 64 false = .at h ∧ x.Issues (.trf f) s ∧ x.Plain ∧ x.Counts ∧
      x.s.trState h (x.rdU f.b).toNat = slotClaimed ∧ x.slotLow h (x.rdU f.b).toNat = false)
    ∧ (∃ (f : RForm) (s : State) (x : Ex) (h : Nat), x.Calm ∧ x.go = true ∧ x.s.trayOk h x.part = true ∧
      x.s.object x.walker x.allot (x.syncWord f.a) 64 64 true = .at h ∧ x.Issues (.trw f) s ∧ x.reportAt h = none ∧
      (bit (x.syncWord f.a) 1 = true ∧ x.s.trHold h = true ∧ x.s.trHolder h = x.part) ∧ x.s.waitDone h (x.rdU f.b).toNat (bit (x.syncWord f.a) 1) = true ∧
      x.slotLow h (x.rdU f.b).toNat = false)
    ∧ (∃ (f : RForm) (s : State) (x : Ex) (h : Nat), x.Calm ∧ x.go = true ∧ x.s.trayOk h x.part = true ∧
      x.s.object x.walker x.allot (x.syncWord f.a) 64 64 true = .at h ∧ x.Issues (.trw f) s ∧ x.reportAt h = none ∧
      bit (x.syncWord f.a) 1 = false ∧ x.s.waitDone h (x.rdU f.b).toNat (bit (x.syncWord f.a) 1) = false ∧
      x.slotLow h (x.rdU f.b).toNat = false)
    ∧ (∃ (f : RForm) (s : State) (x : Ex) (h : Nat), x.Calm ∧ x.go = true ∧ x.s.trayOk h x.part = true ∧
      x.s.object x.walker x.allot (x.syncWord f.a) 64 64 false = .at h ∧ x.Issues (.trr f) s ∧ x.Plain ∧ x.Counts ∧
      x.s.canRelease h (x.rdU f.b).toNat = true ∧ x.s.egressOn h = false ∧ x.slotLow h (x.rdU f.b).toNat = false)
    ∧ (∀ d ∈ [Instr.tro, .trv], ∃ (f : RForm) (s : State) (x : Ex) (h : Nat), x.Calm ∧ x.go = true ∧ x.s.trayOk h x.part = true ∧
      x.s.object x.walker x.allot (x.syncWord f.a) 64 64 false = .at h ∧ x.s.trHold h = true ∧ x.s.trHolder h = x.part ∧
      x.s.trBelow h (x.rdU f.b).toNat (x.s.trFilled h) = true ∧ x.s.trState h (x.rdU f.b).toNat = slotHeld ∧
      x.slotLow h (x.rdU f.b).toNat = false ∧ x.Issues (d f) s)
    ∧ ∃ (f : RForm) (s : State) (x : Ex) (h : Nat), x.Calm ∧ x.go = true ∧ x.s.trayOk h x.part = true ∧
      x.s.object x.walker x.allot (x.syncWord f.a) 64 64 false = .at h ∧ x.Issues (.trq f) s ∧ (x.rdU f.b).toNat < 8 := by
  have h1 := test_tray_meets (.trc testTray1) testTray1 (testTrayAt (.trc testTray1) 65 0 4 3 6 1 4 0) false (by decide +kernel)
  have h2 := test_tray_meets (.trc testTray1) testTray1 (testTrayAt (.trc testTray1) 65 0 4 3 7 0 4 0) false (by decide +kernel)
  have h3 := test_tray_meets (.trf testTray2) testTray2 (testTrayAt (.trf testTray2) 65 5 4 3 6 0 4 (8 ^ 5)) false (by decide +kernel)
  have h4 := test_tray_meets (.trw testTray3) testTray3 (testTrayAt (.trw testTray3) 67 5 6 3 6 1 3 (3 * 8 ^ 5)) true (by decide +kernel)
  have h5 := test_tray_meets (.trw testTray3) testTray3 (testTrayAt (.trw testTray3) 65 6 6 3 6 0 6 0) true (by decide +kernel)
  have h6 := test_tray_meets (.trr testTray2) testTray2 (testTrayAt (.trr testTray2) 65 3 4 3 6 0 0 (2 * 8 ^ 3)) false (by decide +kernel)
  have h7 : ∀ d ∈ [Instr.tro, .trv], (testReady (d testTray2) (testTrayAt (d testTray2) 65 3 4 3 6 1 3 (3 * 8 ^ 3)) &&
      testTrayLies testTray2 (testTrayAt (d testTray2) 65 3 4 3 6 1 3 (3 * 8 ^ 3)) false) = true ∧
      (let x := testParty (testTrayAt (d testTray2) 65 3 4 3 6 1 3 (3 * 8 ^ 3))
       x.s.trHold (spadLoc 0 64) = true ∧ x.s.trBelow (spadLoc 0 64) (x.rdU testTray2.b).toNat (x.s.trFilled (spadLoc 0 64)) = true ∧
       x.s.trState (spadLoc 0 64) (x.rdU testTray2.b).toNat = slotHeld ∧ x.slotLow (spadLoc 0 64) (x.rdU testTray2.b).toNat = false) := by
    intro d hd
    rcases List.mem_cons.1 hd with rfl | hd
    · decide +kernel
    · rcases List.mem_singleton.1 hd with rfl
      decide +kernel
  have h8 := test_tray_meets (.trq testTray3) testTray3 (testTrayAt (.trq testTray3) 65 7 4 3 6 0 4 0) false (by decide +kernel)
  obtain ⟨⟨i, t⟩, hc⟩ := Option.isSome_iff_exists.1
    (by decide +kernel : ((testParty (testTrayAt (.trc testTray1) 65 0 4 3 6 1 4 0)).s.claim (spadLoc 0 64)).isSome = true)
  have hi : i = 6 := by
    have hm := (by decide +kernel :
      ((testParty (testTrayAt (.trc testTray1) 65 0 4 3 6 1 4 0)).s.claim (spadLoc 0 64)).map (·.1) = some 6)
    rw [hc] at hm
    exact Option.some.inj hm
  subst hi
  refine ⟨⟨_, _, _, spadLoc 0 64, 6, t, h1.2.1, h1.2.2.1, h1.2.2.2.1, h1.2.2.2.2.1, h1.1, h1.2.2.2.2.2.2.2.1, by decide +kernel,
      h1.2.2.2.2.2.2.2.2.2, hc, by decide +kernel⟩,
    ⟨_, _, _, spadLoc 0 64, h2.2.1, h2.2.2.1, h2.2.2.2.1, h2.2.2.2.2.1, h2.1, h2.2.2.2.2.2.2.2.1, by decide +kernel, by decide +kernel⟩,
    ⟨_, _, _, spadLoc 0 64, h3.2.1, h3.2.2.1, h3.2.2.2.1, h3.2.2.2.2.1, h3.1, h3.2.2.2.2.2.1, h3.2.2.2.2.2.2.1, by decide +kernel, by decide +kernel⟩,
    ⟨_, _, _, spadLoc 0 64, h4.2.1, h4.2.2.1, h4.2.2.2.1, h4.2.2.2.2.1, h4.1, h4.2.2.2.2.2.2.2.1,
      ⟨by decide +kernel, by decide +kernel, h4.2.2.2.2.2.2.2.2.1⟩, by decide +kernel, by decide +kernel⟩,
    ⟨_, _, _, spadLoc 0 64, h5.2.1, h5.2.2.1, h5.2.2.2.1, h5.2.2.2.2.1, h5.1, h5.2.2.2.2.2.2.2.1, by decide +kernel, by decide +kernel, by decide +kernel⟩,
    ⟨_, _, _, spadLoc 0 64, h6.2.1, h6.2.2.1, h6.2.2.2.1, h6.2.2.2.2.1, h6.1, h6.2.2.2.2.2.1, h6.2.2.2.2.2.2.1, by decide +kernel, by decide +kernel,
      by decide +kernel⟩,
    fun d hd => ?_,
    ⟨_, _, _, spadLoc 0 64, h8.2.1, h8.2.2.1, h8.2.2.2.1, h8.2.2.2.2.1, h8.1, by decide +kernel⟩⟩
  have k := h7 d hd
  have m := test_tray_meets _ _ _ _ k.1
  exact ⟨_, _, _, spadLoc 0 64, m.2.1, m.2.2.1, m.2.2.2.1, m.2.2.2.2.1, k.2.1, m.2.2.2.2.2.2.2.2.1, k.2.2.1, k.2.2.2.1, k.2.2.2.2, m.1⟩

/-- TRI of four slots of 64 bytes at byte 256 with a window of 4, and of 256 slots with a window of 64, HOLD and FINAL_HOLD, that
fill the allotment to its last byte. -/
def testTri : RForm := ⟨false, .vreg 0, .sreg 10, .sreg 12⟩
def testTriAt (a : Word) (ws : List Word) (rows : Nat) : State :=
  testTeam (testGroup (testPlaced (.tri testTri)) (fun g => { g with s := [(10, a), (12, ws.getD 0 0), (13, ws.getD 1 0), (14, ws.getD 2 0)] }))
    (fun t => { t with rows := rows })

theorem witness_TrayIsInitialised (e : Word × List Word × Nat) (he : e ∈ [((65 : Word), [(0x00010403 : Word), 0, 257], 2), (1, [0x000140FF, 3, 65], 9)]) :
    ∃ (f : RForm) (s : State) (x : Ex) (t : Allot), x.Issues (.tri f) s ∧ x.Calm ∧ x.go = true ∧ bit (x.syncWord f.a) 0 = true ∧
      bit (x.syncWord f.a) 1 = false ∧ x.syncWord f.a < 2 ^ 32 ∧ x.syncWord f.a / 4 * 4 % 64 = 0 ∧ x.allot = some t ∧
      x.syncWord f.a / 4 * 4 + 64 ≤ t.rows * 2048 ∧
      (x.s.trClaimed (t.loc (x.syncWord f.a / 4 * 4)) = x.s.trReleased (t.loc (x.syncWord f.a / 4 * 4)) ∧
        x.s.trayAwaited (t.loc (x.syncWord f.a / 4 * 4)) = false) ∧
      (trayDesc (x.run4 f.b) true).ok = true ∧ (trayDesc (x.run4 f.b) true).base + (trayDesc (x.run4 f.b) true).span ≤ t.rows * 2048 ∧
      (trayDesc (x.run4 f.b) true).holder = x.part := by
  have all : [((65 : Word), [(0x00010403 : Word), 0, 257], 2), (1, [0x000140FF, 3, 65], 9)].all (fun e => let s := testTriAt e.1 e.2.1 e.2.2
      testReady (.tri testTri) s && (let x := testParty s; let f := testTri; let t : Allot := ⟨0, 0, e.2.2⟩
      x.go && bit (x.syncWord f.a) 0 && !bit (x.syncWord f.a) 1 && decide (x.syncWord f.a < 2 ^ 32) && decide (x.syncWord f.a / 4 * 4 % 64 = 0) &&
      decide (x.allot = some t) && decide (x.syncWord f.a / 4 * 4 + 64 ≤ t.rows * 2048) &&
      (decide (x.s.trClaimed (t.loc (x.syncWord f.a / 4 * 4)) = x.s.trReleased (t.loc (x.syncWord f.a / 4 * 4))) &&
        !x.s.trayAwaited (t.loc (x.syncWord f.a / 4 * 4))) &&
      (trayDesc (x.run4 f.b) true).ok && decide ((trayDesc (x.run4 f.b) true).base + (trayDesc (x.run4 f.b) true).span ≤ t.rows * 2048) &&
      decide ((trayDesc (x.run4 f.b) true).holder = x.part))) = true := by decide +kernel
  have h := List.all_eq_true.1 all e he
  simp only [Bool.and_eq_true, decide_eq_true_eq, Bool.not_eq_true'] at h
  obtain ⟨h0, ⟨⟨⟨⟨⟨⟨⟨⟨⟨⟨h1, h2⟩, h3⟩, h4⟩, h5⟩, h6⟩, h7⟩, h8⟩, h9⟩, h10⟩, h11⟩⟩ := h
  have hh := test_ready_meets _ _ h0
  exact ⟨testTri, _, _, _, hh.1, hh.2, h1, h2, h3, h4, h5, h6, h7, h8, h9, h10, h11⟩

/-- TRI in the sync page at 2^30, of four slots of 64 bytes at address 256, CHECKED; the header is no tray yet, or one that is idle. -/
def testTriSyncAt (old : Bool) : State :=
  let s := testGroup (testTables (testPlaced (.tri testTri))) (fun g => { g with s := [(10, 0x40000000), (12, 0x00010403), (13, 4), (14, 256)] })
  if old then { s with trays := [0x6000] } else s

theorem witness_TrayIsInitialised_sync (old : Bool) : ∃ (f : RForm) (s : State) (x : Ex) (t : Target), x.Issues (.tri f) s ∧ x.Calm ∧ x.go = true ∧
    bit (x.syncWord f.a) 1 = false ∧ x.syncWord f.a / 4 * 4 % 64 = 0 ∧ bit (x.syncWord f.a) 0 = false ∧
    x.s.translate x.walker .probe (x.syncWord f.a / 4 * 4) 4 = .ok t ∧ t.ty = 6 ∧
    (t.loc ∉ x.s.trays ∨ (x.s.trayOk t.loc x.part = true ∧ x.s.trClaimed t.loc = x.s.trReleased t.loc ∧ x.s.trayAwaited t.loc = false)) ∧
    (trayDesc (x.run4 f.b) false).ok = true ∧ (trayDesc (x.run4 f.b) false).holder = x.part ∧
    x.slotFailure (trayDesc (x.run4 f.b) false) = none := by
  have all : [true, false].all (fun old => let s := testTriSyncAt old
      testReady (.tri testTri) s && (let x := testParty s; let f := testTri
      x.go && !bit (x.syncWord f.a) 1 && decide (x.syncWord f.a / 4 * 4 % 64 = 0) && !bit (x.syncWord f.a) 0 &&
      (match x.s.translate x.walker .probe (x.syncWord f.a / 4 * 4) 4 with
       | .ok t => decide (t.ty = 6) && (!x.s.trays.contains t.loc || (x.s.trayOk t.loc x.part && (decide (x.s.trClaimed t.loc = x.s.trReleased t.loc) && !x.s.trayAwaited t.loc)))
       | _ => false) &&
      (trayDesc (x.run4 f.b) false).ok && decide ((trayDesc (x.run4 f.b) false).holder = x.part) &&
      decide (x.slotFailure (trayDesc (x.run4 f.b) false) = none))) = true := by decide +kernel
  have h := List.all_eq_true.1 all old (by cases old <;> simp)
  simp only [Bool.and_eq_true, decide_eq_true_eq, Bool.not_eq_true'] at h
  obtain ⟨h0, ⟨⟨⟨⟨⟨⟨⟨h1, h2⟩, h3⟩, h4⟩, h5⟩, h6⟩, h7⟩, h8⟩⟩ := h
  cases ht : (testParty (testTriSyncAt old)).s.translate (testParty (testTriSyncAt old)).walker .probe
      ((testParty (testTriSyncAt old)).syncWord testTri.a / 4 * 4) 4 with
  | ok t =>
    simp only [ht, Bool.and_eq_true, decide_eq_true_eq, Bool.or_eq_true, Bool.not_eq_true', List.contains_eq_mem, decide_eq_false_iff_not] at h5
    have hh := test_ready_meets _ _ h0
    exact ⟨testTri, _, _, t, hh.1, hh.2, h1, h2, h3, h4, ht, h5.1, h5.2, h6, h7, h8⟩
  | fault c => simp [ht] at h5
  | wait w => simp [ht] at h5

/-- The MCC with a map in which bands 0 and 1 of its cluster are live, with s1 to s9 and tensors 1, of BF16 and class 1, and 2, of E4M3 and class 1. -/
def testMccAt (i : Instr) (s : Tab Word) : State :=
  let t := testGroup (testMcc (encode i)) (fun g => { g with s := s })
  testCtx { t with map := [(0x2000, 0x30)] } (fun c => { c with tensors := [(1, [0x40, 0x40, 1, 0x1101, 0, 0, 0, 0, 0, 0x40, 0]), (2, [0x40, 0x40, 1, 0x1302, 0, 0, 0, 0, 0, 0x40, 0])] })

def testUnit (a : Operand) : RForm := ⟨false, .vreg 0, a, .vreg 0⟩
def testMcc0 (s : State) (f : Mcc → Mcc) : State := { s with mccs := [(0, f ((Tab.find s.mccs 0).getD (Mcc.start 15)))] }

theorem witness_MshapeWritesTheMask :
    (∀ m ∈ [(0x10 : Word), 0, 0xFFFFFFFF], ∃ (f : RForm) (s : State) (x : Ex), x.Issues (.mshape f) s ∧ x.Calm ∧ x.go = true ∧ x.rdU f.a = m ∧
      ((x.rdU f.a).toNat / 16 ≠ 0 ∨ (x.rdU f.a).toNat % 16 = 0) ∧ x.User)
    ∧ (∃ (f : RForm) (s : State) (x : Ex), x.Issues (.mshape f) s ∧ x.Calm ∧ x.go = true ∧ (x.rdU f.a).toNat / 16 = 0 ∧ (x.rdU f.a).toNat % 16 ≠ 0 ∧
      (∃ b < 4, bit (x.rdU f.a).toNat b = true ∧ bit (x.s.liveBands x.cluster) b = false) ∧ x.User)
    ∧ ∃ (f : RForm) (s : State) (x : Ex), x.Issues (.mshape f) s ∧ x.Calm ∧ x.go = true ∧ (x.rdU f.a).toNat / 16 = 0 ∧ (x.rdU f.a).toNat % 16 ≠ 0 ∧
      ∀ b < 4, bit (x.rdU f.a).toNat b = true → bit (x.s.liveBands x.cluster) b = true := by
  have h2 := test_ready_meets (.mshape (testUnit (.sreg 1))) (testMccAt (.mshape (testUnit (.sreg 1))) [(1, 7)]) (by decide +kernel)
  have h3 := test_ready_meets (.mshape (testUnit (.sreg 1))) (testMccAt (.mshape (testUnit (.sreg 1))) [(1, 3)]) (by decide +kernel)
  refine ⟨fun m hm => ?_, ⟨_, _, _, h2.1, h2.2, by decide +kernel, by decide +kernel, by decide +kernel, by decide +kernel, test_user_meets _ (by decide +kernel)⟩,
    ⟨_, _, _, h3.1, h3.2, by decide +kernel, by decide +kernel, by decide +kernel, by decide +kernel⟩⟩
  have all : [(0x10 : Word), 0, 0xFFFFFFFF].all (fun m => let f := testUnit (.sreg 1); let s := testMccAt (.mshape f) [(1, m)]
      testReady (.mshape f) s && (let x := testParty s
        x.go && decide (x.rdU f.a = m) && decide ((x.rdU f.a).toNat / 16 ≠ 0 ∨ (x.rdU f.a).toNat % 16 = 0) && testUser x)) = true := by decide +kernel
  have h := List.all_eq_true.1 all m hm
  simp only [Bool.and_eq_true, decide_eq_true_eq] at h
  obtain ⟨h0, ⟨⟨h1, h4⟩, h5⟩, h6⟩ := h
  have hh := test_ready_meets _ _ h0
  exact ⟨testUnit (.sreg 1), _, _, hh.1, hh.2, h1, h4, h5, test_user_meets _ h6⟩

/-- The matrix instructions, each with the registers it reads: a drain scale, tensor 1 or 2 with coordinates, and runs of 128 rows. -/
def testRows : RForm := ⟨false, .vreg 3, .sreg 4, .sreg 8⟩
def testTile : RForm := ⟨false, .vreg 3, .vreg 0, .vreg 0⟩

def testMatAt (i : Instr) (queue : List QOp) : State :=
  testMcc0 (testMccAt i [(1, 0x407), (4, 1), (5, 64), (8, 127)]) (fun m => { m with
    mshp := 3, queue := queue, issued := queue.length, plane0 := { m.plane0 with fmt := some 1 }, plane1 := { m.plane1 with fmt := some 1 } })

/-- An operation that has been issued. -/
def testOp (kind seq : Nat) : QOp := { QOp.base kind 0 with seq := seq }

/-- The premises of the statement for a party on the MCC. -/
def testMat (i : Instr) (s : State) (p : Ex → Bool) : Bool :=
  testReady i s && (let x := testParty s; testPlain x && x.go && p x)

theorem test_mat_meets (i : Instr) (s : State) (p : Ex → Bool) (h : testMat i s p = true) :
    ∃ x : Ex, x.Issues i s ∧ x.Calm ∧ x.Plain ∧ x.go = true ∧ p x = true := by
  simp only [testMat, Bool.and_eq_true] at h
  obtain ⟨h0, ⟨h1, h2⟩, h3⟩ := h
  have hh := test_ready_meets _ _ h0
  exact ⟨_, hh.1, hh.2, test_plain_meets _ h1, h2, h3⟩

def testMstrOk (tray : Bool) (x : Ex) : Bool :=
  let r := x.run4 testRows.a
  let b := (x.rdU testRows.b).toNat
  !shapeBad false r b (x.tidScaled (field (r.getD 0 0).toNat 7 0)) && decide (field b 14 8 + field b 6 0 < 128) &&
    (match x.matTensor (field (r.getD 0 0).toNat 7 0), x.mcc.tracked with
     | some ws, some wf => (payload2 (tensorOf ws).fmt wf).isSome && decide ((tensorOf ws).fmt ≠ 6)
     | _, _ => false) && bandsIn x.mcc.mshp (x.s.liveBands x.cluster) && bit (r.getD 0 0).toNat 8 == tray &&
    (!tray || decide (x.wordFault (runTray r) 64 64 = none))

def testMdrnOk (tray : Bool) (x : Ex) : Bool :=
  let r := x.run4 testRows.a
  let b := (x.rdU testRows.b).toNat
  !shapeBad true r b (x.tidScaled (field (r.getD 0 0).toNat 7 0)) && decide (field b 14 8 + field b 6 0 < 128) &&
    (match x.matTensor (field (r.getD 0 0).toNat 7 0) with
     | some ws => drainFormat (tensorOf ws).fmt
     | _ => false) && bit (r.getD 0 0).toNat 8 == tray && (!tray || decide (x.wordFault (runTray r) 64 64 = none))

/-- The registers of a run through a tray: 128 rows, two a slot, at byte 128 of the sync page at 2^30. -/
def testTrayRun (s : State) : State := testGroup s (fun g => { g with s := [(1, 0x407), (4, 0x101), (5, 1), (6, 0x40000080), (8, 127)] })

theorem witness_MatrixInstructionsQueueTheirWork :
    (∃ (f : RForm) (s : State) (x : Ex), x.Issues (.mscl f) s ∧ x.Calm ∧ x.Plain ∧ x.go = true ∧ decide ((x.rdU f.a).toNat < 2 ^ 12 ∧
      field (x.rdU f.a).toNat 10 8 = 4) = true)
    ∧ (∃ (f : RForm) (s : State) (x : Ex), x.Issues (.mwl f) s ∧ x.Calm ∧ x.Plain ∧ x.go = true ∧ (decide (((x.run4 f.a).getD 0 0).toNat < 2 ^ 9) &&
      (match x.matTensor (field ((x.run4 f.a).getD 0 0).toNat 7 0) with
       | some ws => (matClass (tensorOf ws).fmt).isSome && !fmtScaled (tensorOf ws).fmt
       | none => false) && decide (x.mcc.queue.length < 8)) = true)
    ∧ (∃ (f : RForm) (s : State) (x : Ex), x.Issues (.mswap f) s ∧ x.Calm ∧ x.Plain ∧ x.go = true ∧ decide (x.mcc.queue.length = 7) = true)
    ∧ (∃ (f : RForm) (s : State) (x : Ex), x.Issues (.mswap f) s ∧ x.Calm ∧ x.Plain ∧ x.go = true ∧ decide (x.mcc.queue.length = 8) = true)
    ∧ (∃ (f : RForm) (s : State) (x : Ex), x.Issues (.mclr f) s ∧ x.Calm ∧ x.Plain ∧ x.go = true ∧ bandsIn x.mcc.mshp (x.s.liveBands x.cluster) = true)
    ∧ (∀ tray : Bool, ∃ (s : State) (x : Ex), x.Issues (.mstr testRows) s ∧ x.Calm ∧ x.Plain ∧ x.go = true ∧ testMstrOk tray x = true)
    ∧ (∀ tray : Bool, ∃ (s : State) (x : Ex), x.Issues (.mdrn testRows) s ∧ x.Calm ∧ x.Plain ∧ x.go = true ∧ testMdrnOk tray x = true)
    ∧ (∃ (f : RForm) (s : State) (x : Ex), x.Issues (.mwait f) s ∧ x.Calm ∧ x.Plain ∧ x.go = true ∧
      (x.mcc.queue.all (fun q => decide (x.mcc.issued < q.seq + (x.rdU f.a).toNat)) && !x.mcc.queue.isEmpty) = true)
    ∧ (∃ (f : RForm) (s : State) (x : Ex), x.Issues (.mwait f) s ∧ x.Calm ∧ x.Plain ∧ x.go = true ∧
      (x.mcc.queue.any (fun q => decide (q.seq + (x.rdU f.a).toNat ≤ x.mcc.issued)) && decide ((x.rdU f.a).toNat < 8)) = true)
    ∧ ∃ (f : RForm) (s : State) (x : Ex), x.Issues (.mwait f) s ∧ x.Calm ∧ x.Plain ∧ x.go = true ∧ decide ((x.rdU f.a).toNat = 8) = true := by
  refine ⟨⟨testUnit (.sreg 1), _, test_mat_meets _ (testMatAt (.mscl (testUnit (.sreg 1))) []) _ (by decide +kernel)⟩,
    ⟨testUnit (.sreg 4), _, test_mat_meets _ (testMatAt (.mwl (testUnit (.sreg 4))) []) _ (by decide +kernel)⟩,
    ⟨testForm0, _, test_mat_meets _ (testMatAt (.mswap testForm0) ((List.range 7).map (fun n => testOp 4 (n + 1)))) _ (by decide +kernel)⟩,
    ⟨testForm0, _, test_mat_meets _ (testMatAt (.mswap testForm0) ((List.range 8).map (fun n => testOp 4 (n + 1)))) _ (by decide +kernel)⟩,
    ⟨testTile, _, test_mat_meets _ (testMatAt (.mclr testTile) []) _ (by decide +kernel)⟩, fun tray => ?_, fun tray => ?_,
    ⟨testUnit (.sreg 1), _, test_mat_meets _ (testGroup (testMatAt (.mwait (testUnit (.sreg 1))) [testOp 4 1, testOp 4 2])
      (fun g => { g with s := [(1, 2)] })) _ (by decide +kernel)⟩,
    ⟨testUnit (.sreg 1), _, test_mat_meets _ (testGroup (testMatAt (.mwait (testUnit (.sreg 1))) [testOp 4 1, testOp 4 2])
      (fun g => { g with s := [(1, 1)] })) _ (by decide +kernel)⟩,
    ⟨testUnit (.sreg 1), _, test_mat_meets _ (testGroup (testMatAt (.mwait (testUnit (.sreg 1))) [testOp 4 1])
      (fun g => { g with s := [(1, 8)] })) _ (by decide +kernel)⟩⟩
  · cases tray with
    | false => exact ⟨_, test_mat_meets _ (testMatAt (.mstr testRows) []) _ (by decide +kernel)⟩
    | true => exact ⟨_, test_mat_meets _ (testTrayRun (testMatAt (.mstr testRows) [])) _ (by decide +kernel)⟩
  · cases tray with
    | false => exact ⟨_, test_mat_meets _ (testMatAt (.mdrn testRows) []) _ (by decide +kernel)⟩
    | true => exact ⟨_, test_mat_meets _ (testTrayRun (testMatAt (.mdrn testRows) [])) _ (by decide +kernel)⟩

/-- A handler with the tables of the tests and two pages in its pool; s10 and s11 an address, s12 a count or the bits of a page. -/
def testPool (pool : List Nat) (a0 a1 b : Word) (i : Instr) : State :=
  testGroup (testCtx (testTables (testSup (encode i))) (fun c => { c with pool := pool, log := [(5, ⟨[0x00801234, 7], false⟩)] }))
    (fun g => { g with s := [(9, 9), (10, a0), (11, a1), (12, b)] })

def testSuper : RForm := ⟨false, .sreg 9, .sreg 10, .sreg 12⟩
def testTlbi : RForm := ⟨false, .vreg 0, .sreg 10, .sreg 12⟩
def testErrrd : RForm := ⟨false, .sreg 9, .sreg 12, .vreg 0⟩

/-- The way down from the root of the tests' tables. -/
def testWay (x : Ex) : Descent := x.s.wayDown (x.pair testSuper.a x.lead) 5 x.ctx.root

/-- What the statement asks of a PFMAP, with the end of its way and the number of pages. -/
def testPfmap (x : Ex) (d : Descent) (n : Nat) : Bool :=
  x.go && decide ((x.rdU testSuper.b).toNat < 64) && canonical (x.pair testSuper.a x.lead) && x.s.hbmOk x.ctx.root && decide (testWay x = d) &&
    x.ctx.pool.length == n

/-- An entry that is present, and one that is not with a pool of one page and of none; a missing table with a pool of two pages and of
one; a leaf above; the highest bits of a page; an address that is not canonical. -/
theorem witness_SupervisorInstructionsAct :
    (∀ e ∈ [((0, 0x40000000, 63), Descent.entry 0x5000, 1), ((0, 0x40002000, 63), .entry 0x5010, 1), ((0, 0x40002000, 0), .entry 0x5010, 0),
        ((0, 0x40200000, 1), .missing 0x4008 1, 2), ((0, 0x40200000, 1), .missing 0x4008 1, 1), ((0, 0x1000, 1), .leaf, 1)],
      ∃ (s : State) (x : Ex), x.Issues (.pfmap testSuper) s ∧ x.Calm ∧ testPfmap x e.2.1 e.2.2 = true)
    ∧ (∃ (f : RForm) (s : State) (x : Ex), x.Issues (.pfmap f) s ∧ x.Calm ∧ x.go = true ∧ (x.rdU f.b).toNat < 64 ∧
        (canonical (x.pair f.a x.lead) = false ∧ x.s.hbmOk x.ctx.root = true))
    ∧ (∃ (f : RForm) (s : State) (x : Ex), x.Issues (.pfmap f) s ∧ x.Calm ∧ x.go = true ∧ (x.rdU f.b).toNat < 64 ∧
        (canonical (x.pair f.a x.lead) = true ∧ x.s.hbmOk x.ctx.root = false))
    ∧ (∃ (f : RForm) (s : State) (x : Ex), x.Issues (.tlbi f) s ∧ x.Calm ∧ x.go = true)
    ∧ ∀ k ∈ [(40 : Word), 41, 48, 511], ∃ (f : RForm) (s : State) (x : Ex), x.Issues (.errrd f) s ∧ x.Calm ∧ x.go = true ∧ x.rdU f.a = k ∧
        (x.rdU f.a).toNat < 2 ^ 9 := by
  have h2 := test_ready_meets (.pfmap testSuper) (testPool [0x8000] 0 0x01000000 1 (.pfmap testSuper)) (by decide +kernel)
  have h3 := test_ready_meets (.tlbi testTlbi) (testPool [0x8000] 0x40000000 0 3 (.tlbi testTlbi)) (by decide +kernel)
  have h4 := test_ready_meets (.pfmap testSuper) (testCtx (testPool [0x8000] 0 0 1 (.pfmap testSuper)) (fun c => { c with root := 2 ^ 38 }))
    (by decide +kernel)
  refine ⟨fun e he => ?_, ⟨_, _, _, h2.1, h2.2, by decide +kernel, by decide +kernel, by decide +kernel, by decide +kernel⟩,
    ⟨_, _, _, h4.1, h4.2, by decide +kernel, by decide +kernel, by decide +kernel, by decide +kernel⟩, ⟨_, _, _, h3.1, h3.2, by decide +kernel⟩,
    fun k hk => ?_⟩
  · have all : [((0, 0x40000000, 63), Descent.entry 0x5000, 1), ((0, 0x40002000, 63), .entry 0x5010, 1), ((0, 0x40002000, 0), .entry 0x5010, 0),
        ((0, 0x40200000, 1), .missing 0x4008 1, 2), ((0, 0x40200000, 1), .missing 0x4008 1, 1), ((0, 0x1000, 1), .leaf, 1)].all (fun e =>
        let s := testPool ((List.range e.2.2).map (fun n => 0x8000 + 0x1000 * n)) (word e.1.2.1) (word e.1.1) (word e.1.2.2) (.pfmap testSuper)
        testReady (.pfmap testSuper) s && testPfmap (testParty s) e.2.1 e.2.2) = true := by decide +kernel
    have h := List.all_eq_true.1 all e he
    rw [Bool.and_eq_true] at h
    exact ⟨_, _, (test_ready_meets _ _ h.1).1, (test_ready_meets _ _ h.1).2, h.2⟩
  · have all : [(40 : Word), 41, 48, 511].all (fun k => let s := testPool [] 0 0 k (.errrd testErrrd)
        testReady (.errrd testErrrd) s && (let x := testParty s
          x.go && decide (x.rdU testErrrd.a = k) && decide ((x.rdU testErrrd.a).toNat < 2 ^ 9))) = true := by decide +kernel
    have h := List.all_eq_true.1 all k hk
    simp only [Bool.and_eq_true, decide_eq_true_eq] at h
    exact ⟨_, _, _, (test_ready_meets _ _ h.1).1, (test_ready_meets _ _ h.1).2, h.2.1.1, h.2.1.2, h.2.2⟩

/-- Tensors 1 and 2 of FP32 in local HBM, an engine that is live, and a tray at byte 64 of the allotment. -/
def testEngines (s : State) : State :=
  testCtx { s with map := [(0x1003, 0x3)], trays := [spadLoc 0 64], mem := Memory.store s.mem (spadLoc 0 64 + 0x10) (bytesLE 4 0x403 ++ bytesLE 4 1 ++ bytesLE 4 8) }
    (fun c => { c with tensors := [(1, [0x40, 0x40, 1, 0x1001, 0, 0, 0, 0, 0, 0x40, 0]), (2, [0x40, 0x40, 1, 0x1002, 0, 0, 0, 0, 0, 0x40, 0])] })

/-- Runs in s4, s8 and s12. -/
def testRuns (i : Instr) (d a b : List Word) : State :=
  testGroup (testEngines (testPlaced i)) (fun g => { g with s := [(4, d), (8, a), (12, b)].flatMap (fun e => (List.range 4).map (fun n => (e.1 + n, e.2.getD n 0))) })

def testThree : RForm := ⟨false, .sreg 4, .sreg 8, .sreg 12⟩

/-- The words of tensor 7 for TSET, and its removal. -/
def testTsetWords : List Word := [0x40, 0x40, 1, 0x01001007, 0, 0, 0, 0, 0, 0x40, 0, 0]

/-- What TCOPY and TCOPYV ask of their operands: `dst` says that a second tensor is named. -/
def testCopyOk (x : Ex) (dst : Bool) : Bool :=
  let w := ((x.run4 testThree.d).getD 0 0).toNat
  let tray := ((x.run4 testThree.d).getD 2 0).toNat + 2 ^ 32 * ((x.run4 testThree.d).getD 3 0).toNat
  decide (w < 2 ^ 20) && (Tab.find x.ctx.tensors (field w 7 0)).isSome && decide (x.wordFault tray 64 64 = none) &&
    decide (x.s.share x.gridId x.tile ≠ []) && decide (x.s.copiesOf x.g.gang x.g.team < 16) && bit w 19 != dst &&
    (!dst || (Tab.find x.ctx.tensors (field w 15 8)).isSome)

/-- What SLRUN asks. -/
def testSlrun : RForm := ⟨false, .sreg 4, .sreg 8, .sreg 12⟩
def testSlrunOk (x : Ex) (any : Bool) : Bool :=
  let r := x.run4 testSlrun.a
  let b := (x.rdU testSlrun.b).toNat
  let share := x.s.share x.gridId x.tile
  field b 15 5 == 0 && bit b 4 == any && (any || (share.contains (16 * x.tile + field b 3 0) && decide ((x.s.engine (16 * x.tile + field b 3 0)).lists.length < 8))) &&
    (!any || (field b 3 0 == 0 && share.any (fun j => decide ((x.s.engine j).lists.length < 8)))) &&
    decide (x.wordFault ((r.getD 0 0).toNat + 2 ^ 32 * (r.getD 1 0).toNat) 4 4 = none) &&
    decide (x.s.object x.walker x.allot ((r.getD 2 0).toNat + 2 ^ 32 * (r.getD 3 0).toNat) 64 64 false = .at (spadLoc 0 64)) &&
    x.s.trayOk (spadLoc 0 64) x.part

def testSlseq : RForm := ⟨false, .sreg 4, .sreg 8, .vreg 0⟩
def testStail : RForm := ⟨false, .vreg 0, .sreg 4, .sreg 8⟩

/-- A list of engine 0. -/
def testList : SList :=
  { serial := 1, gang := 1, team := 0, ctx := 0, loc := true, addr := 0, p := 0, tail := 3, c := [], loops := [], slot := none, consume := 0, tray := 65,
    vecs := .zero, rel := { party := .core 0, scope := 0, team := teamKey 1 0, vecs := .zero }, srel := [], wait := none, park := none, closing := false,
    cur := none, named := none, tensor := none, row := 0, issuer := 0 }
def testListed (s : State) (ls : List SList) : State := s.setEngine 0 { Engine.empty with lists := ls }

/-- The premises of the statement. -/
def testTcl (i : Instr) (s : State) (p : Ex → Bool) : Bool :=
  testReady i s && (let x := testParty s; testPlain x && testCounts x && x.go && p x)

theorem test_tcl_meets (i : Instr) (s : State) (p : Ex → Bool) (h : testTcl i s p = true) :
    ∃ x : Ex, x.Issues i s ∧ x.Calm ∧ x.Plain ∧ x.Counts ∧ x.go = true ∧ p x = true := by
  simp only [testTcl, Bool.and_eq_true] at h
  obtain ⟨h0, ⟨⟨h1, h2⟩, h3⟩, h4⟩ := h
  have hh := test_ready_meets _ _ h0
  exact ⟨_, hh.1, hh.2, test_plain_meets _ h1, test_counts_meet _ h2, h3, h4⟩

theorem witness_TensorsCopiesAndListsBegin :
    (∀ gone : Bool, ∃ (f : RForm) (s : State) (x : Ex), x.Issues (.tset f) s ∧ x.Calm ∧ x.Plain ∧ x.Counts ∧ x.go = true ∧
      (let ws := x.run4 f.d ++ x.run4 f.a ++ x.run4 f.b
       bit (ws.getD 3 0).toNat 31 == gone && (gone || tsetOk ws)) = true)
    ∧ (∀ dst : Bool, ∃ (s : State) (x : Ex), x.Issues (.tcopy testThree) s ∧ x.Calm ∧ x.Plain ∧ x.Counts ∧ x.go = true ∧ testCopyOk x dst = true)
    ∧ (∃ (s : State) (x : Ex), x.Issues (.tcopyv testThree) s ∧ x.Calm ∧ x.Plain ∧ x.Counts ∧ x.go = true ∧ testCopyOk x true = true)
    ∧ (∀ any : Bool, ∃ (s : State) (x : Ex), x.Issues (.slrun testSlrun) s ∧ x.Calm ∧ x.Plain ∧ x.Counts ∧ x.go = true ∧ testSlrunOk x any = true)
    ∧ (∃ (f : RForm) (s : State) (x : Ex), x.Issues (.stail f) s ∧ x.Calm ∧ x.Plain ∧ x.Counts ∧ x.go = true ∧
      ((x.s.engine 0).lists.any (fun l => decide (l.ctx = x.ctxId ∧ l.serial % 2 ^ 24 = (x.rdU f.a).toNat / 2 ^ 8))) = true)
    ∧ ∃ (f : RForm) (s : State) (x : Ex), x.Issues (.slseq f) s ∧ x.Calm ∧ x.Plain ∧ x.Counts ∧ x.go = true ∧
      (decide (x.s.object x.walker x.allot (x.syncWord f.a) 64 64 false = .at (spadLoc 0 64)) && x.s.trayOk (spadLoc 0 64) x.part) = true := by
  refine ⟨fun gone => ?_, fun dst => ?_,
    ⟨_, test_tcl_meets _ (testRuns (.tcopyv testThree) [0x00201, 0x0808, 65, 0] [] []) _ (by decide +kernel)⟩, fun any => ?_,
    ⟨testStail, _, test_tcl_meets _ (testListed (testRuns (.stail testStail) [0x100] [5] []) [testList]) _ (by decide +kernel)⟩,
    ⟨testSlseq, _, test_tcl_meets _ (testRuns (.slseq testSlseq) [] [65] []) _ (by decide +kernel)⟩⟩
  · cases gone with
    | false => exact ⟨testThree, _, test_tcl_meets _ (testRuns (.tset testThree) [0x01000040, 0x40, 1, 0x1007] [] [0, 0x40, 0, 0]) _ (by decide +kernel)⟩
    | true => exact ⟨testThree, _, test_tcl_meets _ (testRuns (.tset testThree) [0, 0, 0, 0x80000001] [] []) _ (by decide +kernel)⟩
  · cases dst with
    | false => exact ⟨_, test_tcl_meets _ (testRuns (.tcopy testThree) [0x80001, 0x0808, 65, 0] [] []) _ (by decide +kernel)⟩
    | true => exact ⟨_, test_tcl_meets _ (testRuns (.tcopy testThree) [0x00201, 0x0808, 65, 0] [] []) _ (by decide +kernel)⟩
  · cases any with
    | false => exact ⟨_, test_tcl_meets _ (testRuns (.slrun testSlrun) [] [129, 0, 65, 0] [0x00030001]) _ (by decide +kernel)⟩
    | true => exact ⟨_, test_tcl_meets _ (testListed (testRuns (.slrun testSlrun) [] [129, 0, 65, 0] [0xFFFF0010]) [testList]) _ (by decide +kernel)⟩

/-- Engine 0 runs a list of a team whose tray lies at byte 64 of its allotment, with a second list and a copy beside it. -/
def testCopy : Copy :=
  { serial := 1, gang := 1, team := 0, ctx := 0, versioned := false, src := [], dst := [], flags := 0, box := 0, coords := [0, 0, 0, 0],
    dcoords := [0, 0, 0, 0], tray := 65, scope := 0, vecs := .zero, rel := { party := .core 0, scope := 0, team := teamKey 1 0, vecs := .zero },
    slot := none, wait := none, park := none, row := 0, held := [], begun := false, compared := 0,
    ended := none, closing := false, issuer := 0 }

def testEngineAt (claimed attrs states : Nat) (l : SList) (c : Copy) : State :=
  let s := (testTrayAt (.nop testForm0) 0 0 0 0 claimed attrs 0 states).setEngine 0 { Engine.empty with lists := [l, { testList with serial := 2 }], copies := [c] }
  { s with turn := .engine 0 }

def testRunning (l : SList) : State := testEngineAt 1 0 1 l testCopy

def testSLoop (begun : Nat) : SLoop := { start := 2, loc := true, addr := 8, trips := 3, begun := begun }

/-- The premise `EngineRoom`, as a check. -/
def testEngineRoom (s : State) (k n : Nat) : Bool := decide ((s.engine k).count + n < 2 ^ 48) && !s.checked

theorem test_engine_room_meets (s : State) (k n : Nat) (h : testEngineRoom s k n = true) : s.EngineRoom k n := by
  simp only [testEngineRoom, Bool.and_eq_true, decide_eq_true_eq, Bool.not_eq_true'] at h
  exact ⟨h.1, h.2⟩

/-- Lists with three loops open, with a loop that goes round and one that ends, one whose teams have retired, a tray with room and a
full one. -/
theorem witness_ListCommandsAct :
    (∀ l ∈ [testList, { testList with loops := [testSLoop 1, testSLoop 2, testSLoop 3] }, { testList with loops := [testSLoop 3] },
        { testList with closing := true }], (testRunning l).Runs 0 0 l ∧ l.loops.length < 4)
    ∧ (∀ e ∈ [testSLoop 2, testSLoop 3], (testRunning { testList with loops := [e] }).Runs 0 0 { testList with loops := [e] })
    ∧ (∀ e ∈ [1, 4], (testEngineAt e 0 0 testList testCopy).Runs 0 0 testList ∧
        (testEngineAt e 0 0 testList testCopy).engineTray 0 testList.ctx testList.gang testList.team testList.tray = .ok (spadLoc 0 64) ∧
        testList.slot = none ∧
        (testEngineAt e 0 0 testList testCopy).mayClaim (spadLoc 0 64) ((testEngineAt e 0 0 testList testCopy).ctx testList.ctx).part = true)
    ∧ ((testRunning testList).Runs 0 0 testList ∧ ((testRunning testList).cluster testList.vecs.home).qnt = [] ∧ (testRunning testList).EngineRoom 0 1)
    ∧ (∃ i m, (testEngineAt 1 0 0 testList testCopy).claim (spadLoc 0 64) = some (i, m) ∧
        (testEngineAt 1 0 0 testList testCopy).slotScopeLow (engineWalker (testEngineAt 1 0 0 testList testCopy) 0 testList.ctx) (spadLoc 0 64) i
          testList.rel.scope = false)
    ∧ (testEngineAt 4 0 0 testList testCopy).claim (spadLoc 0 64) = none :=
  ⟨by unfold State.Runs; decide +kernel, by unfold State.Runs; decide +kernel, by unfold State.Runs; decide +kernel,
    ⟨by unfold State.Runs; decide +kernel, by decide +kernel, test_engine_room_meets _ _ _ (by decide +kernel)⟩,
    by
      obtain ⟨⟨i, m⟩, h⟩ := Option.isSome_iff_exists.1 (by decide +kernel : ((testEngineAt 1 0 0 testList testCopy).claim (spadLoc 0 64)).isSome = true)
      have hi : i = 1 := by
        have hm := (by decide +kernel : ((testEngineAt 1 0 0 testList testCopy).claim (spadLoc 0 64)).map (·.1) = some 1)
        rw [h] at hm
        exact Option.some.inj hm
      subst hi
      exact ⟨1, m, h, by decide +kernel⟩,
    by decide +kernel⟩

/-- TRQ of a selector at the tray of the tests, where a list and a copy of the party's team are parked beside a list that is not. -/
def testTrqAt (sel : Word) (parked : Bool) : State :=
  let p : Option Park := if parked then some ⟨.trayState, 0, true⟩ else none
  (testTrayAt (.trq testTray3) 65 sel 4 3 6 0 4 0).setEngine 0
    { Engine.empty with lists := [{ testList with park := p, slot := some 5 }, { testList with serial := 2 }], copies := [{ testCopy with serial := 3, park := p }] }

/-- The premises of the clauses on the parked commands. -/
def testParked (s : State) (n : Nat) : Bool :=
  let x := testParty s
  let gone := (x.s.parkedAt x.g.gang x.g.team (spadLoc 0 64)).foldl (fun (s : State) e =>
    match e.2 with | .list l => s.abandonList e.1 l | .copy c => s.abandonCopy e.1 c) x.s
  decide ((x.s.engines.map (·.1)).Nodup) && decide (x.s.engines.map (·.1) = [0]) && decide (((x.s.engine 0).lists.map (fun l => (l.serial, l.ctx))).Nodup) &&
    decide (((x.s.engine 0).copies.map (fun c => (c.serial, c.ctx))).Nodup) && decide ((x.rdU testTray3.b).toNat = n) && !gone.checked && testUser x &&
    decide ((x.s.parkedAt x.g.gang x.g.team (spadLoc 0 64)).length = 2)

theorem witness_TrayInstructionsAct_parked (n : Nat) (hn : n ∈ [8, 9, 10]) : ∃ (f : RForm) (s : State) (x : Ex) (h : Nat), x.Calm ∧ x.go = true ∧
    x.s.trayOk h x.part = true ∧ x.s.object x.walker x.allot (x.syncWord f.a) 64 64 false = .at h ∧ x.Issues (.trq f) s ∧
    (x.s.engines.map (·.1)).Nodup ∧
    (∀ k, ((x.s.engine k).lists.map (fun l => (l.serial, l.ctx))).Nodup ∧ ((x.s.engine k).copies.map (fun c => (c.serial, c.ctx))).Nodup) ∧
    (x.rdU f.b).toNat = n ∧
    ((x.s.parkedAt x.g.gang x.g.team h).foldl (fun (s : State) e =>
      match e.2 with | .list l => s.abandonList e.1 l | .copy c => s.abandonCopy e.1 c) x.s).checked = false ∧ x.User ∧
    (x.s.parkedAt x.g.gang x.g.team h).length = 2 := by
  have all : [8, 9, 10].all (fun n => testReady (.trq testTray3) (testTrqAt (word n) true) && testTrayLies testTray3 (testTrqAt (word n) true) false &&
      testParked (testTrqAt (word n) true) n) = true := by decide +kernel
  have h := List.all_eq_true.1 all n hn
  rw [Bool.and_eq_true] at h
  have m := test_tray_meets _ _ _ _ h.1
  have k := h.2
  simp only [testParked, Bool.and_eq_true, decide_eq_true_eq, Bool.not_eq_true'] at k
  obtain ⟨⟨⟨⟨⟨⟨⟨k1, k2⟩, k3⟩, k4⟩, k5⟩, k6⟩, k7⟩, k8⟩ := k
  refine ⟨testTray3, _, _, spadLoc 0 64, m.2.1, m.2.2.1, m.2.2.2.1, m.2.2.2.2.1, m.1, k1, fun j => ?_, k5, k6, test_user_meets _ k7, k8⟩
  by_cases hj : j = 0
  · exact hj ▸ ⟨k3, k4⟩
  · have he : (testParty (testTrqAt (word n) true)).s.engine j = Engine.empty := by
      obtain ⟨e, h1, h2⟩ := List.map_eq_singleton_iff.1 k2
      simp [State.engine, Tab.read, h1, Tab.find, h2, Ne.symm hj]
    rw [he]
    exact ⟨List.nodup_nil, List.nodup_nil⟩

/-- Tensors 1 and 2 of FP32 in global memory, and the tables of the tests, for engine 0 with these jobs. The tray's slots are of 64 bytes. -/
def testTensor : List Word := [0x40, 0x40, 1, 0x01001001, 0x40, 0, 0, 0, 0, 0x40, 0]
def testTransfer (claimed states : Nat) (l : SList) (c : Copy) : State := testTables (testEngineAt claimed 0 states l c)

/-- A list in the midst of a command on a box of two rows of four elements, at this row. -/
def testBox : BoxForm := ⟨1, false, false, true, false, 2, 0, 0x0103⟩
def testBusy (row : Nat) (slot : Option Word) : SList := { testList with tensor := some testTensor, row := row, slot := slot }

/-- A row of an SFETCH, and one of an SSTORE. -/
def testFetched (s : State) (l : SList) : Option State :=
  let ag := boxAgents s 0 l.ctx l.gang l.team testBox.scope.toNat l.vecs (testBox.acq || testBox.rel)
  match ag.1.readRow s (tensorOf testTensor) testBox.mirror (boxOf testBox.box) (l.origin testBox.quad) l.row with
  | .ok (es, s0) =>
    match ag.2.slotPut s0 (s.trLoc (spadLoc 0 64)) (s.slotAt (spadLoc 0 64) (l.slot.getD 0).toNat) (tensorOf testTensor).fmt (boxOf testBox.box) l.row es with
    | .ok s1 => some s1
    | _ => none
  | _ => none

def testStored (s : State) (l : SList) : Option State :=
  let ag := boxAgents s 0 l.ctx l.gang l.team testBox.scope.toNat l.vecs (testBox.acq || testBox.rel)
  let b := boxOf testBox.box
  let t := tensorOf testTensor
  match ag.2.slotGet s (s.trLoc (spadLoc 0 64)) (s.slotAt (spadLoc 0 64) l.consume.toNat) t.fmt b l.row with
  | .ok ((codes, scales), s0) =>
    match Acc.fold (fun (s : State) (e : Nat × Nat) => ag.1.putElement s t (b.coord (l.origin testBox.quad) l.row e.1) e.2) ((List.range b.b0).zip codes) s0 with
    | .ok s1 =>
      match Acc.fold (fun (s : State) (e : Nat × Nat) => ag.1.putScale s t (b.coord (l.origin testBox.quad) l.row (32 * e.1)) e.2)
          ((List.range b.blocks).zip scales) s1 with
      | .ok s2 => some s2
      | _ => none
    | _ => none
  | _ => none

theorem test_fetched (s : State) (l : SList) (s1 : State) (h : testFetched s l = some s1) : ∃ es s0,
    (boxAgents s 0 l.ctx l.gang l.team testBox.scope.toNat l.vecs (testBox.acq || testBox.rel)).1.readRow s (tensorOf testTensor) testBox.mirror
      (boxOf testBox.box) (l.origin testBox.quad) l.row = .ok (es, s0) ∧
    (boxAgents s 0 l.ctx l.gang l.team testBox.scope.toNat l.vecs (testBox.acq || testBox.rel)).2.slotPut s0 (s.trLoc (spadLoc 0 64))
      (s.slotAt (spadLoc 0 64) (l.slot.getD 0).toNat) (tensorOf testTensor).fmt (boxOf testBox.box) l.row es = .ok s1 := by
  dsimp only [testFetched] at h
  split at h
  · rename_i es s0 h0
    split at h
    · rename_i s2 h1
      injection h with h
      exact ⟨es, s0, h0, h ▸ h1⟩
    · cases h
  · cases h

/-- What the statement asks of the row: the tray, the slot, and where it is the last one that it may be filled. -/
theorem witness_BoxCommandsAndCopiesTransfer_fetch (row : Nat) (hr : row ∈ [0, 1]) : ∃ (s : State) (l : SList) (h : Nat) (i : Word) (es : List (Nat × Nat))
    (s0 s1 : State), s.Runs 0 0 l ∧ testBox.rsv = 0 ∧ l.row = row ∧ s.engineTray 0 l.ctx l.gang l.team l.tray = .ok h ∧ l.tensor = some testTensor ∧
    l.slot = some i ∧
    (boxAgents s 0 l.ctx l.gang l.team testBox.scope.toNat l.vecs (testBox.acq || testBox.rel)).1.readRow s (tensorOf testTensor) testBox.mirror
      (boxOf testBox.box) (l.origin testBox.quad) l.row = .ok (es, s0) ∧
    (boxAgents s 0 l.ctx l.gang l.team testBox.scope.toNat l.vecs (testBox.acq || testBox.rel)).2.slotPut s0 (s.trLoc h) (s.slotAt h i.toNat)
      (tensorOf testTensor).fmt (boxOf testBox.box) l.row es = .ok s1 ∧
    (row + 1 < (boxOf testBox.box).rows ↔ row = 0) ∧ s1.trState h i.toNat = slotClaimed ∧ (s1.cluster l.vecs.home).qnt = [] ∧
    s1.EngineRoom 0 2 := by
  have all : [0, 1].all (fun row => let l := testBusy row (some 0); let s := testTransfer 1 1 l testCopy
      decide (s.turn = .engine 0 ∧ s.job 0 = some (0, .list l)) && decide (s.engineTray 0 l.ctx l.gang l.team l.tray = .ok (spadLoc 0 64)) &&
      decide (row + 1 < (boxOf testBox.box).rows ↔ row = 0) &&
      (match testFetched s l with
       | some s1 => decide (s1.trState (spadLoc 0 64) 0 = slotClaimed) && decide ((s1.cluster l.vecs.home).qnt = []) && testEngineRoom s1 0 2
       | none => false)) = true := by decide +kernel
  have h := List.all_eq_true.1 all row hr
  simp only [Bool.and_eq_true, decide_eq_true_eq] at h
  obtain ⟨⟨⟨h1, h2⟩, h3⟩, h4⟩ := h
  cases hf : testFetched (testTransfer 1 1 (testBusy row (some 0)) testCopy) (testBusy row (some 0)) with
  | none => rw [hf] at h4; cases h4
  | some s1 =>
    rw [hf] at h4
    simp only [Bool.and_eq_true, decide_eq_true_eq] at h4
    obtain ⟨es, s0, h5, h6⟩ := test_fetched _ _ _ hf
    exact ⟨_, _, spadLoc 0 64, 0, es, s0, s1, h1, rfl, rfl, h2, rfl, rfl, h5, h6, h3, h4.1.1, h4.1.2, test_engine_room_meets _ _ _ h4.2⟩

theorem witness_BoxCommandsAndCopiesTransfer_store (row : Nat) (hr : row ∈ [0, 1]) : ∃ (s : State) (l : SList) (h : Nat) (codes scales : List Nat)
    (s0 s1 s2 : State), s.Runs 0 0 l ∧ testBox.rsv = 0 ∧ l.row = row ∧ s.engineTray 0 l.ctx l.gang l.team l.tray = .ok h ∧ l.tensor = some testTensor ∧
    (let ag := boxAgents s 0 l.ctx l.gang l.team testBox.scope.toNat l.vecs (testBox.acq || testBox.rel)
     let b := boxOf testBox.box
     let t := tensorOf testTensor
     ag.2.slotGet s (s.trLoc h) (s.slotAt h l.consume.toNat) t.fmt b l.row = .ok ((codes, scales), s0) ∧
     Acc.fold (fun (s : State) (e : Nat × Nat) => ag.1.putElement s t (b.coord (l.origin testBox.quad) l.row e.1) e.2)
       ((List.range b.b0).zip codes) s0 = .ok s1 ∧
     Acc.fold (fun (s : State) (e : Nat × Nat) => ag.1.putScale s t (b.coord (l.origin testBox.quad) l.row (32 * e.1)) e.2)
       ((List.range b.blocks).zip scales) s1 = .ok s2) ∧
    (row + 1 < (boxOf testBox.box).rows ↔ row = 0) ∧ s2.canRelease h l.consume.toNat = true ∧ (s2.cluster l.vecs.home).qnt = [] ∧
    s2.egressOn h = false ∧ s2.slotScopeLow (engineWalker s2 0 l.ctx) h l.consume.toNat testBox.scope.toNat = false ∧ s2.EngineRoom 0 2 := by
  have all : [0, 1].all (fun row => let l := testBusy row none; let s := testTransfer 1 2 l testCopy
      decide (s.turn = .engine 0 ∧ s.job 0 = some (0, .list l)) && decide (s.engineTray 0 l.ctx l.gang l.team l.tray = .ok (spadLoc 0 64)) &&
      decide (row + 1 < (boxOf testBox.box).rows ↔ row = 0) &&
      (match testStored s l with
       | some s1 => s1.canRelease (spadLoc 0 64) l.consume.toNat && decide ((s1.cluster l.vecs.home).qnt = []) &&
          decide (s1.egressOn (spadLoc 0 64) = false) &&
          !s1.slotScopeLow (engineWalker s1 0 l.ctx) (spadLoc 0 64) l.consume.toNat testBox.scope.toNat && testEngineRoom s1 0 2
       | none => false)) = true := by decide +kernel
  have h := List.all_eq_true.1 all row hr
  simp only [Bool.and_eq_true, decide_eq_true_eq] at h
  obtain ⟨⟨⟨h1, h2⟩, h3⟩, h4⟩ := h
  cases hf : testStored (testTransfer 1 2 (testBusy row none) testCopy) (testBusy row none) with
  | none => rw [hf] at h4; cases h4
  | some s2 =>
    rw [hf] at h4
    simp only [Bool.and_eq_true, decide_eq_true_eq, Bool.not_eq_true'] at h4
    dsimp only [testStored] at hf
    split at hf
    · rename_i codes scales s0 hg
      split at hf
      · rename_i s1 hp
        split at hf
        · rename_i s3 hq
          injection hf with hf
          subst hf
          exact ⟨_, _, spadLoc 0 64, codes, scales, s0, s1, s3, h1, rfl, rfl, h2, rfl, ⟨hg, hp, hq⟩, h3, h4.1.1.1.1, h4.1.1.1.2, h4.1.1.2, h4.1.2,
            test_engine_room_meets _ _ _ h4.2⟩
        · cases hf
      · cases hf
    · cases hf

/-- Engine 0 with a copy alone: one that has not begun, one to a slot after its last row, a versioned one after its last row. -/
def testCopying (c : Copy) (states : Nat) : State :=
  let s := testTransfer 1 states testList c
  s.setEngine 0 { Engine.empty with copies := [c] }

def testToSlot : Copy := { testCopy with flags := 0x80001, src := testTensor, box := 0x0103, slot := some 0, begun := true, row := 2 }
def testVersioned : Copy :=
  { testCopy with versioned := true, flags := 0x00201, src := testTensor, dst := testTensor, box := 0x0103, slot := some 0, begun := true, row := 2,
                  dcoords := [0, 0, 7, 0] }

/-- The version that the copy finds, and what its status record makes. -/
def testVersion (s : State) (c : Copy) : Option (Nat × State × State) :=
  match (engineAgent s 0 c.ctx c.gang c.team c.vecs (if c.acq then some c.scope else none)).version s (tensorOf c.dst) with
  | .ok (v, s1) =>
    let s3 := s1.setCopy 0 { c with compared := v, ended := some (1, 0, v) }
    match (engineAgent s3 0 c.ctx c.gang c.team c.vecs (some c.scope)).writeRange s3 (s3.trLoc (spadLoc 0 64)) (s3.slotAt (spadLoc 0 64) 0)
        ((statusRecord 1 0 v).map (fun b _ => b)) with
    | .ok s2 => some (v, s1, s2)
    | _ => none
  | _ => none

theorem witness_BoxCommandsAndCopiesTransfer_copies :
    (∃ (s : State) (p : Nat) (c : Copy) (h i : Nat) (m : State), s.job 0 = some (p, .copy c) ∧ s.engineTray 0 c.ctx c.gang c.team c.tray = .ok h ∧
      c.begun = false ∧ s.mayClaim h (s.ctx c.ctx).part = true ∧ s.claim h = some (i, m) ∧ s.slotScopeLow (engineWalker s 0 c.ctx) h i c.scope = false ∧ c.ended = none ∧ s.EngineRoom 0 2)
    ∧ (∃ (s : State) (p : Nat) (c : Copy) (h : Nat) (i : Word), s.job 0 = some (p, .copy c) ∧ s.engineTray 0 c.ctx c.gang c.team c.tray = .ok h ∧
      c.begun = true ∧ c.toSlot = true ∧ c.versioned = false ∧ c.slot = some i ∧ (tensorOf c.src).usable = true ∧
      (boxOf c.box).bytes (tensorOf c.src).fmt ≤ s.trSize h ∧ (boxOf c.box).rows ≤ c.row ∧ s.trState h i.toNat = slotClaimed ∧
      (s.cluster c.vecs.home).qnt = [] ∧ c.ended = none ∧ s.EngineRoom 0 2)
    ∧ (∃ (s : State) (p : Nat) (c : Copy) (h : Nat) (i : Word) (v : Nat) (s1 s2 : State), s.job 0 = some (p, .copy c) ∧
      s.engineTray 0 c.ctx c.gang c.team c.tray = .ok h ∧ c.begun = true ∧ c.toSlot = false ∧ c.versioned = true ∧ c.rels = false ∧ c.slot = some i ∧
      (tensorOf c.src).usable = true ∧ (tensorOf c.dst).usable = true ∧ (boxOf c.box).rows ≤ c.row ∧
      (engineAgent s 0 c.ctx c.gang c.team c.vecs (if c.acq then some c.scope else none)).version s (tensorOf c.dst) = .ok (v, s1) ∧
      v ≠ (c.dcoords.getD 2 0).toNat + 2 ^ 32 * (c.dcoords.getD 3 0).toNat ∧
      (let s3 := s1.setCopy 0 { c with compared := v, ended := some (1, 0, v) }
       (engineAgent s3 0 c.ctx c.gang c.team c.vecs (some c.scope)).writeRange s3 (s3.trLoc h) (s3.slotAt h i.toNat)
         ((statusRecord 1 0 v).map (fun b _ => b)) = .ok s2) ∧ s2.trState h i.toNat = slotClaimed ∧ (s2.cluster c.vecs.home).qnt = [] ∧
      c.ended = none ∧ s.EngineRoom 0 2 ∧ s2.EngineRoom 0 2)
    ∧ ∃ (s : State) (l : SList), l ∈ (s.engine 0).lists ∧ l.wait = some .tail ∧ l.p < l.tail := by
  obtain ⟨⟨i, m⟩, hc⟩ := Option.isSome_iff_exists.1 (by decide +kernel : ((testCopying testCopy 1).claim (spadLoc 0 64)).isSome = true)
  have hi : i = 1 := by
    have hm := (by decide +kernel : ((testCopying testCopy 1).claim (spadLoc 0 64)).map (·.1) = some 1)
    rw [hc] at hm
    exact Option.some.inj hm
  subst hi
  have hv : (match testVersion (testCopying testVersioned 1) testVersioned with
      | some e => decide (e.1 ≠ 7) && decide (e.2.2.trState (spadLoc 0 64) 0 = slotClaimed) && decide ((e.2.2.cluster testVersioned.vecs.home).qnt = []) && testEngineRoom e.2.2 0 2
      | none => false) = true := by decide +kernel
  refine ⟨⟨_, 0, testCopy, spadLoc 0 64, 1, m, by decide +kernel, by decide +kernel, rfl, by decide +kernel, hc, by decide +kernel, rfl,
      test_engine_room_meets _ _ _ (by decide +kernel)⟩,
    ⟨testCopying testToSlot 1, 0, testToSlot, spadLoc 0 64, 0, by decide +kernel, by decide +kernel, rfl, by decide +kernel, rfl, rfl, by decide +kernel,
      by decide +kernel, by decide +kernel, by decide +kernel, by decide +kernel, rfl, test_engine_room_meets _ _ _ (by decide +kernel)⟩, ?_,
    ⟨testEngineAt 1 0 1 { testList with wait := some .tail } testCopy, { testList with wait := some .tail }, by decide +kernel, rfl, by decide⟩⟩
  cases he : testVersion (testCopying testVersioned 1) testVersioned with
  | none => rw [he] at hv; cases hv
  | some e =>
    rw [he] at hv
    simp only [Bool.and_eq_true, decide_eq_true_eq] at hv
    dsimp only [testVersion] at he
    split at he
    · rename_i v s1 h1
      split at he
      · rename_i s2 h2
        injection he with he
        subst he
        exact ⟨testCopying testVersioned 1, 0, testVersioned, spadLoc 0 64, 0, v, s1, s2, by decide +kernel, by decide +kernel, rfl, by decide +kernel, rfl,
          by decide +kernel, rfl, by decide +kernel, by decide +kernel, by decide +kernel, h1, hv.1.1.1, h2, hv.1.1.2, hv.1.2, rfl,
          test_engine_room_meets _ _ _ (by decide +kernel), test_engine_room_meets _ _ _ hv.2⟩
      · cases he
    · cases he

/-- The MCC of cluster 0 with these operations queued, and with a tray in the sync page at 2^30. -/
def testQueued (qs : List QOp) : State :=
  let s := testTables (testMatAt (.nop testForm0) qs)
  { s with trays := [0x6080], sync := [0x304, 0x305], mem := Memory.store s.mem 0x6084 (bytesLE 4 7 ++ bytesLE 4 7 ++ bytesLE 4 0 ++ bytesLE 4 0x403 ++ bytesLE 4 16) }

def testQMstr (tray : Option Nat) : QOp := { testOp 2 1 with mask := 3, count := 128, tray := tray, tensor := [0x40, 0x40, 1, 0x1101, 0, 0, 0, 0, 0, 0x40, 0] }
def testQMclr : QOp := { testOp 4 2 with mask := 3, count := 128, started := true }
def testQMwl : QOp := { testOp 1 1 with mask := 3, count := 256, started := true, tensor := [0x200, 0x200, 1, 0x01001001, 0, 0x100, 0, 0, 0, 0x200, 0] }

def testRowOk (s : State) (q : QOp) : Option (QOp × State) := match s.rowOf 0 q with | .ok q1 s1 => some (q1, s1) | _ => none
def testRowFault (s : State) (q : QOp) : Option (Cause × Option Nat × QOp × State) := match s.rowOf 0 q with | .fault c a q1 s1 => some (c, a, q1, s1) | _ => none

theorem test_row_ok (s : State) (q : QOp) (e : QOp × State) (h : testRowOk s q = some e) : s.rowOf 0 q = .ok e.1 e.2 := by
  dsimp only [testRowOk] at h
  split at h
  · rename_i h0
    injection h with h
    rw [h0, ← h]
  · cases h

theorem test_row_fault (s : State) (q : QOp) (e : Cause × Option Nat × QOp × State) (h : testRowFault s q = some e) :
    s.rowOf 0 q = .fault e.1 e.2.1 e.2.2.1 e.2.2.2 := by
  dsimp only [testRowFault] at h
  split at h
  · rename_i h0
    injection h with h
    rw [h0, ← h]
  · cases h

/-- Operations that may start, of every way of starting: the exchange, a stream from a tensor and from a tray, and a clearing behind one
that has started; one whose row is brought in, one whose row faults, and one that is complete. -/
theorem witness_QueuedOperationsRun :
    (∀ q ∈ [testOp 5 1, testQMstr none, testQMstr (some 0x40000080), testOp 1 1], ∃ (s : State) (m : Mcc), Tab.find s.mccs 0 = some m ∧
      m.queue[0]? = some q ∧ m.canStart 0 q = true)
    ∧ (∃ (s : State) (m : Mcc), Tab.find s.mccs 0 = some m ∧ m.queue[1]? = some (testOp 1 3) ∧ m.canStart 1 (testOp 1 3) = true)
    ∧ (testQueued [testQMstr (some 0x40000080)]).queueTray 0 0x40000080 = .ok 0x6080
    ∧ (∃ (s : State) (m : Mcc) (q q1 : QOp) (s1 : State), Tab.find s.mccs 0 = some m ∧ m.queue[0]? = some q ∧ q.started = true ∧ q.streamed = false ∧
      q.tail = 0 ∧ m.qf = none ∧ m.inputFree 0 q = true ∧ s.rowOf 0 q = .ok q1 s1)
    ∧ (∃ (s : State) (m : Mcc) (q : QOp) (cause : Cause) (a : Option Nat) (q1 : QOp) (s1 : State) (n : Mcc) (g : Group), Tab.find s.mccs 0 = some m ∧
      m.queue[0]? = some q ∧ q.started = true ∧ q.streamed = false ∧ q.tail = 0 ∧ m.qf = none ∧ m.inputFree 0 q = true ∧
      s.rowOf 0 q = .fault cause a q1 s1 ∧ Tab.find s1.mccs 0 = some n ∧ n.qf = none ∧ s1.group (gidOf 0 64) = some g ∧ g.run = .running ∧
      g.splits.all (fun p => p.wait.isNone) = true ∧ s1.checked = false ∧ cause ≠ .limitWait)
    ∧ ∃ (s : State) (m : Mcc) (q : QOp), Tab.find s.mccs 0 = some m ∧ m.queue[0]? = some q ∧ q.started = true ∧ q.streamed = true ∧ q.tail = 0 := by
  have find : ∀ qs, (Tab.find (testQueued qs).mccs 0).isSome = true → ∃ m, Tab.find (testQueued qs).mccs 0 = some m ∧ m = Tab.read (testQueued qs).mccs 0 (Mcc.start 15) := by
    intro qs h
    obtain ⟨m, hm⟩ := Option.isSome_iff_exists.1 h
    exact ⟨m, hm, by simp [Tab.read, hm]⟩
  refine ⟨fun q hq => ?_, ?_, by decide +kernel, ?_, ?_, ?_⟩
  · have all : [testOp 5 1, testQMstr none, testQMstr (some 0x40000080), testOp 1 1].all (fun q => match Tab.find (testQueued [q]).mccs 0 with
      | some m => decide (m.queue[0]? = some q) && m.canStart 0 q
      | none => false) = true := by decide +kernel
    have h := List.all_eq_true.1 all q hq
    cases hf : Tab.find (testQueued [q]).mccs 0 with
    | none => rw [hf] at h; cases h
    | some m =>
      rw [hf] at h
      simp only [Bool.and_eq_true, decide_eq_true_eq] at h
      exact ⟨_, m, hf, h.1, h.2⟩
  · obtain ⟨m, hm, rfl⟩ := find [testQMclr, testOp 1 3] (by decide +kernel)
    exact ⟨_, _, hm, by decide +kernel, by decide +kernel⟩
  · obtain ⟨m, hm, rfl⟩ := find [testQMclr] (by decide +kernel)
    obtain ⟨e, he⟩ := Option.isSome_iff_exists.1 (by decide +kernel : (testRowOk (testQueued [testQMclr]) testQMclr).isSome = true)
    exact ⟨_, _, testQMclr, e.1, e.2, hm, by decide +kernel, rfl, by decide, rfl, by decide +kernel, by decide +kernel, test_row_ok _ _ _ he⟩
  · obtain ⟨m, hm, rfl⟩ := find [testQMwl] (by decide +kernel)
    have hv : (match testRowFault (testQueued [testQMwl]) testQMwl with
      | some e => (match Tab.find e.2.2.2.mccs 0, e.2.2.2.group (gidOf 0 64) with
          | some n, some g => decide (n.qf = none) && decide (g.run = .running) && g.splits.all (fun p => p.wait.isNone) && !e.2.2.2.checked
          | _, _ => false) && decide (e.1 ≠ .limitWait)
      | none => false) = true := by decide +kernel
    cases he : testRowFault (testQueued [testQMwl]) testQMwl with
    | none => rw [he] at hv; cases hv
    | some e =>
      rw [he] at hv
      dsimp only at hv
      split at hv
      · rename_i n g hn hg
        simp only [Bool.and_eq_true, decide_eq_true_eq, Bool.not_eq_true'] at hv
        exact ⟨_, _, testQMwl, e.1, e.2.1, e.2.2.1, e.2.2.2, n, g, hm, by decide +kernel, rfl, by decide, rfl, by decide +kernel, by decide +kernel,
          test_row_fault _ _ _ he, hn, hv.1.1.1.1, hg, hv.1.1.1.2, hv.1.1.2, hv.1.2, hv.2⟩
      · cases hv
  · obtain ⟨m, hm, rfl⟩ := find [{ testQMclr with cursor := 128 }] (by decide +kernel)
    exact ⟨_, _, { testQMclr with cursor := 128 }, hm, by decide +kernel, rfl, by decide, rfl⟩

/-- A party whose grid was launched on quote 1, with a standing quote 2 for the site at PC 0, and a launch block at address 0x40 of one team,
one argument 77, record as asked and, with `bad`, a reserved bit. -/
def testKernel1 : Kernel := { Kernel.empty with buckets := [⟨0, 64, false, []⟩] }
def testReq : QuoteReq := { ctx := 0, kernel := testKernel1, digest := [5], counts := [1], groups := 1, p := 1, f := 1, priority := 0, ceiling := 16, sites := [], result := 0 }
def testQuote (state : QState) (parent first : Nat) : Quote :=
  { req := testReq, mapv := 0, budget := 100, bound := 200, energy := 3, bucket := 0, rows := 1, waves := 1, parent := parent, site := 0, res := 1,
    issued := 0, state := state, first := first, grid := 0 }

def testBlock : List Byte :=
  bytesLE 4 0x01110100 ++ bytesLE 4 9 ++ List.replicate 12 0 ++ bytesLE 4 0x02000000 ++ List.replicate 24 0 ++ [1] ++ List.replicate 79 0 ++ bytesLE 4 77 ++
    List.replicate 124 0

def testLaunch : RForm := ⟨false, .sreg 3, .sreg 10, .sreg 12⟩
def testLaunchAt : State :=
  let s := testGrid (testGroup (testTables (testPlaced (.launch testLaunch))) (fun g => { g with s := [(10, 0x80), (12, 0xFFFFFFC0)] }))
    (fun g => { g with quote := some 1, launchedOn := 1 })
  { s.storeBytes 0x40000040 testBlock with quotes := [(1, testQuote .launched 0 1), (2, testQuote .accepted 1 2)], reservations := [(1, ⟨[0], [], [], 16⟩)], nextGrid := 5 }

def testBytes (r : BlockRead) : Option (List Byte × Ex) := match r with | .bytes bs y => some (bs, y) | _ => none

theorem test_bytes (r : BlockRead) (e : List Byte × Ex) (h : testBytes r = some e) : r = .bytes e.1 e.2 := by
  cases r with
  | bytes bs y => injection h with h; rw [← h]
  | _ => cases h

def testRead : Option (List Byte × Ex) :=
  let x := testParty testLaunchAt
  testBytes (x.readBlock ((x.pair testLaunch.a x.lead + ((x.rdU testLaunch.b).signExtend 64).toNat) % 2 ^ 64))

/-- A team with a child grid 7 of serial 2^28 + 3 in entry 15. -/
def testLwait : RForm := ⟨false, .sreg 3, .sreg 10, .vreg 0⟩
def testLwaitAt (h : Word) (complete : Bool) : State :=
  let s := testTeam (testGroup (testPlaced (.lwait testLwait)) (fun g => { g with s := [(10, h)] })) (fun t => { t with children := [(15, ⟨2 ^ 28 + 3, 7⟩)] })
  s.setGrid 7 { Grid.empty with complete := complete, status := 2 }

theorem witness_ChildGridsAreLaunchedAndAwaited :
    (∃ (f : RForm) (s : State) (x y0 : Ex) (bs : List Byte) (qid e : Nat) (q : Quote) (kb : Bucket), x.Issues (.launch f) s ∧ x.Calm ∧ x.Plain ∧ x.Counts ∧
      x.go = true ∧ x.readBlock ((x.pair f.a x.lead + ((x.rdU f.b).signExtend 64).toNat) % 2 ^ 64) = .bytes bs y0 ∧ (blockOf bs).ok = true ∧
      y0.standing (blockOf bs) = some (qid, q, kb) ∧ y0.s.quoteTouched q = false ∧ y0.team.freeChild = some e ∧
      (∀ l, y0.limit 4 y0.sp.pc = some l → Tab.read y0.team.launches y0.sp.pc.toNat 0 < l.n) ∧ y0.grid.replay = none)
    ∧ (∀ h ∈ [(15 : Word), 0x3E, 0x4F], ∃ (f : RForm) (s : State) (x : Ex), x.Issues (.lwait f) s ∧ x.Calm ∧ x.go = true ∧ x.sp.ticket = none ∧ x.rdU f.a = h ∧
      ∀ c, Tab.find x.team.children ((x.rdU f.a).toNat % 16) = some c → c.serial % 2 ^ 28 ≠ (x.rdU f.a).toNat / 16)
    ∧ ∀ done : Bool, ∃ (f : RForm) (s : State) (x : Ex) (c : Child), x.Issues (.lwait f) s ∧ x.Calm ∧ x.go = true ∧ x.sp.ticket = none ∧
      Tab.find x.team.children ((x.rdU f.a).toNat % 16) = some c ∧ c.serial % 2 ^ 28 = (x.rdU f.a).toNat / 16 ∧ (x.s.grid c.grid).complete = done := by
  refine ⟨?_, fun h hh => ?_, fun done => ?_⟩
  · have hv : (match testRead with
      | some e => (blockOf e.1).ok && decide (e.2.standing (blockOf e.1) = some (2, testQuote .accepted 1 2, ⟨0, 64, false, []⟩)) &&
          decide (e.2.s.quoteTouched (testQuote .accepted 1 2) = false) && decide (e.2.team.freeChild = some 0) && decide (e.2.limit 4 e.2.sp.pc = none) && decide (e.2.grid.replay = none)
      | none => false) = true := by decide +kernel
    have h := test_ready_meets (.launch testLaunch) testLaunchAt (by decide +kernel)
    cases he : testRead with
    | none => rw [he] at hv; cases hv
    | some e =>
      rw [he] at hv
      simp only [Bool.and_eq_true, decide_eq_true_eq] at hv
      obtain ⟨⟨⟨⟨⟨h1, h2⟩, ht⟩, h3⟩, h4⟩, h5⟩ := hv
      exact ⟨_, _, _, e.2, e.1, 2, 0, _, _, h.1, h.2, test_plain_meets _ (by decide +kernel), test_counts_meet _ (by decide +kernel), by decide +kernel,
        test_bytes _ _ he, h1, h2, ht, h3, fun l hl => by simp [h4] at hl, h5⟩
  · have all : [(15 : Word), 0x3E, 0x4F].all (fun h => let s := testLwaitAt h false
        testReady (.lwait testLwait) s && (let x := testParty s
          x.go && decide (x.sp.ticket = none) && decide (x.rdU testLwait.a = h) &&
          (match Tab.find x.team.children ((x.rdU testLwait.a).toNat % 16) with
           | some c => decide (c.serial % 2 ^ 28 ≠ (x.rdU testLwait.a).toNat / 16)
           | none => true))) = true := by decide +kernel
    have k := List.all_eq_true.1 all h hh
    simp only [Bool.and_eq_true, decide_eq_true_eq] at k
    obtain ⟨h0, ⟨⟨h1, h2⟩, h3⟩, h4⟩ := k
    have hr := test_ready_meets _ _ h0
    exact ⟨testLwait, _, _, hr.1, hr.2, h1, h2, h3, fun c hc => by rw [hc] at h4; exact of_decide_eq_true h4⟩
  · have h1 := test_ready_meets (.lwait testLwait) (testLwaitAt 0x3F true) (by decide +kernel)
    have h2 := test_ready_meets (.lwait testLwait) (testLwaitAt 0x3F false) (by decide +kernel)
    cases done with
    | true => exact ⟨_, _, _, ⟨2 ^ 28 + 3, 7⟩, h1.1, h1.2, by decide +kernel, by decide +kernel, by decide +kernel, by decide +kernel, by decide +kernel⟩
    | false => exact ⟨_, _, _, ⟨2 ^ 28 + 3, 7⟩, h2.1, h2.2, by decide +kernel, by decide +kernel, by decide +kernel, by decide +kernel, by decide +kernel⟩

/-- MAPACK of the version in s4, at a MAPV of 5 and an acknowledged version of 3. -/
def testMapack : RForm := ⟨false, .sreg 3, .sreg 4, .vreg 0⟩
def testMapackAt (v : Word) (guard : Word) : State :=
  let s := testGroup (testAt [0x7890E200]) (fun g => { g with s := [(4, v)], mode := 1, p := [(1, guard)] })
  testCtx { s with mapv := 5 } (fun c => { c with ack := 3, windows := [⟨4, 0, false, 0⟩, ⟨5, 0, true, 0⟩] })

theorem witness_MapackAcknowledges :
    (∃ (f : RForm) (s : State) (x : Ex), x.Issues (.mapack f) s ∧ x.Calm ∧ x.go = false)
    ∧ ∀ e ∈ [((6 : Word), (2 : Nat)), (3, 1), (5, 0), (4, 0)], ∃ (f : RForm) (s : State) (x : Ex), x.Issues (.mapack f) s ∧ x.Calm ∧ x.go = true ∧ x.rdU f.a = e.1 ∧
      (e.2 = 2 ↔ x.s.mapv < (x.rdU f.a).toNat) ∧ (e.2 = 1 ↔ (x.rdU f.a).toNat ≤ x.s.mapv ∧ (x.rdU f.a).toNat ≤ x.ctx.ack) ∧
      (e.2 = 0 ↔ (x.rdU f.a).toNat ≤ x.s.mapv ∧ x.ctx.ack < (x.rdU f.a).toNat) := by
  have h1 := test_ready_meets (.mapack testMapack) (testMapackAt 5 0) (by decide +kernel)
  refine ⟨⟨_, _, _, h1.1, h1.2, by decide +kernel⟩, fun e he => ?_⟩
  have all : [((6 : Word), (2 : Nat)), (3, 1), (5, 0), (4, 0)].all (fun e => let s := testMapackAt e.1 0xFFFFFFFF
      testReady (.mapack testMapack) s && (let x := testParty s; let f := testMapack
        x.go && decide (x.rdU f.a = e.1) && decide (e.2 = 2 ↔ x.s.mapv < (x.rdU f.a).toNat) &&
        decide (e.2 = 1 ↔ (x.rdU f.a).toNat ≤ x.s.mapv ∧ (x.rdU f.a).toNat ≤ x.ctx.ack) &&
        decide (e.2 = 0 ↔ (x.rdU f.a).toNat ≤ x.s.mapv ∧ x.ctx.ack < (x.rdU f.a).toNat))) = true := by decide +kernel
  have h := List.all_eq_true.1 all e he
  simp only [Bool.and_eq_true, decide_eq_true_eq] at h
  obtain ⟨h0, ⟨⟨⟨h2, h3⟩, h4⟩, h5⟩, h6⟩ := h
  have hr := test_ready_meets _ _ h0
  exact ⟨testMapack, _, _, hr.1, hr.2, h2, h3, h4, h5, h6⟩

/-- The first split of the party placed, as it waits. -/
def testWaiting (s : State) (w : Wait) : State := testSplit s (fun p => { p with wait := some w, count := 5 })

/-- A JOIN frame that split 0 has reached, and of which no other split is left. -/
def testJoined : State := testWaiting (testGroup (testAt [0]) (fun g => { g with frames := [{ testFrame with arrived := [0] }] })) .join

/-- The MCC as it waits in MWAIT at its limit of five cycles. -/
def testAtLimit : State := testKernel (testWaiting (testMatAt (.nop testForm0) [testOp 4 1]) (.mwait 0)) (fun k => { k with limits := [⟨true, 0, 1, 5, 0⟩] })

/-- A split of a core at its limit of five cycles, at a barrier of its allotment, with a quote in force; and one at an XACQ with none. -/
def testLimited (s : State) (w : Wait) : State := testKernel (testWaiting s w) (fun k => { k with limits := [⟨false, 0, 1, 5, 0⟩] })
def testLimits : List (State × Nat × Wait) :=
  [(testAtLimit, gidOf 0 64, .mwait 0),
   (testGrid { testLimited (testBarAt (.barw testBarw) 3 1 0) (.bar (spadLoc 0 64) 0) with quotes := [(1, testQuote .launched 0 1)] }
      (fun g => { g with quote := some 1, launchedOn := 1 }), 0, .bar (spadLoc 0 64) 0),
   (testLimited (testWindowAt 0x41C00001 [] []) (.xacq 1), 0, .xacq 1)]

/-- An MSTR of the MCC's queue that has waited five cycles, its limit, with and without a quote in force. -/
def testQueuedLimit (quoted : Bool) : State :=
  let s := testKernel (testQueued [{ testQMstr (some 0x40000080) with waiting := true, waited := 5 }]) (fun k => { k with limits := [⟨true, 0, 1, 5, 0⟩] })
  if quoted then testGrid { s with quotes := [(1, testQuote .launched 0 1)] } (fun g => { g with quote := some 1, launchedOn := 1 }) else s

/-- A group with two flags pending. -/
def testFlag (c : Cause) (a : Nat) : Pending := { entry := 0, cause := c, under := .none, info := 0, mask := 0, addr := a, pc := 0, async := true }
def testFlags : State := testGroup (testAt [0]) (fun g => { g with apend := [testFlag .hostAbort 8, testFlag .quoteVoid 0x123456789A] })

/-- A group with a change of the map to version 6 pending. -/
def testMapFlag : State := testGroup (testAt [0]) (fun g => { g with apend := [testFlag .mapChanged 6] })

/-- A group whose energy is due. -/
def testAged : State := testGroup testLaunchAt (fun g => { g with age := 65536 })

/-- A handler of 2^20 cycles. -/
def testOldHandler : State := testGroup (testSup [0]) (fun g => { g with saved := g.saved.map (fun sv => { sv with cycles := 2 ^ 20 }), trapc := 0x21, trappc := 4 })

theorem witness_EventsOfOneGroup :
    (∃ (s : State) (gid : Nat) (x : Ex), Ex.of s gid 0 = some x ∧ x.sp.wait = some .line)
    ∧ (∀ e ∈ [(testWaiting (testAt [0]) (.yield 0), Wait.yield 0, true), (testWaiting (testAt [0]) (.yield 3), .yield 3, false),
          (testWaiting ((testAt [0]).setGrid 7 { Grid.empty with complete := true }) (.child 7), .child 7, true), (testJoined, .join, true)],
        ∃ (x : Ex), Ex.of e.1 0 0 = some x ∧ x.sp.wait = some e.2.1 ∧ x.waitOver e.2.1 = e.2.2)
    ∧ (∃ (x : Ex) (f : Frame), Ex.of testJoined 0 0 = some x ∧ x.g.readyFrame 0 = some 0 ∧ x.g.frames[0]? = some f)
    ∧ (∀ e ∈ testLimits, ∃ (x : Ex), Ex.of e.1 e.2.1 0 = some x ∧ x.sp.wait = some e.2.2 ∧ x.atLimit e.2.2 = true ∧ x.User)
    ∧ (∀ quoted : Bool, ∃ (s : State) (n : Nat) (m : Mcc) (q : QOp) (g : Group), Tab.find s.mccs 0 = some m ∧ m.queue[0]? = some q ∧ m.qf = none ∧
        q.waiting = true ∧ q.kind ≠ 3 ∧ s.queuedLimit 0 q = some n ∧ n ≤ q.waited ∧ s.queuePeer 0 q = none ∧ s.group (gidOf 0 64) = some g ∧
        s.frozen (s.gang g.gang).grid = false ∧ g.run = .running ∧ g.splits.all (fun p => p.wait.isNone) = true ∧ s.checked = false ∧
        (s.grid (s.gang g.gang).grid).quote.isSome = quoted)
    ∧ (∃ (s : State) (g : Group) (a : Pending) (p : Split), s.group 0 = some g ∧ g.saved = none ∧ g.trapq = [] ∧ g.run = .running ∧ g.flagged = some a ∧
        a.cause ≠ .mapChanged ∧ g.first = some p ∧ p.wait = none ∧ g.split? p.entry = some p)
    ∧ (∃ (s : State) (g : Group) (a : Pending) (p : Split), s.group 0 = some g ∧ g.saved = none ∧ g.trapq = [] ∧ g.run = .running ∧ g.flagged = some a ∧
        a.cause = .mapChanged ∧ (s.ctx (s.ctxOf g)).ack < a.addr ∧ a.addr < 2 ^ 64 ∧ g.first = some p ∧ p.wait = none ∧ g.split? p.entry = some p)
    ∧ (∃ (s : State) (g : Group) (sv : Saved), s.group 0 = some g ∧ g.saved = some sv ∧ g.run = .running ∧ 2 ^ 20 ≤ sv.cycles ∧ s.checked = false ∧
        s.epochOf 0 + 1 < 2 ^ 48 ∧ (s.cluster 0).kcount + 1 < 2 ^ 48)
    ∧ (∃ (s : State) (g : Group), s.group 0 = some g ∧ g.age < 65536)
    ∧ ∃ (s : State) (g : Group) (q : Quote), s.group 0 = some g ∧ 65536 ≤ g.age ∧ (s.grid (s.gang g.gang).grid).quote.bind s.quote? = some q := by
  refine ⟨?_, fun e he => ?_, ?_, fun e he => ?_, fun quoted => ?_,
    ⟨testFlags, (testParty testFlags).g, testFlag .quoteVoid 0x123456789A, (testParty testFlags).sp, by decide +kernel, by decide +kernel, by decide +kernel,
      by decide +kernel, by decide +kernel, by decide, by decide +kernel, by decide +kernel, by decide +kernel⟩,
    ⟨testMapFlag, (testParty testMapFlag).g, testFlag .mapChanged 6, (testParty testMapFlag).sp, by decide +kernel, by decide +kernel, by decide +kernel,
      by decide +kernel, by decide +kernel, rfl, by decide +kernel, by decide, by decide +kernel, by decide +kernel, by decide +kernel⟩,
    ⟨testOldHandler, (testParty testOldHandler).g, (testParty testOldHandler).g.saved.getD testSaved, by decide +kernel,
      by decide +kernel, by decide +kernel, by decide +kernel, by decide +kernel, by decide +kernel, by decide +kernel⟩,
    ⟨testLaunchAt, (testParty testLaunchAt).g, by decide +kernel, by decide +kernel⟩,
    ⟨testAged, (testParty testAged).g, testQuote .launched 0 1, by decide +kernel, by decide +kernel, by decide +kernel⟩⟩
  · obtain ⟨x, hx⟩ := Option.isSome_iff_exists.1 (by decide +kernel : (Ex.of (testWaiting (testAt [0]) .line) 0 0).isSome = true)
    have h : (Ex.of (testWaiting (testAt [0]) .line) 0 0).map (·.sp.wait) = some (some .line) := by decide +kernel
    rw [hx] at h
    exact ⟨_, _, x, hx, Option.some.inj h⟩
  · have all : [(testWaiting (testAt [0]) (.yield 0), Wait.yield 0, true), (testWaiting (testAt [0]) (.yield 3), .yield 3, false),
          (testWaiting ((testAt [0]).setGrid 7 { Grid.empty with complete := true }) (.child 7), .child 7, true), (testJoined, .join, true)].all (fun e =>
        match Ex.of e.1 0 0 with
        | some x => decide (x.sp.wait = some e.2.1) && decide (x.waitOver e.2.1 = e.2.2)
        | none => false) = true := by decide +kernel
    have h := List.all_eq_true.1 all e he
    cases hx : Ex.of e.1 0 0 with
    | none => rw [hx] at h; cases h
    | some x =>
      rw [hx] at h
      simp only [Bool.and_eq_true, decide_eq_true_eq] at h
      exact ⟨x, rfl, h.1, h.2⟩
  · obtain ⟨x, hx⟩ := Option.isSome_iff_exists.1 (by decide +kernel : (Ex.of testJoined 0 0).isSome = true)
    have h : ((Ex.of testJoined 0 0).map (fun x => (x.g.readyFrame 0, x.g.frames[0]?))) = some (some 0, some { testFrame with arrived := [0] }) := by
      decide +kernel
    rw [hx] at h
    have k := Prod.mk.inj (Option.some.inj h)
    exact ⟨x, _, hx, k.1, k.2⟩
  · have all : testLimits.all (fun e => match Ex.of e.1 e.2.1 0 with
      | some x => decide (x.sp.wait = some e.2.2) && x.atLimit e.2.2 && testUser x
      | none => false) = true := by decide +kernel
    have h := List.all_eq_true.1 all e he
    cases hx : Ex.of e.1 e.2.1 0 with
    | none => rw [hx] at h; cases h
    | some x =>
      rw [hx] at h
      simp only [Bool.and_eq_true, decide_eq_true_eq] at h
      exact ⟨x, rfl, h.1.1, h.1.2, test_user_meets _ h.2⟩
  · have all : [true, false].all (fun quoted => let s := testQueuedLimit quoted
      match Tab.find s.mccs 0, s.group (gidOf 0 64) with
      | some m, some g => (match m.queue[0]? with
        | some q => decide (m.qf = none) && q.waiting && decide (q.kind ≠ 3) && decide (s.queuedLimit 0 q = some 5) && decide (5 ≤ q.waited) &&
            decide (s.queuePeer 0 q = none) && !s.frozen (s.gang g.gang).grid && decide (g.run = .running) && g.splits.all (fun p => p.wait.isNone) &&
            !s.checked && decide ((s.grid (s.gang g.gang).grid).quote.isSome = quoted)
        | none => false)
      | _, _ => false) = true := by decide +kernel
    have h := List.all_eq_true.1 all quoted (by cases quoted <;> simp)
    dsimp only at h
    split at h
    · rename_i m g hm hg
      split at h
      · rename_i q hq
        simp only [Bool.and_eq_true, decide_eq_true_eq, Bool.not_eq_true'] at h
        obtain ⟨⟨⟨⟨⟨⟨⟨⟨⟨⟨h1, h2⟩, h3⟩, h4⟩, h5⟩, h6⟩, h7⟩, h8⟩, h9⟩, h10⟩, h11⟩ := h
        exact ⟨_, 5, m, q, g, hm, hq, h1, h2, h3, h4, h5, h6, hg, h7, h8, h9, h10, h11⟩
      · cases h
    · cases h

/-- A device whose map has tile 0 with clusters 0 and 1 live, with a partition 0 of all slots, sixteen windows and 512 rows. -/
def testWorld (s : State) : State :=
  { s with map := [(0x0001, 1), (0x1000, 3), (0x1001, 0x03AC0320), (0x2000, 0x1FF), (0x2008, 0x1FF)], regs := Tab.put (Tab.put s.regs 0x400 0x40100) 0x404 0x200000 }

/-- Beside the party placed, a grid of three teams of two groups to be formed two at a time, in context 0. -/
def testForming : State :=
  let s := testWorld (testGrid (testAt [0]) (fun g => { g with formed := [(0, 1)] }))
  s.setGrid 3 { Grid.empty with kernel := { Kernel.empty with code := List.replicate 64 0, rows := 3, xblocks := 1 }, counts := [3], groups := 2, p := 2, f := 1, args := [7] }

def testPlaces : List TeamPlace := [⟨4, [0, 1], 0, [2]⟩, ⟨4, [5, 3], 16, [0]⟩]

/-- The gang placed, suspended; and the grid placed with all its teams retired. -/
def testAway : State := testExec (.preEmption 1 .slice) (testWorld (testAt [0]))
def testOver : State := (testGrid (testExec (.preEmption 1 .slice) (testAt [0])) (fun g => { g with retired := [0] }))

/-- The gang of a sentence with one station that has two packets, one a return, and no group yet; and one more packet on its way. -/
def testPacket (n : Nat) (ret here : Bool) : Packet :=
  { id := n, gang := 1, dest := 8, station := 0, isReturn := ret, arrived := here, core := 3 - n, slot := 0, cycle := if here then some 0 else none, source := 0, ueLane := [], lanes := word n, exec := 0xFF, dead := 0, mode := 0,
    fpx := 0, live := 0, v := [(2, lanesOf word)], s := [], p := [], rngs := lanesOf (fun _ => 1), loops := [], rets := [⟨4, 8⟩],
    release := { party := .core 0, scope := 0, team := teamKey 1 0, vecs := .zero }, present := [] }
def testStation : State :=
  let s := testTeam (testAt [0]) (fun t => { t with core := 1, slots := [4, 2] })
  let s := { s with groups := [], packets := [(1, testPacket 1 false true), (2, testPacket 2 true true), (3, testPacket 3 false false)] }
  s.setGang 1 { s.gang 1 with stations := [(0, ⟨0, 0, [1, 2], [3], 4⟩)] }

theorem test_epochs (s : State) (h : s.epochs.all (fun e => decide (e.2 < 2 ^ 40)) = true) (gid : Nat) : s.epochOf gid < 2 ^ 40 := by
  have go : ∀ t : Tab Nat, t.all (fun e => decide (e.2 < 2 ^ 40)) = true → Tab.read t gid 0 < 2 ^ 40 := by
    intro t
    induction t with
    | nil => intro _; show (0 : Nat) < 2 ^ 40; decide
    | cons e t ih =>
      intro h
      simp only [List.all_cons, Bool.and_eq_true, decide_eq_true_eq] at h
      simp only [Tab.read, Tab.find]
      split
      · exact h.1
      · exact ih h.2
  exact go _ h

theorem test_kcounts (s : State) (h : s.clusters.all (fun e => decide (e.2.kcount < 2 ^ 40)) = true) (c : Nat) : (s.cluster c).kcount < 2 ^ 40 := by
  have go : ∀ t : Tab Cluster, t.all (fun e => decide (e.2.kcount < 2 ^ 40)) = true → (Tab.read t c .empty).kcount < 2 ^ 40 := by
    intro t
    induction t with
    | nil => intro _; show (1 : Nat) < 2 ^ 40; decide
    | cons e t ih =>
      intro h
      simp only [List.all_cons, Bool.and_eq_true, decide_eq_true_eq] at h
      simp only [Tab.read, Tab.find]
      split
      · exact h.1
      · exact ih h.2
  exact go _ h

theorem witness_GangsFormSuspendResumeAndEnd :
    (∃ (s : State) (k stage : Nat) (g : Grid) (p : List TeamPlace), Tab.find s.grids k = some g ∧ s.formable k g stage p = true ∧
      s.checked = false ∧ g.replay = none ∧ g.kernel.mcc = none ∧ p.length ≤ 255 ∧ ∀ gid, s.epochOf gid + p.length * g.groups < 2 ^ 48)
    ∧ (∃ (s : State) (k : Nat) (ga : Gang) (h : Group), Tab.find s.gangs k = some ga ∧ ga.done = false ∧ ga.suspended = false ∧ ga.usesMcc = false ∧
      s.admits k .slice = true ∧ s.group 0 = some h ∧ h.gang = k ∧ h.mcc = false ∧
      s.checked = false ∧ (∀ gid, s.epochOf gid + s.groups.length < 2 ^ 48) ∧ ∀ c, (s.cluster c).kcount + s.groups.length < 2 ^ 48)
    ∧ (∃ (s : State) (k : Nat) (ga : Gang) (p : List TeamPlace), Tab.find s.gangs k = some ga ∧ p ≠ [] ∧ s.checked = false ∧
      s.resumable k ga (s.gangTeams k) p = true ∧ ga.mcc = none ∧ ∀ gid, s.epochOf gid + ga.groups.length + 1 < 2 ^ 48)
    ∧ (∃ (s : State) (k : Nat) (g : Grid), Tab.find s.grids k = some g ∧ g.complete = false ∧ s.gridOver k g = true)
    ∧ (∃ (s : State) (id : Nat) (pk : Packet) (st : Station), Tab.find s.packets id = some pk ∧ pk.arrived = false ∧
      (s.gang pk.gang).suspended = false ∧ Tab.find (s.gang pk.gang).stations pk.station = some st ∧ st.waiting ≠ [] ∧
      ∀ j ∈ st.waiting, s.goesBefore (s.cluster ((s.team (teamKey pk.gang pk.station)).core / 4)).lclk pk j = true)
    ∧ ∃ (s : State) (k n : Nat) (st : Station) (slot grp id : Nat) (pk : Packet), Tab.find (s.gang k).stations n = some st ∧
      (s.gang k).suspended = false ∧ (s.gang k).done = false ∧ s.checked = false ∧
      s.freePlace k n (s.team (teamKey k n)) = some (slot, grp) ∧ s.nextPacketAt st = some (id, pk) ∧ ∀ gid, s.epochOf gid + 2 < 2 ^ 48 := by
  refine ⟨⟨testForming, 3, 0, testForming.grid 3, testPlaces, by decide +kernel, by decide +kernel, by decide +kernel, by decide +kernel, by decide +kernel,
      by decide, fun gid => ?_⟩,
    ⟨testWorld (testAt [0]), 1, (testAt [0]).gang 1, (testParty (testAt [0])).g, by decide +kernel, by decide +kernel, by decide +kernel, by decide +kernel,
      by decide +kernel, by decide +kernel, by decide +kernel, by decide +kernel, by decide +kernel, fun gid => ?_, fun c => ?_⟩,
    ⟨testAway, 1, testAway.gang 1, [⟨5, [3], 0, []⟩], by decide +kernel, by decide, by decide +kernel, by decide +kernel, by decide +kernel, fun gid => ?_⟩,
    ⟨testOver, 1, testOver.grid 1, by decide +kernel, by decide +kernel, by decide +kernel⟩,
    ⟨testStation, 3, testPacket 3 false false, ⟨0, 0, [1, 2], [3], 4⟩, by decide +kernel, by decide, by decide +kernel, by decide +kernel,
      by decide, by decide +kernel⟩,
    ⟨testStation, 1, 0, ⟨0, 0, [1, 2], [3], 4⟩, 2, 0, 2, testPacket 2 true true, by decide +kernel, by decide +kernel, by decide +kernel, by decide +kernel,
      by decide +kernel, by decide +kernel, fun gid => ?_⟩⟩
  · have h : testPlaces.length * (testForming.grid 3).groups < 2 ^ 40 := by decide +kernel
    have k := test_epochs testForming (by decide +kernel) gid
    omega
  · have h : (testWorld (testAt [0])).groups.length < 2 ^ 40 := by decide +kernel
    have k := test_epochs (testWorld (testAt [0])) (by decide +kernel) gid
    omega
  · have h : (testWorld (testAt [0])).groups.length < 2 ^ 40 := by decide +kernel
    have k := test_kcounts (testWorld (testAt [0])) (by decide +kernel) c
    omega
  · have h : (testAway.gang 1).groups.length < 2 ^ 40 := by decide +kernel
    have k := test_epochs testAway (by decide +kernel) gid
    omega
  · have k := test_epochs testStation (by decide +kernel) gid
    omega

/-- A packet of a kind with number 1, and interface 0 of function 0 with that packet at its head, in a device that has booted. -/
def testPacketOf (kind : Nat) (payload : List Byte) : List Byte := ((bytesLE 4 kind ++ bytesLE 4 1 ++ payload) ++ List.replicate 56 0).take 64

def testQi : Qi := { Qi.reset with sqbase := 0x100000, cqbase := 0x200000, en := true, valid := true, sqtail := 1 }

def testSubmit (s : State) (bs : List Byte) : State :=
  { (s.storeBytes (hostLoc 0x100040) bs) with qis := [(0, testQi)], regs := Tab.put s.regs 0x500 0x10, bootstat := 8, nextGrid := 5 }

/-- A quote of interface 0 that stands alone, and one accepted, with a reservation. -/
def testOffers (s : State) (q : Quote) : State := { s with quotes := [(7, q)], reservations := [(1, ⟨[0], [], [3], 16⟩)] }

def testRef : QRef := ⟨0, 0⟩

/-- The parts of the statement that speak of the packet at the head. -/
theorem test_head (s : State) (bs : List Byte) (h : decide (s.head 0 = some bs) = true) : s.head (qiKey testRef) = some bs := of_decide_eq_true h

/-- A walk with a site, that a cluster, an engine and a group of pseudo-channels answer; and one that is refused. -/
def testWalk (refusal : Nat) : Walk :=
  { qi := 0, hseq := 3, req := { testReq with kernel := { testKernel1 with code := [0, 0, 0, 0], limits := [] }, sites := [⟨0, testKernel1, [1], 1, 1, 1⟩] },
    mapv := 2, costs := [], mem := 3, narrow := [], map := (testWorld (testAt [0])).map ++ [(0x1002, 1), (0x1003, 1)], refusal := refusal, requote := false, grid := 0, reports := [] }

def testWalkAt (refusal : Nat) : State :=
  let s := testWorld (testGrid (testAt [0]) (fun g => { g with retired := [0] }))
  { s with walks := [{ testWalk 1 with qi := 4 }, testWalk refusal], map := s.map ++ [(0x1002, 1), (0x1003, 1)], teams := [] }
def testFound : Reservation := ⟨[1], [0], [3], 16⟩

theorem witness_QuotesLapseBreakAndAreLate :
    (∀ e ∈ [(QState.issued, 1, (1000000 : Nat)), (.issued, 0, 999999), (.accepted, 0, 1000000)], ∃ (s : State) (q : Quote), s.quote? 7 = some q ∧
        (q.state = .issued ∨ (q.state = .accepted ∧ q.parent = 0)) ∧ q.state = e.1 ∧ q.parent = e.2.1 ∧ (s.hub + 2 ^ 64 - q.issued) % 2 ^ 64 = e.2.2 ∧
        s.resHeld q.res 7 = false)
    ∧ (∃ (s : State) (q : Quote), (s.grid 1).quote = some 1 ∧ s.quote? 1 = some q ∧ q.energy ≤ (s.grid 1).energy - (s.grid 1).waived ∧ BreachKind.energy ∉ (s.grid 1).breaches ∧
        (s.grid 1).boundLeft = 0 ∧ (s.grid 1).complete = false ∧ BreachKind.bound ∉ (s.grid 1).breaches ∧ BreachKind.team ∈ (s.grid 1).breaches)
    ∧ (∃ s : State, (s.ctx 0).live = true ∧ (∃ w ∈ (s.ctx 0).windows, 2 ^ 24 ≤ w.cycles) ∧ 1 ∈ s.gridsOf 0 ∧ (∃ q, (s.grid 1).quote = some 1 ∧ s.quote? 1 = some q) ∧
        s.checked = false ∧ (∀ gid, s.epochOf gid + s.groups.length < 2 ^ 48) ∧ ∀ j, (s.cluster j).kcount + s.groups.length < 2 ^ 48)
    ∧ ∃ (s : State) (tile part : Nat), part < 8 ∧ tile < 8 ∧ s.worksOn part tile = false ∧ 2 ^ 14 ≤ Tab.read s.settle (8 * tile + part) 0 := by
  let late := testCtx testLaunchAt (fun c => { c with windows := [⟨1, 2 ^ 24, true, 0⟩] })
  have few : late.groups.length < 2 ^ 40 := by decide +kernel
  refine ⟨fun e he => ⟨{ testOffers (testAt [0]) (testQuote e.1 e.2.1 7) with hub := e.2.2 }, testQuote e.1 e.2.1 7, rfl, ?_⟩,
    ⟨testGrid testLaunchAt (fun g => { g with energy := 3, breaches := [.team] }), testQuote .launched 0 1, by decide +kernel, by decide +kernel,
      by decide +kernel, by decide +kernel, by decide +kernel, by decide +kernel, by decide +kernel, by decide +kernel⟩,
    ⟨late, by decide +kernel, by decide +kernel, by decide +kernel,
      ⟨testQuote .launched 0 1, by decide +kernel, by decide +kernel⟩, by decide +kernel, fun gid => ?_, fun j => ?_⟩,
    ⟨{ testAt [0] with settle := [(63, 2 ^ 14)] }, 7, 7, by decide, by decide, by decide +kernel, by decide +kernel⟩⟩
  rotate_left
  · have k := test_epochs late (by decide +kernel) gid
    omega
  · have k := test_kcounts late (by decide +kernel) j
    omega
  have all : [(QState.issued, 1, (1000000 : Nat)), (.issued, 0, 999999), (.accepted, 0, 1000000)].all (fun e =>
      let s : State := { testOffers (testAt [0]) (testQuote e.1 e.2.1 7) with hub := e.2.2 }
      let q := testQuote e.1 e.2.1 7
      (decide (q.state = .issued) || (decide (q.state = .accepted) && decide (q.parent = 0))) && decide (q.state = e.1) && decide (q.parent = e.2.1) &&
        decide ((s.hub + 2 ^ 64 - q.issued) % 2 ^ 64 = e.2.2) && decide (s.resHeld q.res 7 = false)) = true := by decide +kernel
  have h := List.all_eq_true.1 all e he
  simp only [Bool.and_eq_true, Bool.or_eq_true, decide_eq_true_eq] at h
  exact ⟨h.1.1.1.1, h.1.1.1.2, h.1.1.2, h.1.2, h.2⟩

def testSubmitted (st : QState) (hub kind : Nat) (payload : List Byte) : State :=
  { testSubmit ((testOffers (testAt [0]) (testQuote st 0 7)).storeBytes (hostLoc 0x300000) testBlock) (testPacketOf kind payload) with hub := hub }
def testOne : List Byte := bytesLE 4 1 ++ bytesLE 4 7
def testLaunchOf : List Byte := bytesLE 4 7 ++ bytesLE 4 0 ++ bytesLE 8 0x300000

theorem witness_QuotesAreAskedForAndTakenUp :
    (∃ (s : State) (w : Walk) (v : Reservation), s.walks.find? (fun w => w.qi == qiKey testRef) = some w ∧ (s.ctx (qiKey testRef)).live = true ∧
      w.refusal = 0 ∧ (s.atWalk w).walkRefusal w.req = 0 ∧ v.clusters ≠ [] ∧ v.ceil ≠ 0 ∧
      (({ s with walks := s.walks.erase w } : State).atWalk w).holdable w.req v = true ∧ w.reports = [])
    ∧ (∃ (s : State) (w : Walk), s.walks.find? (fun w => w.qi == qiKey testRef) = some w ∧ (s.ctx (qiKey testRef)).live = true ∧ w.refusal ≠ 0 ∧ w.reports = [])
    ∧ (∃ (s : State) (bs : List Byte), s.head (qiKey testRef) = some bs ∧ packetKind bs = 1)
    ∧ (∀ e ∈ [(0, false), (1000000, true)], ∃ (s : State) (bs : List Byte) (q : Quote), s.head (qiKey testRef) = some bs ∧ packetKind bs = 2 ∧ packetQids bs = [7] ∧
        (s.consume 0).mine 0 7 = some q ∧ (s.consume 0).past q = e.2 ∧ (s.consume 0).quoteTouched q = false ∧ q.state = .issued ∧ q.parent = 0 ∧ q.grid = 0 ∧
        (((s.consume 0).setQuoteState 7 .accepted).acceptStanding q).isSome = true)
    ∧ (∃ (s : State) (bs : List Byte) (q : Quote), s.head (qiKey testRef) = some bs ∧ packetKind bs = 3 ∧ packetQids bs = [7] ∧
        (s.consume 0).mine 0 7 = some q ∧ q.state = .issued)
    ∧ ∃ (s : State) (bs : List Byte) (q : Quote) (kb : Bucket), s.head (qiKey testRef) = some bs ∧ packetKind bs = 4 ∧
        (s.consume 0).mine 0 (wordAt bs 8) = some q ∧ (blockOf (Memory.load s.mem (hostLoc (longAt bs 0x10)) 256)).argc ≤ 32 ∧ (s.consume 0).past q = false ∧
        q.parent = 0 ∧ q.state = .accepted ∧ (blockOf (Memory.load s.mem (hostLoc (longAt bs 0x10)) 256)).fits q.req = true ∧
        q.req.kernel.bucketFor (blockOf (Memory.load s.mem (hostLoc (longAt bs 0x10)) 256)).shapes = some kb ∧
        (s.consume 0).quotes.find? (fun e => e.2.first == q.first && e.2.parent == 0 && e.2.bucket == kb.n) = some (7, q) ∧
        (s.consume 0).quoteTouched q = false := by
  refine ⟨⟨testWalkAt 0, testWalk 0, testFound, by decide +kernel, by decide +kernel, rfl, by decide +kernel, by decide, by decide, by decide +kernel, rfl⟩,
    ⟨testWalkAt 9, testWalk 9, by decide +kernel, by decide +kernel, by decide, rfl⟩,
    ⟨testSubmitted .issued 0 1 [], testPacketOf 1 [], test_head _ _ (by decide +kernel), by decide⟩, fun e he => ?_,
    ⟨testSubmitted .issued 0 3 testOne, testPacketOf 3 testOne, testQuote .issued 0 7, test_head _ _ (by decide +kernel), by decide +kernel,
      by decide +kernel, by decide +kernel, rfl⟩,
    ⟨testSubmitted .accepted 0 4 testLaunchOf, testPacketOf 4 testLaunchOf, testQuote .accepted 0 7, ⟨0, 64, false, []⟩, test_head _ _ (by decide +kernel),
      by decide +kernel, by decide +kernel, by decide +kernel, by decide +kernel, rfl, rfl, by decide +kernel, by decide +kernel, by decide +kernel,
      by decide +kernel⟩⟩
  refine ⟨testSubmitted .issued e.1 2 testOne, testPacketOf 2 testOne, testQuote .issued 0 7, ?_⟩
  have all : [(0, false), (1000000, true)].all (fun e => let s := testSubmitted .issued e.1 2 testOne
      decide (s.head 0 = some (testPacketOf 2 testOne)) && decide ((s.consume 0).mine 0 7 = some (testQuote .issued 0 7)) &&
        decide ((s.consume 0).past (testQuote .issued 0 7) = e.2) && decide ((s.consume 0).quoteTouched (testQuote .issued 0 7) = false) &&
        (((s.consume 0).setQuoteState 7 .accepted).acceptStanding (testQuote .issued 0 7)).isSome) = true := by decide +kernel
  have h := List.all_eq_true.1 all e he
  simp only [Bool.and_eq_true, decide_eq_true_eq] at h
  exact ⟨h.1.1.1.1, by decide +kernel, by decide +kernel, h.1.1.1.2, h.1.1.2, h.1.2, rfl, rfl, rfl, h.2⟩

/-- A grid that may be halted, with its party in a slot; and one that is halted. -/
def testPacketAt (kind : Nat) (payload : List Byte) (f : Grid → Grid) (mapv : Nat) : State :=
  testCtx { testSubmit (testGrid (testAt [0]) f) (testPacketOf kind payload) with mapv := mapv } (fun c => { c with ack := 1, windows := [⟨3, 0, true, 0⟩, ⟨4, 0, true, 0⟩] })

/-- A HOLD tray of four slots of 64 bytes in the sync page at 2^30, which the host's side of context 0 reaches, with its slot 0 in a state. -/
def testHeld (kind : Nat) (payload : List Byte) (st released resolved : Nat) : State :=
  let s := testSubmit (testTables (testAt [0])) (testPacketOf kind payload)
  { s with
    trays := [0x6080], sync := [0x304, 0x305]
    mem := Memory.store s.mem 0x6080 (bytesLE 4 resolved ++ bytesLE 4 released ++ bytesLE 4 4 ++ bytesLE 4 0 ++ bytesLE 4 0x403 ++ bytesLE 4 1 ++ bytesLE 4 1 ++
      bytesLE 4 resolved ++ bytesLE 4 0x100 ++ bytesLE 4 0 ++ bytesLE 24 st) }
def testEgress (e : Word) (rec : List Word) : Egress := { ctx := 0, tray := 0x6080, trayVa := 0x40000080, buffer := 0x500000, e := e, recorded := rec, live := true }
def testEgressAt (st : Nat) (e : Egress) (kind : Nat) (payload : List Byte) : State := { testHeld kind payload st 0 3 with egresses := [(2, e)] }

/-- One packet of each kind that the statement covers, at a boundary of its premises. -/
theorem witness_PacketsActOnContextsAndGrids :
    (∀ v ∈ [3, 4], ∃ (s : State) (bs : List Byte), s.head (qiKey testRef) = some bs ∧ packetKind bs = 5 ∧ wordAt bs 8 = v ∧ v ≤ s.mapv ∧ (s.ctx 0).ack < v)
    ∧ (∃ (s : State) (bs : List Byte) (g : Grid) (ga : Gang), s.head (qiKey testRef) = some bs ∧ packetKind bs = 6 ∧ aborts bs = false ∧
        Tab.find s.grids (wordAt bs 8) = some g ∧ g.ctx = 0 ∧ g.complete = false ∧ g.halted = false ∧ ((s.consume 0).haltGrid (wordAt bs 8)).checked = false ∧ Tab.find s.gangs 1 = some ga ∧ ga.grid = wordAt bs 8 ∧ ga.done = false)
    ∧ (∃ (s : State) (bs : List Byte) (g : Grid) (u : Group), s.head (qiKey testRef) = some bs ∧ aborts bs = true ∧ Tab.find s.grids (wordAt bs 8) = some g ∧ g.ctx = 0 ∧
        g.complete = false ∧ (∀ e ∈ s.gangs, e.2.grid = wordAt bs 8 → e.2.told = false) ∧ ((s.consume 0).abortGrid (wordAt bs 8)).checked = false ∧ s.group 0 = some u ∧ (s.gang u.gang).grid = wordAt bs 8 ∧ u.run ≠ .ended)
    ∧ (∃ (s : State) (bs : List Byte) (g : Grid), s.head (qiKey testRef) = some bs ∧ packetKind bs = 7 ∧ bit (wordAt bs 0x0C) 31 = false ∧
        Tab.find s.grids (wordAt bs 8) = some g ∧ g.ctx = 0 ∧ g.halted = true ∧ (s.ctx 0).late = false)
    ∧ (∃ (s : State) (bs : List Byte) (g : Grid) (b : Nat × Nat), s.head (qiKey testRef) = some bs ∧ packetKind bs = 8 ∧ Tab.find s.grids (wordAt bs 8) = some g ∧ g.ctx = 0 ∧
        g.parent = none ∧ g.replay = some b)
    ∧ (∃ (s : State) (bs : List Byte), s.head (qiKey testRef) = some bs ∧ packetKind bs = 9 ∧ s.gridsOf 0 = [] ∧ s.checked = false)
    ∧ (∃ (s : State) (bs : List Byte), s.head (qiKey testRef) = some bs ∧ packetKind bs = 10)
    ∧ (∃ (s : State) (bs : List Byte), s.head (qiKey testRef) = some bs ∧ packetKind bs = 11 ∧
        (s.consume 0).object (hostWalker (s.consume 0) 0) none (longAt bs 8) 64 64 false = .at 0x6080 ∧ 0x6080 ∈ s.trays ∧ s.trHold 0x6080 = true ∧
        s.trLoc 0x6080 = false ∧ s.trOwner 0x6080 = (s.ctx 0).part ∧ s.egressOn 0x6080 = false ∧ s.atsDenied = [])
    ∧ (∃ (s : State) (bs : List Byte) (e : Egress), s.head (qiKey testRef) = some bs ∧ packetKind bs = 12 ∧ Tab.find s.egresses (wordAt bs 8) = some e ∧ e.ctx = 0 ∧
        e.live = true ∧ s.trBelow e.tray (wordAt bs 0x0C) e.e.toNat = true)
    ∧ (∃ (s : State) (e : Egress), Tab.find s.egresses 2 = some e ∧ e.live = true ∧ e.tray ∈ s.trays ∧
        s.trBelow e.tray e.e.toNat (s.trResolved e.tray) = true ∧ s.trState e.tray e.e.toNat = slotVetoed)
    ∧ ∃ (s : State) (e : Egress) (bytes : List Byte) (bad : List Nat) (m : State), Tab.find s.egresses 2 = some e ∧ e.live = true ∧ e.tray ∈ s.trays ∧
        s.trBelow e.tray e.e.toNat (s.trResolved e.tray) = true ∧ s.trState e.tray e.e.toNat ≠ slotVetoed ∧ s.recordRoom e.ctx = true ∧
        s.readSlot (hostWalker s e.ctx) (s.slotAt e.tray e.e.toNat) (s.trSize e.tray / 16) = .bytes bytes bad m := by
  refine ⟨fun v hv => ⟨testPacketAt 5 (bytesLE 4 v) id 4, testPacketOf 5 (bytesLE 4 v), ?_⟩,
    ⟨testPacketAt 6 (bytesLE 4 1) id 4, testPacketOf 6 (bytesLE 4 1), (testAt [0]).grid 1, (testAt [0]).gang 1, test_head _ _ (by decide +kernel), by decide +kernel,
      by decide +kernel, by decide +kernel, by decide +kernel, by decide +kernel, by decide +kernel, by decide +kernel, by decide +kernel, by decide +kernel, by decide +kernel⟩,
    ⟨testPacketAt 0x106 (bytesLE 4 1) id 4, testPacketOf 0x106 (bytesLE 4 1), (testAt [0]).grid 1, (testParty (testAt [0])).g, test_head _ _ (by decide +kernel),
      by decide +kernel, by decide +kernel, by decide +kernel, by decide +kernel, by decide +kernel, by decide +kernel, by decide +kernel, by decide +kernel, by decide +kernel⟩,
    ⟨testPacketAt 7 (bytesLE 4 1) (fun g => { g with halted := true }) 4, testPacketOf 7 (bytesLE 4 1), { (testAt [0]).grid 1 with halted := true },
      test_head _ _ (by decide +kernel), by decide +kernel, by decide +kernel, by decide +kernel, by decide +kernel, rfl, by decide +kernel⟩,
    ⟨testPacketAt 8 (bytesLE 4 1) (fun g => { g with replay := some (0x900000, 4) }) 4, testPacketOf 8 (bytesLE 4 1),
      { (testAt [0]).grid 1 with replay := some (0x900000, 4) }, (0x900000, 4), test_head _ _ (by decide +kernel), by decide +kernel, by decide +kernel,
      by decide +kernel, by decide +kernel, rfl⟩,
    ⟨testPacketAt 9 [] (fun g => { g with complete := true }) 4, testPacketOf 9 [], test_head _ _ (by decide +kernel), by decide +kernel, by decide +kernel,
      by decide +kernel⟩,
    ⟨testPacketAt 10 (bytesLE 8 0x3000 ++ bytesLE 4 2) id 4, testPacketOf 10 (bytesLE 8 0x3000 ++ bytesLE 4 2), test_head _ _ (by decide +kernel), by decide +kernel⟩,
    ⟨testHeld 11 (bytesLE 8 0x40000080) 0 0 0, testPacketOf 11 (bytesLE 8 0x40000080), test_head _ _ (by decide +kernel), by decide +kernel, by decide +kernel,
      by decide +kernel, by decide +kernel, by decide +kernel, by decide +kernel, by decide +kernel, by decide +kernel⟩,
    ⟨testEgressAt 292 (testEgress 3 [0, 2]) 12 (bytesLE 4 2 ++ bytesLE 4 2), testPacketOf 12 (bytesLE 4 2 ++ bytesLE 4 2), testEgress 3 [0, 2],
      test_head _ _ (by decide +kernel), by decide +kernel, by decide +kernel, rfl, rfl, by decide +kernel⟩,
    ⟨testEgressAt 45 (testEgress 1 [0]) 12 [], testEgress 1 [0], by decide +kernel, rfl, by decide +kernel, by decide +kernel, by decide +kernel⟩, ?_⟩
  · have all : [3, 4].all (fun v => let s := testPacketAt 5 (bytesLE 4 v) id 4
        let bs := testPacketOf 5 (bytesLE 4 v)
        decide (s.head 0 = some bs) && decide (packetKind bs = 5) && decide (wordAt bs 8 = v) && decide (v ≤ s.mapv) && decide ((s.ctx 0).ack < v)) = true := by
      decide +kernel
    have h := List.all_eq_true.1 all v hv
    simp only [Bool.and_eq_true, decide_eq_true_eq] at h
    exact ⟨h.1.1.1.1, h.1.1.1.2, h.1.1.2, h.1.2, h.2⟩
  · let s := testEgressAt 36 (testEgress 1 [0]) 12 []
    cases hr : s.readSlot (hostWalker s 0) (s.slotAt 0x6080 1) (s.trSize 0x6080 / 16) with
    | bytes b bad m =>
      exact ⟨s, testEgress 1 [0], b, bad, m, by decide +kernel, rfl, by decide +kernel, by decide +kernel, by decide +kernel, by decide +kernel, hr⟩
    | _ =>
      have h : (match s.readSlot (hostWalker s 0) (s.slotAt 0x6080 1) (s.trSize 0x6080 / 16) with | .bytes _ _ _ => true | _ => false) = true := by decide +kernel
      rw [hr] at h
      cases h

/-- A device with version 2 of its map, two clusters of tile 0 and a link to a live peer. -/
def testMapAt (extra : Tab Word) : State :=
  let s := testWorld (testAt [0])
  { s with mapv := 2, map := extra ++ s.map ++ [(0x4000, 0x07000002), (0x6007, 0x11)] }

/-- A cluster in a scan, that worked for a completion and a running grid. -/
def testScanning : State :=
  let s := testMapAt []
  s.setCluster 0 { s.cluster 0 with scanning := true, work := [(0, 3), (0, 4)], grids := [1] }

/-- A page of context 0 at 2^30 + 8192 with these bits in its entry, and marks for the tiers. -/
def testPage (bits : Nat) : State :=
  let s := (testTables (testAt [0])).storeBytes 0x5010 (bytesLE 8 (0x70E2 + bits))
  { s.storeBytes 0x7FFF [9] with regs := [(0x200, 1), (0x204, 1), (0x208, 1), (0x20C, 2)], migrations := [(0, 2 ^ 30 + 8192, 2, 0x5010)] }

/-- The premises `MapOpen` and `MapMoves`, as checks. -/
def testOpen (s : State) : Bool := decide (0 < s.mapv) && decide (s.mapv + 1 < 2 ^ 32) && !s.checked
def testMoves (s : State) (ws : List (Nat × Word)) : Bool :=
  decide (ws.map (·.1)).Nodup && (s.derived ws).any (fun w => decide (w.2.toNat ≠ s.mapWord w.1))

theorem test_open_meets (s : State) (h : testOpen s = true) : s.MapOpen := by
  simp only [testOpen, Bool.and_eq_true, decide_eq_true_eq, Bool.not_eq_true'] at h
  exact ⟨h.1.1, h.1.2, h.2⟩

theorem test_moves_meet (s : State) (ws : List (Nat × Word)) (h : testMoves s ws = true) : s.MapMoves ws := by
  simp only [testMoves, Bool.and_eq_true, decide_eq_true_eq, List.any_eq_true] at h
  exact ⟨h.1, h.2⟩

/-- What a change needs to be published, as a check. -/
def testMayMap (s : State) (m : MapChange) : Bool :=
  let ws := s.retireRows m.writes
  ws.all (fun w => mapListed w.1 && w.1 != 0 && w.1 != 3 && s.outOfUse w.1 (s.mapWord w.1) w.2.toNat) && s.staffed ws && s.floorsKept ws

/-- A retired pseudo-channel, a peer, an MCIO link, a floor, four retired rows of core 7 and a fifth; a floor under a reservation, a core
with a team, a word that is not listed. -/
def testChanges : List (List (Nat × Word) × Bool) :=
  [([(0x3000, 1)], true), ([(0x6005, 1)], true), ([(0x400C, 1)], true), ([(0x1001, 0x03AC0400)], true), ([(0x500E, 0x00020001), (0x500F, 0x00040003)], true),
   ([(0x500C, 9)], true), ([(0x1001, 0x03AC0001)], false), ([(0x2000, 0x1FE)], false), ([(0x7000, 1)], false)]
def testReserved : State := { testMapAt [(0x500C, 0x00020001), (0x500D, 0x00040003)] with reservations := [(1, ⟨[0], [], [], 16⟩)] }

theorem witness_MapEventsChangeTheMap :
    (∀ e ∈ testChanges, testReserved.MapOpen ∧ testMayMap testReserved ⟨e.1, []⟩ = e.2 ∧ (e.2 = true → testReserved.MapMoves (testReserved.retireRows e.1)))
    ∧ (∀ e ∈ [(true, (0x1FF : Word)), (false, 0x3FF)], ∃ s : State, s.clusterLive 1 = true ∧ s.MapOpen ∧ bit (s.clusterWord 1) 9 ≠ e.1)
    ∧ (∃ s : State, s.MapOpen ∧ bit (s.mapWord (0x3100 + 5 * 7 + 4)) 6 = false ∧ bit (s.mapWord (0x3100 + 5 * 7 + 4)) 14 = false)
    ∧ (∃ s : State, s.MapOpen ∧ ∀ b, b = 0 ∨ b = 8 → bit (s.mapWord (0x3100 + 5 * 7 + 4)) (b + 6) = true ∧ field (s.mapWord (0x3100 + 5 * 7 + 4)) (b + 5) b ≠ 35)
    ∧ (∃ s : State, s.clusterLive 0 = true ∧ Tab.find s.mccs 0 = none ∧ s.mayDrain 0 = true ∧ (∀ e ∈ s.clusters, e.2.scanning = false) ∧
        ((s.gangsOn 0).foldl (fun t k => t.suspendGang k false) s).checked = false ∧ 1 ∈ s.gangsOn 0 ∧ (s.gang 1).done = false)
    ∧ (∃ s : State, (s.cluster 0).scanning = true ∧ s.MapOpen ∧ s.MapMoves (s.retireCluster 0) ∧ (s.cluster 0).work ≠ [])
    ∧ (∀ e ∈ [(2 ^ 52, false), (2 * 2 ^ 52, false), (2 ^ 52 + 512, true), (4 + 2 * 2 ^ 52, false)], ∃ (s : State) (ctx va lvl loc v : Nat),
        s.leafAt ctx va = some (lvl, loc, v) ∧ (s.ctx ctx).live = true ∧
        ((field v 4 2 = 0 ∧ (field v 53 52 = 1 ∨ field v 53 52 = 2)) ∨ (field v 4 2 = 1 ∧ field v 53 52 = 2)) ∧
        s.demotes (field v 4 2) = true ∧ bit v 11 = false ∧ bit v 9 = e.2)
    ∧ ∃ (s : State) (ctx va frame loc v : Nat) (m : Nat × Nat × Nat × Nat), s.migrations.find? (fun m => m.1 == ctx && m.2.1 == va) = some m ∧
        s.leafAt ctx va = some (0, loc, v) ∧ loc = m.2.2.2 ∧ m.2.2.1 = 2 ∧ bit v 11 = true ∧ field v 4 2 < 2 ∧ Memory.wf s.mem = true ∧
        (loc + 8 ≤ hostLoc (frame * 2 ^ 12 % 2 ^ 52) ∨ hostLoc (frame * 2 ^ 12 % 2 ^ 52) + 4096 ≤ loc) := by
  refine ⟨fun e he => ⟨test_open_meets _ (by decide +kernel), ?_⟩, fun e he => ⟨testMapAt [(0x2008, e.2)], ?_⟩,
    ⟨testMapAt [], test_open_meets _ (by decide +kernel), by decide +kernel, by decide +kernel⟩,
    ⟨testMapAt [(0x3127, 0x4140)], test_open_meets _ (by decide +kernel), ?_⟩,
    ⟨testMapAt [], by decide +kernel, by decide +kernel, by decide +kernel, by decide +kernel, by decide +kernel, by decide +kernel, by decide +kernel⟩,
    ⟨testScanning, by decide +kernel, test_open_meets _ (by decide +kernel), test_moves_meet _ _ (by decide +kernel), by decide +kernel⟩, fun e he => ?_,
    ⟨testPage 0x800, 0, 2 ^ 30 + 8192, 2 ^ 40 - 1, 0x5010, 0x78E2, (0, 2 ^ 30 + 8192, 2, 0x5010), by decide +kernel, by decide +kernel, rfl, rfl, by decide +kernel,
      by decide +kernel, by decide +kernel, by decide +kernel⟩⟩
  · have all : testChanges.all (fun e => decide (testMayMap testReserved ⟨e.1, []⟩ = e.2) && (!e.2 || testMoves testReserved (testReserved.retireRows e.1))) = true := by
      decide +kernel
    have h := List.all_eq_true.1 all e he
    simp only [Bool.and_eq_true, decide_eq_true_eq, Bool.or_eq_true, Bool.not_eq_true'] at h
    exact ⟨h.1, fun k => test_moves_meet _ _ (h.2.resolve_left (by simp [k]))⟩
  · have all : [(true, (0x1FF : Word)), (false, 0x3FF)].all (fun e => let s := testMapAt [(0x2008, e.2)]
        decide (s.clusterLive 1 = true) && testOpen s && decide (bit (s.clusterWord 1) 9 ≠ e.1)) = true := by decide +kernel
    have h := List.all_eq_true.1 all e he
    simp only [Bool.and_eq_true, decide_eq_true_eq] at h
    exact ⟨h.1.1, test_open_meets _ h.1.2, h.2⟩
  · intro b hb
    rcases hb with rfl | rfl <;> decide +kernel
  · refine ⟨testPage e.1, 0, 2 ^ 30 + 8192, 0, 0x5010, 0x70E2 + e.1, ?_⟩
    have all : [(2 ^ 52, false), (2 * 2 ^ 52, false), (2 ^ 52 + 512, true), (4 + 2 * 2 ^ 52, false)].all (fun e => let s := testPage e.1
        let v := 0x70E2 + e.1
        decide (s.leafAt 0 (2 ^ 30 + 8192) = some (0, 0x5010, v)) && decide ((s.ctx 0).live = true) &&
          decide ((field v 4 2 = 0 ∧ (field v 53 52 = 1 ∨ field v 53 52 = 2)) ∨ (field v 4 2 = 1 ∧ field v 53 52 = 2)) &&
          decide (s.demotes (field v 4 2) = true) && decide (bit v 11 = false) && decide (bit v 9 = e.2)) = true := by decide +kernel
    have h := List.all_eq_true.1 all e he
    simp only [Bool.and_eq_true, decide_eq_true_eq] at h
    obtain ⟨⟨⟨⟨⟨h1, h2⟩, h3⟩, h4⟩, h5⟩, h6⟩ := h
    exact ⟨h1, h2, h3, h4, h5, h6⟩

/-- A device whose link 0 reaches node 7, a peer in a state, and that has windows open for peers. -/
def testPeerAt (state : Word) : State :=
  let s := testTables (testAt [0])
  { s with mapv := 2, map := [(0x1002, 1), (0x4000, 0x07000002), (0x6007, 0x10 + state)], recovering := [(7, 0x10000000)], sync := [0x40000100 / 32],
           regs := Tab.put (Tab.put (Tab.put s.regs 0x4C0 0x40000) 0x4C4 1) 0x4A4 0x10000000 }

def testBandAt (idle : Nat) : State := (testAt [0]).setCluster 0 { (testAt [0]).cluster 0 with awake := 15, idle := [(3, idle)], idleLimit := [(3, 4095)] }

/-- A reservation with ceiling 16 of cluster 0. -/
def testCeiling : State := { testAt [0] with quotes := [(1, testQuote .accepted 0 1)], reservations := [(1, ⟨[0], [], [], 16⟩)] }

theorem witness_LinksPeersAndPowerAct :
    (∀ e ∈ [((1 : Word), (0x07000000 : Word)), (1, 0x07000001), (2, 0x07000003), (2, 0x07000012), (3, 0x07000002 + 0x10), (1, 0x08000002)],
      ∃ s : State, s.MapOpen ∧ e.2.toNat % 8 < 4 ∧ e.2.toNat ≠ s.mapWord 0x4000 ∧ s.peerState 7 = e.1.toNat)
    ∧ (∃ s : State, s.MapOpen ∧ s.MapMoves [(0x1000 + 8 * 5 + 4, 0x155)])
    ∧ (∃ s : State, s.peerState 7 = 2 ∧ (s.hubReg 0x4A4).toNat ≤ Tab.read s.recovering 7 0 ∧ (s.losePeer 7).MapOpen ∧ (s.losePeer 7).peerState 7 = 2)
    ∧ (∃ s : State, s.MapOpen ∧ s.peerState 7 = 3)
    ∧ (∀ e ∈ [((0x40000FFC : Nat), true, false), (0x40000FFD, false, false), (0x3FFFFFFF, false, false), (0x40000100, true, true)],
        ∃ (s : State) (a : PeerAccess) (bs : List Byte), a.addr = e.1 ∧ a.write = some bs ∧ bs ≠ [] ∧
        s.peerState a.node = 1 ∧ a.addr + bs.length ≤ 2 ^ 64 ∧ s.inWindow a.addr bs.length = e.2.1 ∧ s.hbmOk a.addr = true ∧
        s.hbmOk (a.addr + bs.length - 1) = true ∧ s.isSync a.addr bs.length = e.2.2)
    ∧ (∃ s : State, Tab.find s.mccs 0 = none ∧ Tab.read (s.cluster 0).idleLimit 3 4096 ≠ 0 ∧ Tab.read (s.cluster 0).idleLimit 3 4096 < Tab.read (s.cluster 0).idle 3 0)
    ∧ (∃ s : State, (∀ r ∈ s.reservations, r.2.clusters.contains 1 = true → 16 ≤ r.2.ceil) ∧ ∃ r ∈ s.reservations, r.2.clusters.contains 0 = true ∧ r.2.ceil < 17)
    ∧ (∃ (s : State) (m : Mcc), Tab.find s.mccs 0 = some m ∧ m.queue ≠ [] ∧ ∀ q ∈ m.queue, q.mask &&& 12 = 0)
    ∧ ∃ s : State, s.worksOn 0 0 = true ∧ s.worksOn 0 1 = false := by
  refine ⟨fun e he => ⟨testPeerAt e.1, ?_⟩, ⟨testPeerAt 1, test_open_meets _ (by decide +kernel), test_moves_meet _ _ (by decide +kernel)⟩,
    ⟨testPeerAt 2, by decide +kernel, by decide +kernel, test_open_meets _ (by decide +kernel), by decide +kernel⟩,
    ⟨testPeerAt 3, test_open_meets _ (by decide +kernel), by decide +kernel⟩,
    fun e he => ⟨testPeerAt 1, { node := 7, addr := e.1, len := 0, write := some [1, 2, 3, 4] }, [1, 2, 3, 4], rfl, rfl, by decide, ?_⟩,
    ⟨testBandAt 4096, by decide +kernel, by decide +kernel, by decide +kernel⟩, ⟨testCeiling, ?_, (1, ⟨[0], [], [], 16⟩), by decide +kernel, by decide, by decide⟩,
    ⟨testQueued [testQMclr], (Tab.find (testQueued [testQMclr]).mccs 0).getD (Mcc.start 15), by decide +kernel, by decide +kernel,
      by decide +kernel⟩, ⟨testAt [0], by decide +kernel, by decide +kernel⟩⟩
  · have all : [((1 : Word), (0x07000000 : Word)), (1, 0x07000001), (2, 0x07000003), (2, 0x07000012), (3, 0x07000002 + 0x10), (1, 0x08000002)].all (fun e =>
        let s := testPeerAt e.1
        testOpen s && decide (e.2.toNat % 8 < 4 ∧ e.2.toNat ≠ s.mapWord 0x4000 ∧ s.peerState 7 = e.1.toNat)) = true := by decide +kernel
    have h := List.all_eq_true.1 all e he
    simp only [Bool.and_eq_true, decide_eq_true_eq] at h
    exact ⟨test_open_meets _ h.1, h.2.1, h.2.2.1, h.2.2.2⟩
  · have all : [((0x40000FFC : Nat), true, false), (0x40000FFD, false, false), (0x3FFFFFFF, false, false), (0x40000100, true, true)].all (fun e => let s := testPeerAt 1
        decide (s.peerState 7 = 1 ∧ e.1 + 4 ≤ 2 ^ 64 ∧ s.inWindow e.1 4 = e.2.1 ∧ s.hbmOk e.1 = true ∧ s.hbmOk (e.1 + 4 - 1) = true ∧ s.isSync e.1 4 = e.2.2)) = true := by
      decide +kernel
    exact of_decide_eq_true (List.all_eq_true.1 all e he)
  · intro r hr hc
    obtain rfl : r = (1, ⟨[0], [], [], 16⟩) := List.mem_singleton.1 hr
    decide

/-- Interface 1 of function 1, which is off, with one record not yet reported; the grid placed is one of its context. -/
def testIfc (en : Bool) : State :=
  let s := testGrid (testAt [0]) (fun g => { g with ctx := 9 })
  { s with qis := [(9, { Qi.reset with en := en, valid := true, sqhead := 5, unreported := 1, sinceFirst := 2048, qirq := 0x80020103 })], ctxs := (9, { s.ctx 0 with fn := 1, qi := 1 }) :: s.ctxs }
def testRef9 : QRef := ⟨1, 1⟩

/-- Ranges of slots of two partitions, side by side; with a range of this many slots the first meets the second, or does not. -/
def testRanges : State := { State.reset with regs := [(0x400, 0x40), (0x410, 0x44)] }

/-- What a write to a range register of partition 0 makes of it, and of the machine. -/
def testPartWord (s : State) (off : Nat) (v : Word) : Word := (s.hubReg (0x400 + 16 * 0 + off) &&& ~~~ hubMask (0x400 + 16 * 0 + off)) ||| (v &&& hubMask (0x400 + 16 * 0 + off))
def testPartWrite (s : State) (off : Nat) (v : Word) : State := { s with regs := Tab.put s.regs (0x400 + 16 * 0 + off) (testPartWord s off v) }

/-- Writes of both registers, whether the ranges then meet and whether the fields lie in their ranges: slots up to the neighbour's and
into them, 17 slots from slot 1 on, and rows up to the last one and one more. -/
def testParts3 : List (Nat × Word × Bool × Bool) :=
  [(0, 0x50, true, true), (0, 0x30, false, true), (0, 0x111, true, false), (4, 0x00600000, false, true), (4, 0x00601000, false, false)]

theorem witness_QueueInterfacesObeyTheirRegisters :
    (∃ (s : State) (r : QRef), 2 ^ 31 ≤ ((0x80000005 : Word) - (s.qi (qiKey r)).sqhead).toNat ∧ ((0x80000004 : Word) - (s.qi (qiKey r)).sqhead).toNat < 2 ^ 31 ∧
      s.consumes (qiKey r) = false ∧ (s.qi (qiKey r)).held = [] ∧ (s.qi (qiKey r)).en = true ∧ (s.ctx (qiKey r)).live = true ∧ s.coms = [] ∧
      (∀ e ∈ s.clusters, e.2.qnt = []))
    ∧ (bit (4 : Word).toNat 0 = false ∧ bit (4 : Word).toNat 2 = true)
    ∧ (∃ (s : State) (r : QRef), (s.qi (qiKey r)).en = false ∧ s.locked.contains r.fn = false ∧ r.q < 8 ∧ s.fnOn r.fn = false ∧ bit (0x11004 : Word).toNat 16 = true ∧
      field (0x11004 : Word).toNat 4 0 = 4 ∧ field (0x11004 : Word).toNat 12 8 = 16)
    ∧ (∃ (s : State) (r : QRef), s.locked.contains r.fn = false ∧ r.q < 8 ∧ (s.qi (qiKey r)).valid = true ∧ s.fnOn r.fn = false ∧ bit (0 : Word).toNat 31 = false ∧
      1 ∈ s.gridsOf (qiKey r))
    ∧ (∃ (s : State) (r : QRef), 0 < (s.qi (qiKey r)).unreported ∧ 0 < field (s.qi (qiKey r)).qirq.toNat 30 16 ∧
      1024 * field (s.qi (qiKey r)).qirq.toNat 30 16 ≤ (s.qi (qiKey r)).sinceFirst)
    ∧ (∃ s : State, s.fnBusy 1 = true ∧ s.fnBusy 31 = false)
    ∧ (∃ s : State, s.bootFailed = true ∧ s.qis = [])
    ∧ (∃ s : State, s.fnBusy 0 = false ∧ s.bootFailed = false ∧ s.qis = [] ∧ (Tab.find s.ctxs 7).isSome = true)
    ∧ (∀ e ∈ testParts3, ∃ (s : State) (t : State), t = testPartWrite s e.1 e.2.1 ∧ t.rangesMeet 0 = e.2.2.1 ∧
        partitionOk e.1 (testPartWord s e.1 e.2.1) = e.2.2.2 ∧ (e.2.2.1 = false → e.2.2.2 = true → s.unheld t 0 = [] ∧ (∀ a ∈ s.gangs, a.2.done = true) ∧
          (∀ a ∈ s.grids, a.2.quote = none) ∧ s.quotes = [] ∧ s.checked = false)) := by
  refine ⟨⟨testIfc true, testRef9, by decide +kernel, by decide +kernel, by decide +kernel, by decide +kernel, by decide +kernel, by decide +kernel,
      by decide +kernel, by decide +kernel⟩, by decide +kernel, ⟨testIfc false, testRef9, by decide +kernel⟩, ⟨testIfc true, testRef9, by decide +kernel⟩,
    ⟨testIfc true, testRef9, by decide +kernel⟩, ⟨testIfc true, by decide +kernel⟩,
    ⟨{ State.reset with bootstat := 0x110 }, by decide +kernel⟩,
    ⟨{ testAt [0] with ctxs := [(7, Ctx.empty)], grids := [] }, by decide +kernel, by decide +kernel, by decide +kernel, by decide +kernel⟩,
    fun e he => ⟨testRanges, _, rfl, ?_⟩⟩
  have all : testParts3.all (fun e => let s := testRanges
      let t := testPartWrite s e.1 e.2.1
      decide (t.rangesMeet 0 = e.2.2.1) && decide (partitionOk e.1 (testPartWord s e.1 e.2.1) = e.2.2.2) &&
        decide (e.2.2.1 = false → e.2.2.2 = true → s.unheld t 0 = [] ∧ (∀ a ∈ s.gangs, a.2.done = true) ∧ (∀ a ∈ s.grids, a.2.quote = none) ∧ s.quotes = [] ∧
          s.checked = false)) = true := by decide +kernel
  have h := List.all_eq_true.1 all e he
  simp only [Bool.and_eq_true, decide_eq_true_eq] at h
  exact ⟨h.1.1, h.1.2, h.2⟩

/-- Four stages that verify; and four of which this one fails. -/
def testStage (fault : Nat) : StageImage :=
  { digest := [BitVec.ofNat 8 fault], digestOk := fault != 2, signatureOk := fault != 1, version := if fault = 3 then 4 else 5, minVersion := 5 }
def testBoot (n fault : Nat) : BootInput := { stages := (List.range 4).map (fun j => testStage (if j = n then fault else 0)), map := [(1, 1), (0x1000, 0xFFFF), (0x4000, 7)], costs := [], rev := 1 }

theorem witness_BootAndAttestation :
    (∃ (s : State) (b : BootInput), s.bootstat = 0 ∧ b.stages.length = 4 ∧ (∀ g ∈ b.stages, g.digestOk = true ∧ g.signatureOk = true ∧ g.minVersion ≤ g.version) ∧
      s.qis = [] ∧ (let ws := b.map.filter (fun e => mapListed e.1 && e.1 != 0 && e.1 != 3)
        ({ s with mapv := 1 } : State).staffed ws = true ∧ (ws.map (·.1)).Nodup ∧ (0x1000, (0xFFFF : Word)) ∈ ws))
    ∧ (∀ e ∈ [(0, 2), (3, 1), (3, 3)], ∃ (b : BootInput) (g : StageImage),
        (∀ h ∈ b.stages.take e.1, h.digestOk = true ∧ h.signatureOk = true ∧ h.minVersion ≤ h.version) ∧ e.1 < b.stages.length ∧ b.stages[e.1]? = some g ∧
        (g.digestOk = false ∨ g.signatureOk = false ∨ g.version < g.minVersion))
    ∧ (∃ s : State, s.spdm.version = true ∧ s.spdm.caps = true ∧ s.spdm.algs = true ∧ s.spdm.exchanged = true)
    ∧ ∃ s : State, s.spdm.version = false ∧ s.spdm.caps = false ∧ s.spdm.algs = false ∧ s.spdm.exchanged = false := by
  refine ⟨⟨State.reset, testBoot 4 0, by decide +kernel, by decide +kernel, by decide +kernel, by decide +kernel, by decide +kernel⟩,
    fun e he => ⟨testBoot e.1 e.2, testStage e.2, ?_⟩,
    ⟨{ State.reset with spdm := { State.reset.spdm with version := true, caps := true, algs := true, exchanged := true } }, rfl, rfl, rfl, rfl⟩,
    ⟨State.reset, by decide +kernel⟩⟩
  have all : [(0, 2), (3, 1), (3, 3)].all (fun e => let b := testBoot e.1 e.2
      let g := testStage e.2
      decide ((∀ h ∈ b.stages.take e.1, h.digestOk = true ∧ h.signatureOk = true ∧ h.minVersion ≤ h.version) ∧ e.1 < b.stages.length ∧ b.stages[e.1]? = some g ∧
        (g.digestOk = false ∨ g.signatureOk = false ∨ g.version < g.minVersion))) = true := by decide +kernel
  exact of_decide_eq_true (List.all_eq_true.1 all e he)

/-- An interface with room, without, with records held, and with 64 held. -/
def testRing (dseq held : Nat) : State := { State.reset with qis := [(9, { Qi.reset with en := true, dseq := dseq, held := List.replicate held [] })] }

theorem witness_RecordsTakeTheirPlace :
    (∃ s : State, (s.qi 9).en = true ∧ (s.qi 9).held = [] ∧ (((s.qi 9).dseq + 1) % 2 ^ 32 + 2 ^ 32 - (s.qi 9).cqack.toNat) % 2 ^ 32 ≤ 2 ^ (s.qi 9).cqlog)
    ∧ (∃ s : State, (s.qi 9).en = true ∧ ¬ ((s.qi 9).held = [] ∧ (((s.qi 9).dseq + 1) % 2 ^ 32 + 2 ^ 32 - (s.qi 9).cqack.toNat) % 2 ^ 32 ≤ 2 ^ (s.qi 9).cqlog) ∧ (s.qi 9).held = [])
    ∧ (∃ s : State, (s.qi 9).en = true ∧ (s.qi 9).held ≠ [] ∧ (s.qi 9).held.length = 63)
    ∧ (∃ s : State, (s.qi 9).en = true ∧ (s.qi 9).held.length = 64)
    ∧ ∃ (s : State) (e : Egress), Tab.find s.egresses 2 = some e ∧ e.live = true ∧ e.tray ∈ s.trays ∧ s.trBelow e.tray e.e.toNat (s.trResolved e.tray) = true ∧
        s.trState e.tray e.e.toNat ≠ slotVetoed ∧ s.recordRoom e.ctx = false :=
  ⟨⟨testRing 15 0, by decide +kernel⟩, ⟨testRing 16 0, by decide +kernel⟩, ⟨testRing 16 63, by decide +kernel⟩, ⟨testRing 16 64, by decide +kernel⟩,
    ⟨{ testEgressAt 36 (testEgress 1 [0]) 12 [] with qis := [(0, { testQi with dseq := 16, held := List.replicate 64 [] })] }, testEgress 1 [0], by decide +kernel, rfl, by decide +kernel,
      by decide +kernel, by decide +kernel, by decide +kernel⟩⟩

/-- Engine 0 at an SHALT of a list. -/
def testListAt : State := State.reset.placeCommand (bytesLE 4 0xC2800000)

theorem witness_EncodedInstructionsReadBack :
    (∃ i : Instr, i.wellFormed = true ∧ encode i ≠ [] ∧ i.isCommand = false) ∧ ∃ i : Instr, i.wellFormed = true ∧ encode i ≠ [] ∧ i.isCommand = true :=
  ⟨⟨.mac ⟨false, .vreg 4, .vreg 5, .vreg 6⟩, by decide⟩, ⟨.sloop 3 0, by decide⟩⟩

theorem witness_StepRunsTheDecodedInstruction :
    (∃ (s : State) (x : Ex), s.agenda = [] ∧ Ex.load s = some x ∧ x.mayIssue = true ∧ x.leftCode = none ∧ x.hit = true)
    ∧ (∃ (s : State) (i : Instr) (r : List Act), s.agenda = .event i :: r)
    ∧ ∃ (s : State) (k : Nat) (i : Instr) (t : State), s.agenda = [] ∧ s.turn = .engine k ∧ engineFetch s k = .run i t := by
  refine ⟨⟨testAt [0x05010286], testParty (testAt [0x05010286]), by decide +kernel, by decide +kernel, by decide +kernel, by decide +kernel, by decide +kernel⟩,
    ⟨{ testAt [0] with agenda := [.event (.quoteLapse 7)] }, _, _, rfl⟩, ?_⟩
  cases hr : engineFetch testListAt 0 with
  | run i t => exact ⟨_, 0, i, t, by decide +kernel, by decide +kernel, hr⟩
  | past t =>
    have h : (match engineFetch testListAt 0 with | .run _ _ => true | _ => false) = true := by decide +kernel
    rw [hr] at h
    cases h

theorem witness_MemoryStaysCanonical : ∃ s t : State, Memory.wf s.mem = true ∧ s.mem ≠ [] ∧ step s = .next t := by
  cases hr : step testListAt with
  | next t => exact ⟨testListAt, t, by decide +kernel, by decide +kernel, hr⟩
  | _ =>
    have h : (match step testListAt with | .next _ => true | _ => false) = true := by decide +kernel
    rw [hr] at h
    cases h

/-- The digest of nothing (SHA3-512, FIPS 202). -/
theorem test_sha3_of_nothing : sha3 [] = [
    0xA6, 0x9F, 0x73, 0xCC, 0xA2, 0x3A, 0x9A, 0xC5, 0xC8, 0xB5, 0x67, 0xDC, 0x18, 0x5A, 0x75, 0x6E, 0x97, 0xC9, 0x82, 0x16, 0x4F, 0xE2, 0x58, 0x59,
    0xE0, 0xD1, 0xDC, 0xC1, 0x47, 0x5C, 0x80, 0xA6, 0x15, 0xB2, 0x12, 0x3A, 0xF1, 0xF5, 0xF9, 0x4C, 0x11, 0xE3, 0xE9, 0x40, 0x2C, 0x3A, 0xC5, 0x58,
    0xF5, 0x00, 0x19, 0x9D, 0x95, 0xB6, 0xD3, 0xE3, 0x01, 0x75, 0x85, 0x86, 0x28, 0x1D, 0xCD, 0x26] := by decide +kernel

/-- One step of a word placed for the next step: LDI v3, -12 writes every lane, and the PC goes on (R64, R123). -/
theorem test_step_loads_a_constant :
    let t := testStep (State.reset.withFetchWord 32 0x4001FFF4)
    (testParty t).rd (.vreg 3) 31 = 0xFFFFFFF4 ∧ (testParty t).sp.pc = 4 := by decide +kernel

end Tests
end

section
/-! The bytes of encoded words, and what the decoders of a stream and of a list read from them (R1, R52, R242). -/
namespace Sys2Proof.Laws.Encoding

/-- The words of any instruction read back as it. -/
theorem reads_back (i : Instr) : Statement i := by
  cases i with
  | illegalZero => exact illegalZero | illegalOpcode w => exact illegalOpcode w | streamWord w => exact streamWord w | nop f => exact nop f
  | add f => exact add f | sub f => exact sub f | mul f => exact mul f | mulh f => exact mulh f | mac f => exact mac f | min f => exact min f
  | max f => exact max f | abs f => exact abs f | neg f => exact neg f | div f => exact div f | rem f => exact rem f | rcp f => exact rcp f
  | rsq f => exact rsq f | sqrt f => exact sqrt f | exp2 f => exact exp2 f | log2 f => exact log2 f | tanh f => exact tanh f | and_ f => exact and_ f
  | or_ f => exact or_ f | xor_ f => exact xor_ f | andn f => exact andn f | shl f => exact shl f | shr f => exact shr f | sar f => exact sar f
  | rot f => exact rot f | popc f => exact popc f | clz f => exact clz f | brev f => exact brev f | bfx f => exact bfx f | bfi f => exact bfi f
  | prmt f => exact prmt f | cvtF32 f => exact cvtF32 f | cvtBf16 f => exact cvtBf16 f | cvtF16 f => exact cvtF16 f | cvtE4m3 f => exact cvtE4m3 f
  | cvtE5m2 f => exact cvtE5m2 f | cvtE2m1 f => exact cvtE2m1 f | cvtDy8 f => exact cvtDy8 f | cvtI32 f => exact cvtI32 f
  | cvtN32 f => exact cvtN32 f | cvtI8 f => exact cvtI8 f | cvtN8 f => exact cvtN8 f | cmpEq f => exact cmpEq f | cmpNe f => exact cmpNe f
  | cmpLt f => exact cmpLt f | cmpLe f => exact cmpLe f | cmpGt f => exact cmpGt f | cmpGe f => exact cmpGe f | cmpOrd f => exact cmpOrd f
  | cmpUnord f => exact cmpUnord f | pand f => exact pand f | por f => exact por f | pxor f => exact pxor f | pnot f => exact pnot f
  | pmov f => exact pmov f | vany f => exact vany f | vall f => exact vall f | vbal f => exact vbal f | shfl f => exact shfl f
  | shflx f => exact shflx f | shflu f => exact shflu f | shfld f => exact shfld f | bcast f => exact bcast f | lwr f => exact lwr f
  | mov f => exact mov f | sel f => exact sel f | msetr f => exact msetr f | join f => exact join f | ret f => exact ret f | lbrk f => exact lbrk f
  | exit f => exact exit f | yld f => exact yld f | bkpt f => exact bkpt f | callt f => exact callt f | lpb f => exact lpb f | ldi f => exact ldi f
  | ldih f => exact ldih f | ldc f => exact ldc f | srd f => exact srd f | swr f => exact swr f | mset f => exact mset f | jmark f => exact jmark f
  | xacq f => exact xacq f | xrel f => exact xrel f | phase f => exact phase f | trap f => exact trap f | live f => exact live f
  | cntrd f => exact cntrd f | maprd f => exact maprd f | lds32 f => exact lds32 f | lds64 f => exact lds64 f | lds128 f => exact lds128 f
  | sts32 f => exact sts32 f | sts64 f => exact sts64 f | sts128 f => exact sts128 f | ldg32 f => exact ldg32 f | ldg64 f => exact ldg64 f
  | ldg128 f => exact ldg128 f | stg32 f => exact stg32 f | stg64 f => exact stg64 f | stg128 f => exact stg128 f | fenceAcq f => exact fenceAcq f
  | fenceRel f => exact fenceRel f | fenceAr f => exact fenceAr f | flushq f => exact flushq f | bari f => exact bari f | bara f => exact bara f
  | barw f => exact barw f | baraw f => exact baraw f | tbar f => exact tbar f | tri f => exact tri f | trc f => exact trc f | trf f => exact trf f
  | trw f => exact trw f | trr f => exact trr f | tro f => exact tro f | trv f => exact trv f | trq f => exact trq f | tcopy f => exact tcopy f
  | tcopyv f => exact tcopyv f | tset f => exact tset f | tget f => exact tget f | slrun f => exact slrun f | stail f => exact stail f
  | slseq f => exact slseq f | atmUnp op f => exact atmUnp op f | atmCom op f => exact atmCom op f | atmNor op f => exact atmNor op f
  | atmQnt op f => exact atmQnt op f | atmSpc op f => exact atmSpc op f | atmAcq op f => exact atmAcq op f | atmRel op f => exact atmRel op f
  | atmAr op f => exact atmAr op f | mshape f => exact mshape f | mwl f => exact mwl f | mswap f => exact mswap f | mstr f => exact mstr f
  | mdrn f => exact mdrn f | mclr f => exact mclr f | mscl f => exact mscl f | mwait f => exact mwait f | clid f => exact clid f
  | aqst f => exact aqst f | launch f => exact launch f | lwait f => exact lwait f | mapack f => exact mapack f | rtt f => exact rtt f
  | pfmap f => exact pfmap f | tlbi f => exact tlbi f | errrd f => exact errrd f | kill f => exact kill f | br off => exact br off
  | call off => exact call off | lpe off => exact lpe off | sfetch f => exact sfetch f | sstore f => exact sstore f | sloop t r => exact sloop t r
  | snext r => exact snext r | sadv c t => exact sadv c t | swaitf r => exact swaitf r | sacq r c => exact sacq r c | srel r c => exact srel r c
  | sseq r => exact sseq r | slink r x y => exact slink r x y | shalt r => exact shalt r | sset c r v => exact sset c r v
  | _ => exact fun _ => rfl

/-- The bytes of a row of words, each little-endian (R1, R52). -/
def wordBytes (ws : List Word) : List Byte := ws.flatMap (fun w => bytesLE 4 w.toNat)

theorem wordBytes_cons (w : Word) (ws : List Word) : wordBytes (w :: ws) = bytesLE 4 w.toNat ++ wordBytes ws := rfl

theorem bytesLE_length (n x : Nat) : (bytesLE n x).length = n := by
  induction n generalizing x with
  | zero => rfl
  | succ n ih => simp [bytesLE, ih]

theorem natLE_bytesLE (n x : Nat) : natLE (bytesLE n x) = x % 256 ^ n := by
  induction n generalizing x with
  | zero => simp [bytesLE, natLE, Nat.mod_one]
  | succ n ih =>
    simp only [bytesLE, natLE, ih, BitVec.toNat_ofNat, Nat.pow_succ']
    exact Nat.mod_mul.symm

theorem wordLE_bytes (w : Word) (bs : List Byte) : wordLE (bytesLE 4 w.toNat ++ bs) = w := by
  have hw : w.toNat % 256 ^ 4 = w.toNat := Nat.mod_eq_of_lt w.isLt
  unfold wordLE
  rw [List.take_left' (bytesLE_length 4 _), natLE_bytesLE, hw]
  exact BitVec.eq_of_toNat_eq (word_toNat _ w.isLt)

theorem drop_bytes (w : Word) (bs : List Byte) (n : Nat) : (bytesLE 4 w.toNat ++ bs).drop (4 + n) = bs.drop n := by
  rw [← List.drop_drop, List.drop_left' (bytesLE_length 4 _)]

/-- The bytes after a row of words. -/
theorem drop_wordBytes (ws : List Word) (bs : List Byte) : (wordBytes ws ++ bs).drop (4 * ws.length) = bs := by
  induction ws with
  | nil => rfl
  | cons w ws ih =>
    rw [wordBytes_cons, List.append_assoc, List.length_cons, show 4 * (ws.length + 1) = 4 + 4 * ws.length by omega, drop_bytes, ih]

/-- The word at a place of a row of words. -/
theorem wordLE_wordBytes (ws : List Word) (bs : List Byte) (k : Nat) (hk : k < ws.length) :
    wordLE ((wordBytes ws ++ bs).drop (4 * k)) = ws.getD k 0 := by
  induction ws generalizing k with
  | nil => exact absurd hk (Nat.not_lt_zero k)
  | cons w ws ih =>
    rw [wordBytes_cons, List.append_assoc]
    cases k with
    | zero => exact wordLE_bytes w _
    | succ k =>
      rw [show 4 * (k + 1) = 4 + 4 * k by omega, drop_bytes, List.getD_cons_succ]
      exact ih k (Nat.lt_of_succ_lt_succ hk)

/-- A core or the MCC reads the word at the head of its stream and leaves the bytes after it (R52). -/
theorem decodeBytes_word (w : Word) (bs : List Byte) : decodeBytes (bytesLE 4 w.toNat ++ bs) = some (decode w, bs) := by
  have hl : ¬ (bytesLE 4 w.toNat ++ bs).length < 4 := by rw [List.length_append, bytesLE_length]; omega
  unfold decodeBytes
  rw [if_neg hl, wordLE_bytes, List.drop_left' (bytesLE_length 4 _)]

/-- A command is read from its first word and as many words after it as its opcode says (R242). -/
theorem decodeStream_congr (w : Word) {x y x' y' : Word} (hx : 1 ≤ streamExt (field w.toNat 31 22) → x = x')
    (hy : 2 ≤ streamExt (field w.toNat 31 22) → y = y') : decodeStream w x y = decodeStream w x' y' := by
  unfold decodeStream
  dsimp only
  split <;> rename_i hop <;> simp only [hop, streamExt] at hx hy <;> simp_all

/-- The words of a command: one, and as many after it as its opcode says (R242). -/
theorem encode_command (i : Instr) (hc : i.isCommand = true) :
    ∃ w ext, encode i = w :: ext ∧ ext.length = streamExt (field w.toNat 31 22) := by
  have words : ∀ (op r : Nat) (ext : List Word), op < 1024 → r < 2 ^ 22 → ext.length = streamExt op →
      ext.length = streamExt (field (encS op r).toNat 31 22) := fun op r ext ho hr he => by rw [encS, opcode_field op r ho hr, he]
  cases i with
  | sfetch f => exact ⟨_, _, rfl, words 0x300 (boxBits f) _ (by decide) (boxBits_lt f) rfl⟩
  | sstore f => exact ⟨_, _, rfl, words 0x301 (boxBits f) _ (by decide) (boxBits_lt f) rfl⟩
  | sloop t r => exact ⟨_, _, rfl, words 0x302 _ _ (by decide) (by omega) rfl⟩
  | snext r => exact ⟨_, _, rfl, words 0x303 _ _ (by decide) r.isLt rfl⟩
  | sadv c t => exact ⟨_, _, rfl, words 0x304 _ _ (by decide) (by omega) rfl⟩
  | swaitf r => exact ⟨_, _, rfl, words 0x305 _ _ (by decide) r.isLt rfl⟩
  | sacq r c => exact ⟨_, _, rfl, words 0x306 _ _ (by decide) (by omega) rfl⟩
  | srel r c => exact ⟨_, _, rfl, words 0x307 _ _ (by decide) (by omega) rfl⟩
  | sseq r => exact ⟨_, _, rfl, words 0x308 _ _ (by decide) r.isLt rfl⟩
  | slink r lo hi => exact ⟨_, _, rfl, words 0x309 _ _ (by decide) r.isLt rfl⟩
  | shalt r => exact ⟨_, _, rfl, words 0x30A _ _ (by decide) r.isLt rfl⟩
  | sset c r v => exact ⟨_, _, rfl, words 0x30B _ _ (by decide) (by omega) rfl⟩
  | _ => exact absurd hc Bool.false_ne_true

/-- An engine reads the command at the head of a list's bytes and leaves the bytes after its words (R242). -/
theorem decodeStreamBytes_words {w : Word} {ext : List Word} {i : Instr} (hl : ext.length = streamExt (field w.toNat 31 22))
    (hi : decodeStream w (ext.getD 0 0) (ext.getD 1 0) = .ok i) (bs : List Byte) :
    decodeStreamBytes (wordBytes (w :: ext) ++ bs) = .ok (i, bs) := by
  have hw : wordLE (wordBytes (w :: ext) ++ bs) = w := wordLE_wordBytes (w :: ext) bs 0 (Nat.succ_pos _)
  have hs := decodeStream_congr w (x := wordLE ((wordBytes (w :: ext) ++ bs).drop 4)) (y := wordLE ((wordBytes (w :: ext) ++ bs).drop 8))
    (x' := ext.getD 0 0) (y' := ext.getD 1 0)
    (fun h => wordLE_wordBytes (w :: ext) bs 1 (by rw [List.length_cons]; omega))
    (fun h => wordLE_wordBytes (w :: ext) bs 2 (by rw [List.length_cons]; omega))
  have hd := drop_wordBytes (w :: ext) bs
  rw [List.length_cons, hl] at hd
  unfold decodeStreamBytes
  simp only [hw, hs, hi]
  rw [show 4 + 4 * streamExt (field w.toNat 31 22) = 4 * (streamExt (field w.toNat 31 22) + 1) by omega, hd]

/-- Settles O2: the words of each instruction read back as it, and the decoders take as many bytes as there are words. -/
theorem encodedInstructionsReadBack : Obligations.EncodedInstructionsReadBack := by
  intro i rest hw he
  have hr := reads_back i hw
  split
  case isTrue hc =>
    obtain ⟨w, ext, hi, hl⟩ := encode_command i hc
    rw [hi] at hr ⊢
    simp only [hc, if_true] at hr
    exact decodeStreamBytes_words hl hr rest
  case isFalse hc =>
    obtain ⟨w, ext, hi⟩ := List.exists_cons_of_ne_nil he
    rw [hi] at hr ⊢
    simp only [hc] at hr
    obtain ⟨rfl, hd⟩ := hr
    have := decodeBytes_word w rest
    rw [hd] at this
    exact this

end Sys2Proof.Laws.Encoding
end

section
/-! The decoder drops no bit: the fields that it takes from a word, put together again, are the word (R52, R53), and it gives each
opcode to one instruction, which encodes with that opcode (R65-R67). -/
namespace Sys2Proof.Laws.Encoding

theorem operand_toNat_ofNat (x : Nat) (h : x < 128) : (Operand.ofNat x).toNat = x := by
  have all : ∀ k : Fin 128, (Operand.ofNat k.val).toNat = k.val := by decide
  exact all ⟨x, h⟩

theorem atmOp_code_ofCode (o : Nat) (h : o < 8) : (AtmOp.ofCode o).code = o := by
  have all : ∀ k : Fin 8, (AtmOp.ofCode k.val).code = k.val := by decide
  exact all ⟨o, h⟩

theorem b2n_bit (x i : Nat) : b2n (bit x i) = x / 2 ^ i % 2 := by
  rcases Nat.mod_two_eq_zero_or_one (x / 2 ^ i) with h | h <;> simp [bit, b2n, h]

/-- A word is its opcode and 22 bits more. -/
theorem word_of_fields (w : Word) (r : Nat) (h : r = w.toNat % 2 ^ 22) : word (field w.toNat 31 22 * 2 ^ 22 + r) = w := by
  have hw := w.isLt
  have hs : field w.toNat 31 22 * 2 ^ 22 + r = w.toNat := by
    subst h; unfold field; omega
  rw [hs]
  exact BitVec.eq_of_toNat_eq (word_toNat _ hw)

theorem encR_rform (w : Word) : encR (field w.toNat 31 22) (rform w.toNat) = [w] := by
  rw [encR_eq, word_of_fields w]
  simp only [rBits, rform, b2n_bit]
  rw [operand_toNat_ofNat, operand_toNat_ofNat, operand_toNat_ofNat] <;> unfold field <;> omega

theorem encK_kform (w : Word) : encK (field w.toNat 31 22) (kform w.toNat) = [w] := by
  rw [encK_eq, word_of_fields w]
  simp only [kBits, kform, BitVec.toNat_ofNat]
  rw [operand_toNat_ofNat] <;> unfold field <;> omega

theorem encB_offset (w : Word) : encB (field w.toNat 31 22) (BitVec.ofNat 22 w.toNat) = [w] := by
  rw [encB, word_of_fields w]
  exact BitVec.toNat_ofNat ..

theorem encode_opR {op : Nat} {mk : RForm → Instr} (h : opR op = some mk) (f : RForm) : encode (mk f) = encR op f := by
  unfold opR at h
  split at h <;> cases h <;> rfl

theorem encode_opK {op : Nat} {mk : KForm → Instr} (h : opK op = some mk) (f : KForm) : encode (mk f) = encK op f := by
  unfold opK at h
  split at h <;> cases h <;> rfl

theorem encode_opB {op : Nat} {mk : BitVec 22 → Instr} (h : opB op = some mk) (off : BitVec 22) : encode (mk off) = encB op off := by
  unfold opB at h
  split at h <;> cases h <;> rfl

theorem encode_opAtm (use : Nat) (h : use < 8) (op : AtmOp) (f : RForm) : encode (opAtm use op f) = encA use op f := by
  match use, h with
  | 0, _ | 1, _ | 2, _ | 3, _ | 4, _ | 5, _ | 6, _ | 7, _ => rfl

/-- An atomic's opcode is made of its operation and its use (R66). -/
theorem encA_rform (w : Word) (h1 : 0x180 ≤ field w.toNat 31 22) (h2 : field w.toNat 31 22 < 0x1C0) :
    encA (field w.toNat 31 22 % 8) (.ofCode ((field w.toNat 31 22 - 0x180) / 8)) (rform w.toNat) = [w] := by
  rw [encA, atmOp_code_ofCode _ (by omega),
    show 0x180 + 8 * ((field w.toNat 31 22 - 0x180) / 8) + field w.toNat 31 22 % 8 = field w.toNat 31 22 by omega, encR_rform]

/-- What a word of a core's or the MCC's stream decodes to below the stream commands encodes as the word. -/
theorem encode_decodeOp (w : Word) : encode (decodeOp w (field w.toNat 31 22)) = [w] := by
  unfold decodeOp
  split
  case isTrue h =>
    dsimp only
    split
    · rfl
    · rw [encode_opAtm _ (Nat.mod_lt _ (by decide)), encA_rform w h.1 h.2]
  case isFalse =>
    split
    next mk h => rw [encode_opR h, encR_rform]
    next =>
      split
      next mk h => rw [encode_opK h, encK_kform]
      next =>
        split
        next mk h => rw [encode_opB h, encB_offset]
        next => rfl

/-- Settles O1: each word, taken apart by its opcode and its fields. -/
theorem writtenWordsDecode : Obligations.WrittenWordsDecode :=
  ⟨rfl, rfl, rfl, rfl, rfl, rfl, rfl, rfl, rfl, rfl⟩

/-- Settles O3, by the kinds of word: the all-zero word, the commands, and the words of an opcode below 0x300. -/
theorem everyWordIsItsInstruction : Obligations.EveryWordIsItsInstruction := by
  intro w
  unfold decode
  split
  case isTrue h => rw [h]; rfl
  case isFalse =>
    split
    · rfl
    · exact encode_decodeOp w

end Sys2Proof.Laws.Encoding
end

section
/-! The instructions of cores and of the MCC are issued, so a check that fails, and a word that is no instruction, lead into the
handler (R67, R68, R334). -/
namespace Sys2Proof.Machine

theorem issueEx_eq_issueWith (i : Instr) (s : State) (body : Ex → Except Trap Ex) : ∃ b, issueEx i s body = issueWith i s b := ⟨_, rfl⟩

theorem fate_eq_issueWith (i : Instr) (c : Cause) (s : State) : ∃ b, fate i c s = issueWith i s b := ⟨_, rfl⟩

/-- Whatever the word of a core's or the MCC's stream, its meaning lies within the frame in which its instruction is issued: the words
that are no instruction, those that only change the party and move on, and the others. The commands of a stream list are an engine's,
and no word encodes an event. -/
theorem exec_eq_issueWith (i : Instr) (s : State) (he : encode i ≠ []) (hc : i.isCommand = false) :
    ∃ body, exec i s = issueWith i s body := by
  cases i with
  | illegalZero | illegalOpcode | streamWord =>
    exact fate_eq_issueWith _ _ s
  | nop | add | sub | mul | mulh | mac | min | max | abs | neg | div | rem | rcp | rsq | sqrt | exp2 | log2 | tanh | and_ | or_ | xor_
  | andn | shl | shr | sar | rot | popc | clz | brev | bfx | bfi | prmt | cvtF32 | cvtBf16 | cvtF16 | cvtE4m3 | cvtE5m2 | cvtE2m1 | cvtDy8
  | cvtI32 | cvtN32 | cvtI8 | cvtN8 | cmpEq | cmpNe | cmpLt | cmpLe | cmpGt | cmpGe | cmpOrd | cmpUnord | pand | por | pxor | pnot | pmov
  | vany | vall | vbal | shfl | shflx | shflu | shfld | bcast | lwr | mov | sel | msetr | ldi | ldih | ldc | srd | swr | mset | phase
  | live | cntrd | maprd | fenceAcq | fenceRel | fenceAr | flushq | tcopy | tcopyv | tset | tget | stail | mshape | mscl | clid | aqst
  | mapack | pfmap | tlbi | errrd =>
    dsimp only [exec]; exact issueEx_eq_issueWith _ s _
  | join | ret | lbrk | exit | yld | bkpt | callt | lpb | jmark | xacq | xrel | trap | lds32 | lds64 | lds128 | sts32 | sts64 | sts128
  | ldg32 | ldg64 | ldg128 | stg32 | stg64 | stg128 | bari | bara | barw | baraw | tbar | tri | trc | trf | trw | trr | tro | trv | trq
  | slrun | slseq | atmUnp | atmCom | atmNor | atmQnt | atmSpc | atmAcq | atmRel | atmAr | mwl | mswap | mstr | mdrn | mclr | mwait
  | launch | lwait | rtt | kill | br | call | lpe =>
    dsimp only [exec]; exact ⟨_, rfl⟩
  | sfetch | sstore | sloop | snext | sadv | swaitf | sacq | srel | sseq | slink | shalt | sset =>
    exact Bool.noConfusion hc
  | _ => exact absurd rfl he

/-- No check of R68 is a limit of the quote (R315). -/
theorem Ex.decodeCheck_not_limit {x : Ex} {i : Instr} {c : Cause} (h : x.decodeCheck i = some c) : c.isLimit = false := by
  unfold Ex.decodeCheck at h
  repeat' split at h
  all_goals cases h <;> rfl

/-- Settles O15: the trap that `decodeCheck` names is no limit's, so the party enters its handler with it. -/
theorem failedChecksEnterTheHandler : Obligations.FailedChecksEnterTheHandler := by
  intro i s x c he hc hl hu hk
  obtain ⟨body, hb⟩ := exec_eq_issueWith i s he hc
  obtain ⟨y, hy, hent⟩ := Ex.takeTrap_enters (t := .of c) hl hu (Ex.decodeCheck_not_limit hk)
  exact ⟨y, by rw [hb, issueWith_check hl hk, hy], hent⟩

/-- A word of a fate of R67 takes its trap once the checks before it have passed. -/
theorem fate_enters {i : Instr} {s : State} {x : Ex} {c : Cause} (hi : x.Issues i s) (hu : x.User) (hc : c.isLimit = false) :
    ∃ y : Ex, fate i c s = .next y.s ∧ x.Enters y (.of c) := by
  obtain ⟨y, hy, hent⟩ := Ex.takeTrap_enters (t := .of c) hi.load hu hc
  exact ⟨y, by rw [fate, issueWith_trap hi rfl, hy], hent⟩

/-- Settles O17: each of the three fates takes its trap, and none asks the guard. -/
theorem wordsThatAreNoInstructionTrap : Obligations.WordsThatAreNoInstructionTrap := fun _ _ _ hu =>
  ⟨fun hi => fate_enters hi hu rfl, fun hi => fate_enters hi hu rfl, fun hi => fate_enters hi hu rfl⟩

end Sys2Proof.Machine
end

section
/-! What an instruction of a party at rest leaves that has changed the party and, with it, the machine outside its group; and what has
been written with it (R72, R99, R124, R125, R336). -/
namespace Sys2Proof.Machine

/-- An instruction leaves of its party `y`, on its way from `x`, the same lanes and handler, and no wait. -/
structure Ex.Moves (x y : Ex) : Prop where
  gid : y.gid = x.gid
  mate : y.mate = none
  splits : y.g.splits = x.g.splits
  mcc : y.g.mcc = x.g.mcc
  dead : y.g.dead = x.g.dead
  saved : y.g.saved.isSome = x.g.saved.isSome
  trapq : y.g.trapq = x.g.trapq
  entry : y.sp.entry = x.sp.entry
  lanes : y.sp.lanes = x.sp.lanes
  wait : y.sp.wait = none

theorem Ex.Alike.moves {x y : Ex} (h : x.Alike y) (hc : x.Calm) : x.Moves y := by
  constructor
  case gid => exact h.gid
  case mate => exact h.mate.trans hc.mate
  case entry | lanes => rw [h.sp]
  case wait => rw [h.sp]; exact hc.wait
  all_goals rw [h.g]

/-- The split's group still holds it. -/
theorem Ex.Moves.holds {x y : Ex} {s : State} (h : x.Moves y) (hl : Ex.load s = some x) (hc : x.Calm) :
    y.g.split? x.sp.entry = some x.sp := by
  obtain ⟨-, -, hsp⟩ := Ex.load_some hl hc.mate
  unfold Group.split?
  rw [h.splits]
  exact hsp

/-- The lanes of every split of the group are still alive. -/
theorem Ex.Moves.alive {x y : Ex} {s : State} (h : x.Moves y) (hl : Ex.load s = some x) (hc : x.Calm) :
    y.g.mcc = true ∨ ∀ p ∈ (y.g.withSplit y.sp).splits, p.lanes &&& ~~~ y.g.dead ≠ 0 := by
  obtain ⟨-, -, hsp⟩ := Ex.load_some hl hc.mate
  rw [h.mcc, h.dead]
  refine hc.alive.imp_right fun ha p hp => ?_
  obtain ⟨q, hq, hqp⟩ := List.mem_map.1 hp
  rw [h.splits] at hq
  split at hqp
  · rw [← hqp, h.lanes]
    exact ha x.sp (List.mem_of_find?_eq_some hsp)
  · exact hqp ▸ ha q hq

/-- What follows an instruction that is no switch point: its party's group and split, and the counters. -/
theorem Ex.Moves.finish {x y : Ex} {i : Instr} {s : State} (h : x.Moves y) (hl : Ex.load s = some x) (hc : x.Calm)
    (hs : i.isSwitch = false) (hch : y.s.checked = false) :
    ∃ c, x.finish i y.save = { y.s with counters := c, groups := Tab.put y.s.groups x.gid (y.g.withSplit y.sp.settled) } := by
  have hov : y.sp.over i = y.sp.settled := by unfold Split.over; rw [hs]; rfl
  rw [← hov]
  exact Ex.done hc h.gid h.mate h.entry (Option.isSome_iff_exists.2 ⟨_, h.holds hl hc⟩) h.wait (fun hsv => h.saved ▸ hsv)
    (Nat.le_of_eq (congrArg List.length h.trapq)) hch (h.alive hl hc)

/-- The party after its instruction, in the machine as it found it, whatever the counters have become. -/
def Ex.ended (x y : Ex) (c : Tab Word) : Ex :=
  ⟨{ x.s with counters := c, groups := Tab.put x.s.groups x.gid (y.g.withSplit y.sp.settled) }, x.gid, y.g.withSplit y.sp.settled,
    y.sp.settled, none⟩

theorem Ex.Moves.turns {x y : Ex} {s : State} (h : x.Moves y) (hl : Ex.load s = some x) (hc : x.Calm) (c : Tab Word) :
    x.Turns (x.ended y c) y.g y.sp := by
  have he : y.sp.settled.entry = x.sp.entry := h.entry
  refine ⟨⟨rfl, rfl, Tab.find_put_self _ _ _, ?_⟩, rfl, rfl, fun e hne => ?_, ?_⟩
  · show (y.g.withSplit y.sp.settled).split? x.sp.entry = _
    rw [Group.split?_withSplit, if_pos he.symm, h.holds hl hc]
    rfl
  · show (y.g.withSplit y.sp.settled).split? e = _
    rw [Group.split?_withSplit, if_neg (he ▸ hne)]
    unfold Group.split?
    rw [h.splits]
  · show y.sp.settled = y.sp.rests
    unfold Split.rests
    rw [h.wait]
    rfl

/-- The split of a party that has moved on with no more than its registers, flags, generators and latches changed. -/
theorem Ex.Alike.turned_split {x y z : Ex} (h : x.Alike y) (hc : x.Calm) (ht : x.Turns z y.g y.next.sp) :
    z.sp = { x.sp with pc := x.sp.pc + 4, issued := none, latches := y.sp.latches } := by
  have hnext : y.next.sp = { x.sp with pc := x.sp.pc + 4, latches := y.sp.latches } := by
    show { y.sp with pc := y.sp.pc + 4 } = _
    rw [h.sp]
  rw [ht.split, hnext]
  unfold Split.rests Split.settled
  simp only [hc.wait, ← hc.ghost]
  rfl

/-- Such a party reads every operand as it did before it moved on. -/
theorem Ex.Alike.turned_rd {x y z : Ex} (h : x.Alike y) (hc : x.Calm) (ht : x.Turns z y.g y.next.sp) (o : Operand) (l : Nat) :
    z.rd o l = y.rd o l := by
  have hsp := h.turned_split hc ht
  have hg : z.g = { y.g with splits := z.g.splits } := ht.group
  have hs : z.s = { x.s with counters := z.s.counters, groups := Tab.put x.s.groups x.gid z.g } := ht.onlyGroup
  have hgang : z.gang = y.gang := by
    show z.s.gang z.g.gang = y.s.gang y.g.gang
    rw [hs, hg, h.s]
    rfl
  have hgrid : z.grid = y.grid := by
    show z.s.grid z.gang.grid = y.s.grid y.gang.grid
    rw [hgang, hs, h.s]
    rfl
  refine Ex.rd_congr (by rw [hsp]) (by rw [hsp, h.sp]) ?_ ?_ ?_ ?_ ?_ ?_ ?_ ?_ ?_ hgang hgrid o l <;> rw [hg]

/-- What a party has written is what it leaves written when it moves on. -/
theorem Ex.Drafts.writes_of_turns {x y z : Ex} {nw : Bool} {d : Operand} {val : Nat → Word} (h : x.Drafts y nw d val) (hc : x.Calm)
    (ht : x.Turns z y.g y.next.sp) : x.Writes z nw d val := by
  have hsp := h.alike.turned_split hc ht
  have hl : z.sp.latches = y.sp.latches := by rw [hsp]
  have hg : z.g = { y.g with splits := z.g.splits } := ht.group
  have hrd := h.alike.turned_rd hc ht
  have hab : ∀ o, z.isAbsent o = y.isAbsent o := Ex.isAbsent_congr (by rw [hg]) (by rw [hg])
  constructor
  case becomes => exact ht.becomes
  case stepsOn =>
    unfold Ex.StepsOn
    rw [hl]
    exact hsp
  case onlyGroup => exact ht.onlyGroup
  case onlyRegs =>
    refine ⟨?_, ht.others⟩
    rw [hg]
    conv => lhs; rw [h.alike.g]
  case vector => intro hv hn l hlt; rw [hrd]; exact h.vector hv hn l hlt
  case scalar => intro hv hn l; rw [hrd]; exact h.scalar hv hn l
  case others => intro o l ho hn; rw [hrd, hab]; exact h.others o l ho hn
  case same => intro hn l; rw [hrd]; exact h.same hn l
  case latches => rw [hl]; exact h.latches
  case flags => rw [hg]; exact h.flags
  case rngs => rw [hg]; exact h.rngs

/-- The party after its instruction, its group put in place once more. -/
theorem Ex.ended_setGroup (x y : Ex) (c : Tab Word) (g : Group) :
    (x.ended y c).s.setGroup x.gid g = { x.s with counters := c, groups := Tab.put x.s.groups x.gid g } := by
  unfold Ex.ended State.setGroup
  dsimp only
  rw [Tab.put_put]

/-- The captured high half of the cycle count after an `SRD` of `LCLK` into `d` (R72, R99). -/
def Ex.captured (x : Ex) (d : Operand) : Option Word :=
  if (if d.isVreg then x.acting ≠ 0 else x.go = true) then some (word ((x.s.cluster x.cluster).lclk / 2 ^ 32)) else x.g.lclkh

/-- The party with a captured high half. -/
def Ex.capture (x : Ex) (h : Option Word) : Ex := { x with g := { x.g with lclkh := h } }

/-- A read of `LCLK` writes the low half of the count and captures the high half (R72, R124). -/
theorem Ex.readSpecial_lclk (x : Ex) (d : Operand) (hgh : x.sp.ghost = []) (hd : ∀ n, d ≠ .latch n) :
    ∃ y, x.Drafts y false d (fun _ => word (x.s.cluster x.cluster).lclk)
      ∧ x.readSpecial d 3 = y.capture (x.captured d) := by
  have hy := x.drafts_form false d (fun _ => word (x.s.cluster x.cluster).lclk) hgh hd
  refine ⟨_, hy, ?_⟩
  have hkept : (x.form false d (fun _ => word (x.s.cluster x.cluster).lclk)).g.lclkh = x.g.lclkh := by rw [hy.alike.g]
  have hacts : (if d.isVreg then x.acting != 0 else x.go) = true ↔ (if d.isVreg then x.acting ≠ 0 else x.go = true) := by
    split <;> simp
  unfold Ex.readSpecial Ex.captured Ex.capture
  by_cases ha : (if d.isVreg then x.acting ≠ 0 else x.go = true)
  · rw [if_pos ha, if_pos ⟨rfl, hacts.2 ha⟩]
    rfl
  · rw [if_neg ha, if_neg (fun h => ha (hacts.1 h.2)), ← hkept]
    rfl

/-- The party with its step bit set or cleared. -/
def Ex.setStep (x : Ex) (b : Bool) : Ex := { x with g := { x.g with step := b } }

/-- A write of `SUPSTAT` with bit 2 set clears the log's overflow flag of the context, and sets the step bit (R125, R336, R345). -/
theorem Ex.writeSpecial_supstat (x : Ex) (w : Word) (h : bit w.toNat 2 = true) :
    x.writeSpecial 0x27 w = { x.setStep (bit w.toNat 1) with s := x.s.setCtx x.ctxId { x.ctx with logov := false } } := by
  unfold Ex.writeSpecial
  dsimp only
  rw [if_pos h]
  rfl

/-- Settles O12: either instruction ends as one that writes a value, or that turns the party, in a machine that differs from that by
its effect. -/
theorem readsWithAnEffect : Obligations.ReadsWithAnEffect := by
  constructor
  · intro f s x hi hc hk
    obtain ⟨y, hy, hread⟩ := x.readSpecial_lclk f.d hc.ghost (hi.dest_ne_latch (h := .kdst) (f := f.fields) rfl ⟨_, _, _, _, rfl⟩)
    have hm := hy.alike.moves hc
    have hturn : x.Moves y.next := { hm with }
    have hcapture : x.Moves (y.capture (x.captured f.d)).next := { hm with }
    have hs : (y.capture (x.captured f.d)).next.s = x.s := hy.alike.s
    obtain ⟨c, hfin⟩ := hcapture.finish (i := .srd f) hi.load hc rfl (hs ▸ hc.checked)
    refine ⟨x.ended y.next c, hy.writes_of_turns hc (hturn.turns hi.load hc c), ?_⟩
    show execSrd f s = _
    rw [execSrd, issueEx_ok hi (by rw [hk, hread]), hfin, hs, Ex.ended_setGroup]
    rfl
  · intro f s x hi hc hk hgo hb
    have hm := (Ex.Alike.refl x).moves hc
    have hturn : x.Moves (x.setStep (bit (x.rdU f.d).toNat 1)).next := { hm with }
    have hwrite := x.writeSpecial_supstat (x.rdU f.d) hb
    have hwritten : x.Moves (x.writeSpecial 0x27 (x.rdU f.d)).next := by rw [hwrite]; exact { hm with }
    obtain ⟨c, hfin⟩ := hwritten.finish (i := .swr f) hi.load hc rfl (by rw [hwrite]; exact hc.checked)
    refine ⟨x.ended (x.setStep (bit (x.rdU f.d).toNat 1)).next c, hturn.turns hi.load hc c, ?_⟩
    show execSwr f s = _
    rw [execSwr, issueEx_ok hi (by rw [hk, if_neg (by decide), if_pos hgo]), hfin, hwrite]
    rfl

end Sys2Proof.Machine
end

section
/-! The arithmetic of integer elements without sat: an operation's result is the exact one modulo 2^w, whatever the width and whether
the type is signed, and a 32-bit type has one element in a word (R79, R87, R106). -/
namespace Sys2Proof.Machine

/-- The value of an element under an integer type, as `intOp` reads it (R79). -/
def intValue (w : Nat) (sgn : Bool) (x : Nat) : Int := if sgn then signed w x else ((x % 2 ^ w : Nat) : Int)

/-- The types `i` and `n` give an element values that agree with its bits modulo 2^w. -/
theorem intValue_emod (w : Nat) (sgn : Bool) (x : Nat) : intValue w sgn x % ((2 ^ w : Nat) : Int) = (x : Int) % ((2 ^ w : Nat) : Int) := by
  cases sgn with
  | true =>
    show signed w x % ((2 ^ w : Nat) : Int) = _
    unfold signed
    dsimp only
    split
    · rw [Int.natCast_emod, Int.emod_emod]
    · rw [Int.sub_emod_right, Int.natCast_emod, Int.emod_emod]
  | false =>
    show ((x % 2 ^ w : Nat) : Int) % _ = _
    rw [Int.natCast_emod, Int.emod_emod]

theorem wrapNat_of_emod_eq {w n : Nat} {x : Int} (h : x % ((2 ^ w : Nat) : Int) = (n : Int) % ((2 ^ w : Nat) : Int)) :
    wrapNat w x = n % 2 ^ w := by
  rw [wrapNat, h, ← Int.natCast_emod, Int.toNat_natCast]

/-- Without sat a result wraps, in its range or out of it, and raises nothing (R87). -/
theorem intResult_no_sat (w : Nat) (sgn : Bool) (x : Int) : intResult w sgn false x = (wrapNat w x, 0) := by
  simp only [intResult, Bool.false_eq_true, if_false, ite_self]

theorem intResult_of_emod_eq {w n : Nat} {x : Int} (sgn : Bool) (h : x % ((2 ^ w : Nat) : Int) = (n : Int) % ((2 ^ w : Nat) : Int)) :
    intResult w sgn false x = (n % 2 ^ w, 0) := by
  rw [intResult_no_sat, wrapNat_of_emod_eq h]

section
variable (w : Nat) (sgn : Bool) (a b d : Nat)

theorem intOp_add_no_sat : intOp .add w sgn false a b d = ((a + b) % 2 ^ w, 0) := by
  refine intResult_of_emod_eq sgn (x := intValue w sgn a + intValue w sgn b) ?_
  rw [Int.add_emod, intValue_emod, intValue_emod, ← Int.add_emod, Int.natCast_add]

/-- The modulus added to `a` keeps the difference of naturals exact. -/
theorem intOp_sub_no_sat (hb : b < 2 ^ w) : intOp .sub w sgn false a b d = ((2 ^ w + a - b) % 2 ^ w, 0) := by
  refine intResult_of_emod_eq sgn (x := intValue w sgn a - intValue w sgn b) ?_
  rw [Int.sub_emod, intValue_emod, intValue_emod, ← Int.sub_emod, Int.ofNat_sub (by omega), Int.natCast_add, Int.add_sub_assoc,
    Int.add_emod_left]

theorem intOp_mul_no_sat : intOp .mul w sgn false a b d = (a * b % 2 ^ w, 0) := by
  refine intResult_of_emod_eq sgn (x := intValue w sgn a * intValue w sgn b) ?_
  rw [Int.mul_emod, intValue_emod, intValue_emod, ← Int.mul_emod, Int.natCast_mul]

theorem intOp_mac_no_sat : intOp .mac w sgn false a b d = ((d + a * b) % 2 ^ w, 0) := by
  refine intResult_of_emod_eq sgn (x := intValue w sgn d + intValue w sgn a * intValue w sgn b) ?_
  rw [Int.add_emod, Int.mul_emod, intValue_emod, intValue_emod, intValue_emod, ← Int.mul_emod, ← Int.add_emod, Int.natCast_add,
    Int.natCast_mul]

theorem intOp_neg_no_sat (ha : a < 2 ^ w) : intOp .neg w sgn false a b d = ((2 ^ w - a) % 2 ^ w, 0) := by
  refine intResult_of_emod_eq sgn (x := -intValue w sgn a) ?_
  rw [← Int.zero_sub, Int.sub_emod, intValue_emod, ← Int.sub_emod, Int.zero_sub, Int.ofNat_sub (Nat.le_of_lt ha), Int.sub_eq_add_neg,
    Int.add_emod_left]

end

/-- A word is its one element of 32 bits, and no draw is made for it (R79). -/
theorem perElem_word (f : Nat → Nat → Nat → Nat → Nat × Nat) {a b d : Nat} (r : Nat) (ha : a < 2 ^ 32) (hb : b < 2 ^ 32) (hd : d < 2 ^ 32) :
    perElem 32 false f a b d r = ⟨(f (r / 2 ^ 16) a b d).1 % 2 ^ 32, (f (r / 2 ^ 16) a b d).2, r⟩ := by
  have helem {x : Nat} (hx : x < 2 ^ 32) : elem 32 0 x = x := by
    rw [elem, Nat.mul_zero, Nat.pow_zero, Nat.div_one, Nat.mod_eq_of_lt hx]
  simp [perElem, perElemFrom, helem ha, helem hb, helem hd]

theorem etyOf_of_le_one {t : Nat} (h : t ≤ 1) : ∃ sgn, etyOf t = some (.int 32 sgn) := by
  obtain rfl | rfl := Nat.le_one_iff_eq_zero_or_eq_one.1 h
  · exact ⟨true, rfl⟩
  · exact ⟨false, rfl⟩

/-- Under a 32-bit integer type an instruction computes its operation of the whole words and leaves the generator (R79, R89, R106). -/
theorem aluWord_int32 (op : AluOp) {m a b d : Nat} {sgn : Bool} (r : Nat) (ht : etyOf (field m 8 4) = some (.int 32 sgn))
    (ha : a < 2 ^ 32) (hb : b < 2 ^ 32) (hd : d < 2 ^ 32) :
    aluWord op m a b d r = ⟨(intOp op 32 sgn (bit m 12) a b d).1 % 2 ^ 32, (intOp op 32 sgn (bit m 12) a b d).2, r⟩ := by
  have hdraw : (op.rounds && (Ety.int 32 sgn).isFloat && field m 11 9 == 5) = false := by simp [Ety.isFloat]
  simp only [aluWord, ht, hdraw]
  exact perElem_word _ r ha hb hd

/-- An operation that wraps its result into the element gives it as the word. -/
theorem aluWord_of_intOp {op : AluOp} {m a b d n : Nat} {sgn : Bool} (r : Nat) (ht : etyOf (field m 8 4) = some (.int 32 sgn))
    (hs : bit m 12 = false) (ha : a < 2 ^ 32) (hb : b < 2 ^ 32) (hd : d < 2 ^ 32)
    (hop : intOp op 32 sgn false a b d = (n % 2 ^ 32, 0)) : aluWord op m a b d r = ⟨n % 2 ^ 32, 0, r⟩ := by
  rw [aluWord_int32 op r ht ha hb hd, hs, hop, Nat.mod_mod]

/-- Settles O7: without sat the element takes the exact result modulo 2^32, and one element is the word. -/
theorem wordArithmeticWraps : Obligations.WordArithmeticWraps := by
  intro m a b d r ht hs ha hb hd
  obtain ⟨sgn, hty⟩ := etyOf_of_le_one ht
  exact ⟨aluWord_of_intOp r hty hs ha hb hd (intOp_add_no_sat 32 sgn a b d),
    aluWord_of_intOp r hty hs ha hb hd (intOp_sub_no_sat 32 sgn a b d hb),
    aluWord_of_intOp r hty hs ha hb hd (intOp_mul_no_sat 32 sgn a b d),
    aluWord_of_intOp r hty hs ha hb hd (intOp_mac_no_sat 32 sgn a b d),
    aluWord_of_intOp r hty hs ha hb hd (intOp_neg_no_sat 32 sgn a b d ha)⟩

end Sys2Proof.Machine
end

section
/-! The instructions that compute a value (R104-R112, R117-R124): each writes it in a form of R99 and does nothing else. -/
namespace Sys2Proof.Machine

theorem Ex.Issues.dest_ne_latch_k {x : Ex} {i : Instr} {s : State} {h : Shape} {f : KForm} (hi : x.Issues i s)
    (hs : i.shape = some (h, f.fields)) (hr : ∃ v s z n, h.d = .reg v s z n) (n : Fin 4) : f.d ≠ .latch n := hi.dest_ne_latch hs hr n

section
variable {x : Ex} {i : Instr} {s : State} (hi : x.Issues i s) (hc : x.Calm) (hs : i.isSwitch = false)
include hi hc hs

/-- A value without flags or draws, in the form of R99. -/
theorem Ex.form_writes {d : Operand} (hd : ∀ n, d ≠ .latch n) (nw : Bool) (val : Ex → Nat → Word) :
    ∃ y : Ex, issueEx i s (fun z => .ok (z.form nw d (val z))) = .next y.s ∧ x.Writes y nw d (val x) :=
  (x.drafts_form nw d (val x) hc.ghost hd).writes hi hc hs rfl

/-- The same with flags raised beside it. -/
theorem Ex.form_flag_writes {d : Operand} (hd : ∀ n, d ≠ .latch n) (nw : Bool) (val : Ex → Nat → Word) (fl : Ex → Nat) :
    ∃ y : Ex, issueEx i s (fun z => .ok ((z.form nw d (val z)).flag (fl z))) = .next y.s ∧ x.Writes y nw d (val x) :=
  ((x.drafts_form nw d (val x) hc.ghost hd).flag (fl x)).writes hi hc hs rfl

/-- An arithmetic instruction draws only where it rounds stochastically (R89). -/
theorem Ex.alu_writes {f : RForm} (hd : ∀ n, f.d ≠ .latch n) (op : AluOp) :
    ∃ y : Ex, issueEx i s (fun z => .ok (z.alu op f)) = .next y.s ∧ x.Writes y f.nw f.d (fun l =>
      word (aluWord op x.mode (x.rd f.a l).toNat (x.rd f.b l).toNat (x.rd f.d l).toNat (x.rng l)).x) :=
  (x.drafts_formRes f.nw f.d _ _ hc.ghost hd (x.sto_rounds _)).writes hi hc hs rfl

/-- So does a conversion. -/
theorem Ex.convert_writes {f : RForm} (hd : ∀ n, f.d ≠ .latch n) (dst : Ety) :
    ∃ y : Ex, issueEx i s (fun z => .ok (z.convert dst f)) = .next y.s ∧ x.Writes y f.nw f.d (fun l =>
      word (cvtWord dst x.mode (x.rd f.a l).toNat (x.rd f.b l).toNat (x.rd f.d l).toNat (x.rng l)).x) :=
  (x.drafts_formRes f.nw f.d _ _ hc.ghost hd x.sto_eq).writes hi hc hs rfl

/-- A scalar is written where the leader's guard is true. -/
theorem Ex.scalar_writes {d : Operand} (hv : d.isVreg = false) (hd : ∀ n, d ≠ .latch n) {nw : Bool} (w : Word)
    {body : Ex → Except Trap Ex} (hb : body x = .ok (if x.go then x.wr nw d w else x)) :
    ∃ y : Ex, issueEx i s body = .next y.s ∧ x.Writes y nw d (fun _ => w) :=
  (x.drafts_scalar nw d w hc.ghost hv hd).writes hi hc hs hb

/-- A scalar is written where the leader's guard is true and the check of the sources passes. -/
theorem Ex.checked_scalar_writes {d : Operand} (hv : d.isVreg = false) (hd : ∀ n, d ≠ .latch n) {nw : Bool} {w : Word} {t : Trap}
    {bad : Prop} [Decidable bad] {body : Ex → Except Trap Ex} (hok : x.go = true → ¬ bad)
    (hb : body x = if !x.go then .ok x else if bad then .error t else .ok (x.wr nw d w)) :
    ∃ y : Ex, issueEx i s body = .next y.s ∧ x.Writes y nw d (fun _ => w) := by
  refine Ex.scalar_writes hi hc hs hv hd w ?_
  rw [hb]
  by_cases hgo : x.go = true
  · rw [hgo, Bool.not_true, if_neg Bool.false_ne_true, if_neg (hok hgo), if_pos rfl]
  · rw [if_neg hgo, if_pos (by simpa using hgo)]

/-- `BCAST` writes its scalar and raises the flag of its source where the leader's guard is true (R119). -/
theorem Ex.broadcast_writes {f : RForm} (hv : f.d.isVreg = false) (hd : ∀ n, f.d ≠ .latch n) :
    ∃ y : Ex, issueEx i s (fun z => .ok (z.broadcast f)) = .next y.s
      ∧ x.Writes y f.nw f.d (fun _ => (x.laneSource f.a ((x.rdU f.b).toNat % 32)).1) := by
  have h := x.drafts_scalar f.nw f.d (x.laneSource f.a ((x.rdU f.b).toNat % 32)).1 hc.ghost hv hd
  refine Ex.Drafts.writes hi hc hs rfl ?_
  unfold Ex.broadcast
  split
  · rename_i hgo
    rw [if_pos hgo] at h
    exact h.flag _
  · rename_i hgo
    rwa [if_neg hgo] at h

end

/-- A read of a special register other than `LCLK` captures nothing (R72, R124). -/
theorem Ex.readSpecial_of_ne_lclk (x : Ex) (d : Operand) {k : Nat} (hk : k ≠ 3) :
    x.readSpecial d k = x.form false d (fun l => if k = 9 then x.g.rngs.at l else x.special k) := by
  unfold Ex.readSpecial
  rw [if_neg (fun h => hk h.1)]
  split <;> rfl

theorem Ex.readSpecial_writes {x : Ex} {i : Instr} {s : State} {d : Operand} {k : Nat} (hi : x.Issues i s) (hc : x.Calm)
    (hs : i.isSwitch = false) (hd : ∀ n, d ≠ .latch n) (hk : k ≠ 3) :
    ∃ y : Ex, issueEx i s (fun z => .ok (z.readSpecial d k)) = .next y.s
      ∧ x.Writes y false d (fun l => if k = 9 then x.g.rngs.at l else x.special k) :=
  (x.drafts_form false d _ hc.ghost hd).writes hi hc hs (congrArg Except.ok (x.readSpecial_of_ne_lclk d hk))

/-- Settles O5: entry by entry, the value in its form of R99. -/
theorem computeResultsLand : Obligations.ComputeResultsLand := by
  intro i s x nw d val hi hc hv
  cases i with
  | add f | sub f | mul f | mulh f | mac f | min f | max f | abs f | neg f | div f | rem f | rcp f | rsq f | sqrt f | exp2 f | log2 f
  | tanh f =>
    cases hv
    dsimp only [exec]
    exact Ex.alu_writes hi hc rfl (hi.dest_ne_latch rfl ⟨_, _, _, _, rfl⟩) _
  | and_ f | or_ f | xor_ f | andn f | shl f | shr f | sar f | rot f | popc f | clz f | brev f | bfx f | bfi f | prmt f | mov f | clid f =>
    cases hv
    dsimp only [exec]
    exact Ex.form_writes hi hc rfl (hi.dest_ne_latch rfl ⟨_, _, _, _, rfl⟩) _ _
  | ldi f | ldih f | ldc f | maprd f =>
    cases hv
    dsimp only [exec]
    exact Ex.form_writes hi hc rfl (hi.dest_ne_latch_k rfl ⟨_, _, _, _, rfl⟩) _ _
  | cvtF32 f | cvtBf16 f | cvtF16 f | cvtE4m3 f | cvtE5m2 f | cvtE2m1 f | cvtDy8 f | cvtI32 f | cvtN32 f | cvtI8 f | cvtN8 f =>
    cases hv
    dsimp only [exec]
    exact Ex.convert_writes hi hc rfl (hi.dest_ne_latch rfl ⟨_, _, _, _, rfl⟩) _
  | shfl f | shflx f | shflu f | shfld f =>
    cases hv
    dsimp only [exec]
    exact Ex.form_flag_writes hi hc rfl (hi.dest_ne_latch rfl ⟨_, _, _, _, rfl⟩) _ _ _
  | cntrd f =>
    cases hv
    dsimp only [exec]
    exact Ex.form_flag_writes hi hc rfl (hi.dest_ne_latch_k rfl ⟨_, _, _, _, rfl⟩) _ _ _
  | vany f | vall f | vbal f =>
    cases hv
    dsimp only [exec]
    exact Ex.scalar_writes hi hc rfl (hi.dest_scalar rfl ⟨_, _, _, rfl⟩) (hi.dest_ne_latch rfl ⟨_, _, _, _, rfl⟩) _ rfl
  | bcast f =>
    cases hv
    dsimp only [exec]
    exact Ex.broadcast_writes hi hc rfl (hi.dest_scalar rfl ⟨_, _, _, rfl⟩) (hi.dest_ne_latch rfl ⟨_, _, _, _, rfl⟩)
  | srd f =>
    obtain ⟨hk, hv⟩ := Option.ite_none_left_eq_some.1 hv
    obtain ⟨y, hy, hw⟩ := Ex.readSpecial_writes hi hc rfl (hi.dest_ne_latch_k rfl ⟨_, _, _, _, rfl⟩) hk
    refine ⟨y, hy, ?_⟩
    split at hv
    case isTrue h9 => cases hv; simpa only [if_pos h9] using hw
    case isFalse h9 => cases hv; simpa only [if_neg h9] using hw
  | aqst f =>
    obtain ⟨hfit, hv⟩ := Option.ite_none_left_eq_some.1 hv
    cases hv
    dsimp only [exec]
    refine Ex.checked_scalar_writes hi hc rfl (hi.dest_scalar rfl ⟨_, _, _, rfl⟩) (hi.dest_ne_latch rfl ⟨_, _, _, _, rfl⟩) (fun hgo => ?_) rfl
    rw [hgo, Bool.true_and, decide_eq_true_eq, Nat.not_le] at hfit
    exact not_not_intro (Nat.div_eq_of_lt hfit)
  | tget f =>
    obtain ⟨hword, hv⟩ := Option.ite_none_left_eq_some.1 hv
    cases hv
    dsimp only [exec]
    refine Ex.checked_scalar_writes hi hc rfl (hi.dest_scalar rfl ⟨_, _, _, rfl⟩) (hi.dest_ne_latch rfl ⟨_, _, _, _, rfl⟩) (fun hgo => ?_) rfl
    rwa [hgo, Bool.true_and, decide_eq_true_eq] at hword
  | _ => cases hv

end Sys2Proof.Machine
end

section
/-! The compares and the operations on predicate registers (R114-R116). -/
namespace Sys2Proof.Machine

section
variable {x : Ex} {i : Instr} {s : State} (hi : x.Issues i s) (hc : x.Calm) (hs : i.isSwitch = false)
include hi hc hs

/-- A compare writes its bits and raises its flags. -/
theorem Ex.compare_writesBits (op : CmpOp) (f : RForm) :
    ∃ y : Ex, issueEx i s (fun z => .ok (z.compare op f)) = .next y.s
      ∧ x.WritesBits y f.nw f.d (fun l => (cmpWord op x.mode (x.rd f.a l).toNat (x.rd f.b l).toNat).1) :=
  Ex.setPred_writes hi hc hs rfl

/-- A predicate operation writes its bits and raises no flag. -/
theorem Ex.setPred_writesBits (nw : Bool) (d : Operand) (val : Ex → Nat → Bool) :
    ∃ y : Ex, issueEx i s (fun z => .ok (z.setPred nw d (val z))) = .next y.s ∧ x.WritesBits y nw d (val x) :=
  Ex.setPred_writes hi hc hs (by rw [Ex.flag_zero])

end

/-- Settles O6: each of these entries is a compare or a predicate operation. -/
theorem predicateResultsLand : Obligations.PredicateResultsLand := by
  intro i s x nw d val hi hc hv
  cases i with
  | cmpEq f | cmpNe f | cmpLt f | cmpLe f | cmpGt f | cmpGe f | cmpOrd f | cmpUnord f =>
    cases hv
    dsimp only [exec]
    exact Ex.compare_writesBits hi hc rfl _ f
  | pand f | por f | pxor f | pnot f | pmov f =>
    cases hv
    dsimp only [exec]
    exact Ex.setPred_writesBits hi hc rfl _ _ _
  | _ => cases hv

end Sys2Proof.Machine
end

section
/-! Division of integer elements by zero (R106). -/
namespace Sys2Proof.Machine

/-- A word's value below the element `i + 1` is its value below the element `i` and the element above that (R79). -/
theorem mod_add_elem (w i v : Nat) : v % 2 ^ (w * i) + elem w i v * 2 ^ (w * i) = v % 2 ^ (w * (i + 1)) := by
  rw [Nat.mul_succ, Nat.pow_add, Nat.mod_mul, elem, Nat.mul_comm (2 ^ (w * i))]

theorem elem_lt (w i v : Nat) : elem w i v < 2 ^ w := Nat.mod_lt _ (Nat.two_pow_pos w)

@[simp] theorem elem_of_zero (w i : Nat) : elem w i 0 = 0 := by simp [elem]

/-- Every element of a word of ones has every bit set. -/
theorem elem_of_ones {w i n : Nat} (h : w * (i + 1) ≤ n) : elem w i (2 ^ n - 1) = 2 ^ w - 1 := by
  refine Nat.eq_of_testBit_eq fun k => ?_
  have hlt (hk : k < w) : w * i + k < n := by rw [Nat.mul_succ] at h; omega
  by_cases hk : k < w <;> simp [elem, Nat.testBit_mod_two_pow, Nat.testBit_div_two_pow, Nat.testBit_two_pow_sub_one, hk]
  have := hlt hk
  omega

section
variable {w : Nat} {f : Nat → Nat → Nat → Nat → Nat × Nat} {a b d v fl r : Nat}

/-- An operation that gives each of its elements the value of `v`'s element, and raises the same flags in each, gives those of `v` (R80). -/
theorem perElemFrom_of_elem (n i : Nat)
    (hf : ∀ j < i + n, f (r / 2 ^ 16) (elem w j a) (elem w j b) (elem w j d) = (elem w j v, fl)) :
    perElemFrom w false f a b d n i ⟨v % 2 ^ (w * i), fl, r⟩ = ⟨v % 2 ^ (w * (i + n)), fl, r⟩ := by
  induction n generalizing i with
  | zero => rfl
  | succ n ih =>
    simp only [perElemFrom, Bool.false_eq_true, if_false, hf i (by omega), Nat.mod_eq_of_lt (elem_lt w i v), mod_add_elem, Nat.or_self]
    rw [ih (i + 1) (fun j hj => hf j (by omega)), Nat.add_right_comm, Nat.add_assoc]

/-- The whole word is `v` where the elements fill it. -/
theorem perElem_of_elem (hw : w * (32 / w) = 32) (hv : v < 2 ^ 32)
    (hf : ∀ j < 32 / w, f (r / 2 ^ 16) (elem w j a) (elem w j b) (elem w j d) = (elem w j v, fl)) :
    perElem w false f a b d r = ⟨v, fl, r⟩ := by
  obtain ⟨n, hn⟩ : ∃ n, 32 / w = n + 1 := Nat.exists_eq_succ_of_ne_zero fun h => by simp [h] at hw
  rw [hn] at hw hf
  have hfirst := hf 0 (by omega)
  have hlow : elem w 0 v % 2 ^ w = v % 2 ^ (w * 1) := by simp [elem]
  have hrest := perElemFrom_of_elem (r := r) (w := w) n 1 (fun j hj => hf j (by omega))
  rw [Nat.add_comm 1 n, hw, Nat.mod_eq_of_lt hv, ← hlow] at hrest
  simpa only [perElem, hn, perElemFrom, Bool.false_eq_true, if_false, hfirst, Nat.zero_or, Nat.mul_zero, Nat.pow_zero, Nat.mul_one,
    Nat.zero_add] using hrest

end

theorem intValue_zero (w : Nat) (sgn : Bool) : intValue w sgn 0 = 0 := by
  cases sgn <;> simp [intValue, signed]

theorem intOp_div_zero (w : Nat) (sgn sat : Bool) (a d : Nat) : intOp .div w sgn sat a 0 d = (2 ^ w - 1, Fpx.idz) :=
  if_pos (intValue_zero w sgn)

theorem intOp_rem_zero (w : Nat) (sgn sat : Bool) (a d : Nat) : intOp .rem w sgn sat a 0 d = (a, Fpx.idz) :=
  if_pos (intValue_zero w sgn)

/-- The codes of the integer types, whose elements fill a word (R60, R79). -/
theorem etyOf_integer {t : Nat} (h : t ≤ 1 ∨ 5 ≤ t) (h8 : t ≤ 8) : ∃ w sgn, etyOf t = some (.int w sgn) ∧ w * (32 / w) = 32 := by
  obtain rfl | rfl | rfl | rfl | rfl | rfl : t = 0 ∨ t = 1 ∨ t = 5 ∨ t = 6 ∨ t = 7 ∨ t = 8 := by omega
  all_goals exact ⟨_, _, rfl, rfl⟩

/-- Under an integer type an instruction computes its operation element by element, and makes no draw (R80, R89). -/
theorem aluWord_int (op : AluOp) {m w : Nat} {sgn : Bool} (a b d r : Nat) (ht : etyOf (field m 8 4) = some (.int w sgn)) :
    aluWord op m a b d r = perElem w false (fun _ => intOp op w sgn (bit m 12)) a b d r := by
  have hdraw : (op.rounds && (Ety.int w sgn).isFloat && field m 11 9 == 5) = false := by simp [Ety.isFloat]
  simp only [aluWord, ht, hdraw]
  rfl

/-- Settles O8: each element's quotient has every bit set and each remainder is the dividend's element, so the words are these. -/
theorem divisionByZeroNeverTraps : Obligations.DivisionByZeroNeverTraps := by
  intro m a d r ht h8 ha
  obtain ⟨w, sgn, hty, hw⟩ := etyOf_integer ht h8
  have hle (j : Nat) (hj : j < 32 / w) : w * (j + 1) ≤ 32 := le_of_le_of_eq (Nat.mul_le_mul_left w hj) hw
  rw [aluWord_int _ _ _ _ _ hty, aluWord_int _ _ _ _ _ hty]
  constructor
  · refine perElem_of_elem hw (by decide) fun j hj => ?_
    rw [elem_of_zero, intOp_div_zero, elem_of_ones (hle j hj)]
  · refine perElem_of_elem hw ha fun j hj => ?_
    rw [elem_of_zero, intOp_rem_zero]

end Sys2Proof.Machine
end

section
/-! Shifts and counts of bits (R109). -/
namespace Sys2Proof.Machine

theorem popCount_le (n x : Nat) : popCount n x ≤ n := by
  induction n generalizing x with
  | zero => exact Nat.le_refl 0
  | succ n ih =>
    have := ih (x / 2)
    rw [popCount]
    omega

/-- A count that is at most 32 stays so in a word. -/
theorem word_toNat_le {n : Nat} (h : n ≤ 32) : (word n).toNat ≤ 32 := by
  rw [word, BitVec.toNat_ofNat]
  omega

section
variable (a b : Word) {i : Nat}

theorem bitWord_shl_getLsbD (h : b.toNat < 32) (hi : i < 32) :
    (bitWord .shl a b).getLsbD i = (decide (b.toNat ≤ i) && a.getLsbD (i - b.toNat)) := by
  rw [bitWord, if_neg (Nat.not_le.2 h), BitVec.getLsbD_shiftLeft, decide_eq_true hi, Bool.true_and, ← decide_not,
    decide_eq_decide.2 Nat.not_lt]

theorem bitWord_shr_getLsbD (h : b.toNat < 32) : (bitWord .shr a b).getLsbD i = a.getLsbD (b.toNat + i) := by
  rw [bitWord, if_neg (Nat.not_le.2 h), BitVec.getLsbD_ushiftRight]

/-- A shift to the right that fills with bit 31 (R109). -/
theorem sshiftRight_getLsbD (n : Nat) (hi : i < 32) :
    (a.sshiftRight n).getLsbD i = a.getLsbD (if n + i < 32 then n + i else 31) := by
  rw [BitVec.getLsbD_sshiftRight, decide_eq_false (Nat.not_le.2 hi), BitVec.msb_eq_getLsbD_last]
  split <;> rfl

/-- A bit that turns by `n` stands `n` places further, modulo 32. -/
theorem bitWord_rot_getLsbD (hi : i < 32) : (bitWord .rot a b).getLsbD ((i + b.toNat) % 32) = a.getLsbD i := by
  have hn : b.toNat % 32 < 32 := Nat.mod_lt _ (by decide)
  rw [bitWord, Nat.add_mod, Nat.mod_eq_of_lt hi, BitVec.getLsbD_rotateLeft, Nat.mod_mod, Bool.cond_decide]
  generalize b.toNat % 32 = n at hn
  by_cases hw : i + n < 32
  · rw [Nat.mod_eq_of_lt hw, if_neg (by omega), decide_eq_true hw, Bool.true_and, Nat.add_sub_cancel]
  · have hm : (i + n) % 32 = i + n - 32 := by omega
    rw [hm, if_pos (by omega)]
    congr 1
    omega

end

/-- Settles O9, operation by operation. -/
theorem shiftsByAnyAmount : Obligations.ShiftsByAnyAmount := by
  intro a b i hi
  refine ⟨fun h => ⟨if_pos h, if_pos h, ?_⟩, fun h => ⟨bitWord_shl_getLsbD a b h hi, bitWord_shr_getLsbD a b h, ?_⟩,
    bitWord_rot_getLsbD a b hi, word_toNat_le (popCount_le 32 _), word_toNat_le (Nat.sub_le _ _), ?_⟩
  · rw [bitWord, if_pos h, sshiftRight_getLsbD a 31 hi]
    split
    · congr 1; omega
    · rfl
  · rw [bitWord, if_neg (Nat.not_le.2 h), sshiftRight_getLsbD a _ hi]
  · rw [bitWord, BitVec.getLsbD_reverse, BitVec.getMsbD_eq_getLsbD, decide_eq_true hi, Bool.true_and]

end Sys2Proof.Machine
end

section
/-! `LWR` and `SEL` (R120, R122): they write other lanes than those of R99, and raise and draw nothing. -/
namespace Sys2Proof.Machine

theorem Operand.exists_vreg {d : Operand} (h : d.isVreg = true) : ∃ n, d = .vreg n := by
  cases d with
  | vreg n => exact ⟨n, rfl⟩
  | _ => cases h

theorem Operand.exists_sreg {d : Operand} (h : d.isSreg = true) : ∃ n, d = .sreg n := by
  cases d with
  | sreg n => exact ⟨n, rfl⟩
  | _ => cases h

/-- The party `y`, on its way from `x`, has changed at most the register `d` and the latches. -/
structure Ex.Alters (x y : Ex) (d : Operand) : Prop where
  alike : x.Alike y
  others : x.KeepsBut y d
  fpx : y.g.fpx = x.g.fpx
  rngs : y.g.rngs = x.g.rngs

theorem Ex.Alters.refl (x : Ex) (d : Operand) : x.Alters x d := ⟨.refl x, fun _ _ _ _ => ⟨rfl, rfl⟩, rfl, rfl⟩

theorem Ex.Alters.latch {x y : Ex} {d : Operand} (h : x.Alters y d) (f : Nat → Word) : x.Alters (y.latch f) d where
  alike := h.alike.trans (y.latch_alike f)
  others o l ho hn := by rw [Ex.rd_latch _ _ _ _ hn, Ex.isAbsent_latch]; exact h.others o l ho hn
  fpx := h.fpx
  rngs := h.rngs

theorem Ex.latch_latches (x : Ex) (f : Nat → Word) : (x.latch f).sp.latches = ⟨lanesOf f, false, 0⟩ :: x.sp.latches.take 3 := rfl

theorem Ex.present_keeps (x : Ex) (o : Operand) :
    (x.present o).g.fpx = x.g.fpx ∧ (x.present o).g.rngs = x.g.rngs ∧ (x.present o).sp = x.sp := by
  unfold Ex.present
  split <;> exact ⟨rfl, rfl, rfl⟩

/-- A write of a vector register touches neither flags nor generators nor the split. -/
theorem Ex.wrV_keeps (x : Ex) (n : Nat) (m : Word) (f : Nat → Word) :
    (x.wrV n m f).g.fpx = x.g.fpx ∧ (x.wrV n m f).g.rngs = x.g.rngs ∧ (x.wrV n m f).sp = x.sp := by
  unfold Ex.wrV
  split
  · exact ⟨rfl, rfl, rfl⟩
  · dsimp only
    split
    · exact x.present_keeps _
    · split
      · exact ⟨rfl, rfl, rfl⟩
      · exact x.present_keeps _

/-- Nor does a write of a scalar register. -/
theorem Ex.wrS_keeps (x : Ex) (n : Nat) (w : Word) :
    (x.wrS n w).g.fpx = x.g.fpx ∧ (x.wrS n w).g.rngs = x.g.rngs ∧ (x.wrS n w).sp = x.sp := by
  unfold Ex.wrS
  dsimp only
  split <;> exact x.present_keeps _

/-- A write of a scalar destination alters it alone, and not the latches. -/
theorem Ex.wr_alters (x : Ex) (nw : Bool) (d : Operand) (w : Word) : x.Alters (x.wr nw d w) d ∧ (x.wr nw d w).sp = x.sp := by
  cases nw with
  | true => exact ⟨.refl x d, rfl⟩
  | false =>
    cases d with
    | sreg n =>
      obtain ⟨hfpx, hrngs, hsp⟩ := x.wrS_keeps n.val w
      exact ⟨⟨x.wrS_alike _ _, fun o l ho _ => x.rd_wrS_of_ne n w o l ho, hfpx, hrngs⟩, hsp⟩
    | _ => exact ⟨.refl x _, rfl⟩

/-- A write of a vector register that is made under a condition alters it alone, and not the latches. -/
theorem Ex.wrV_if_alters (x : Ex) (c : Bool) (n : Fin 64) (m : Word) (f : Nat → Word) :
    x.Alters (if c then x.wrV n.val m f else x) (.vreg n) ∧ (if c then x.wrV n.val m f else x).sp = x.sp := by
  cases c with
  | true =>
    obtain ⟨hfpx, hrngs, hsp⟩ := x.wrV_keeps n.val m f
    exact ⟨⟨x.wrV_alike _ _ _, fun o l ho _ => x.rd_wrV_of_ne n m f o l ho, hfpx, hrngs⟩, hsp⟩
  | false => exact ⟨.refl x _, rfl⟩

/-- What an instruction leaves of a party that has changed no more: everything else is as it was, and `d` and the latches hold what it
wrote. -/
theorem Ex.Alters.ends {x y : Ex} {i : Instr} {s : State} {body : Ex → Except Trap Ex} {d : Operand} (h : x.Alters y d) (hi : x.Issues i s)
    (hc : x.Calm) (hs : i.isSwitch = false) (hb : body x = .ok y) :
    ∃ z : Ex, issueEx i s body = .next z.s ∧ x.Becomes z ∧ x.StepsOn z ∧ x.OnlyGroup z ∧ x.OnlyRegs z ∧ x.KeepsBut z d
      ∧ z.g.fpx = x.g.fpx ∧ z.g.rngs = x.g.rngs
      ∧ (∀ l, z.rd d l = y.rd d l) ∧ z.isAbsent d = y.isAbsent d ∧ z.sp.latches = y.sp.latches := by
  obtain ⟨z, hz, hbec, hstep, hgroup, hregs, hlatches, hrd, habsent, hfpx, hrngs, -⟩ := Ex.done_alike hi hc h.alike hs
  refine ⟨z, by rw [issueEx_ok hi hb, hz], hbec, hstep, hgroup, hregs, fun o l ho hn => ?_, hfpx.trans h.fpx, hrngs.trans h.rngs,
    hrd d, habsent d, hlatches⟩
  rw [hrd, habsent]
  exact h.others o l ho hn

/-- A mask of one lane. -/
theorem has_one_shiftLeft {k : Nat} (hk : k < 32) (l : Nat) : Word.has (1#32 <<< k) l = decide (l = k) := by
  rw [Word.has, ← BitVec.twoPow_eq, BitVec.getLsbD_twoPow, decide_eq_true hk, Bool.true_and, decide_eq_decide]
  exact eq_comm

theorem one_shiftLeft_ne_zero {k : Nat} (hk : k < 32) : 1#32 <<< k ≠ 0 := fun h => by
  have hbit := has_one_shiftLeft hk k
  rw [h] at hbit
  simp [Word.has] at hbit

/-- The lane that `LWR` names (R120). -/
def Ex.namedLane (x : Ex) (f : RForm) : Nat := (x.rdU f.b).toNat % 32

theorem Ex.namedLane_lt (x : Ex) (f : RForm) : x.namedLane f < 32 := Nat.mod_lt _ (by decide)

/-- The party once `LWR` has written its lane of vector register `n`, before the latches shift (R120). -/
def Ex.laneWritten (x : Ex) (f : RForm) (n : Fin 64) : Ex :=
  if Word.has x.acting (x.namedLane f) && !f.nw then x.wrV n.val (1#32 <<< x.namedLane f) (fun _ => x.rdU f.a) else x

theorem Ex.laneWritten_alters (x : Ex) (f : RForm) (n : Fin 64) :
    x.Alters (x.laneWritten f n) (.vreg n) ∧ (x.laneWritten f n).sp = x.sp := x.wrV_if_alters _ n _ _

/-- What the register holds then. -/
theorem Ex.rd_laneWritten (x : Ex) (f : RForm) (n : Fin 64) (hgh : x.sp.ghost = []) {l : Nat} (hl : l < 32) :
    (x.laneWritten f n).rd (.vreg n) l =
      if f.nw = false ∧ Word.has x.acting (x.namedLane f) = true then
        (if l = x.namedLane f then x.rdU f.a else if x.isAbsent (.vreg n) = true then 0 else x.rd (.vreg n) l)
      else x.rd (.vreg n) l := by
  unfold Ex.laneWritten
  by_cases hw : f.nw = false ∧ Word.has x.acting (x.namedLane f) = true
  · rw [if_pos hw, if_pos (by rw [hw.1, hw.2]; rfl), Ex.rd_wrV x n _ _ l hl hgh, has_one_shiftLeft (x.namedLane_lt f)]
    simp only [decide_eq_true_eq, one_shiftLeft_ne_zero (x.namedLane_lt f), ne_eq, not_false_eq_true, true_and]
  · rw [if_neg hw, if_neg (fun h => hw (by simpa [and_comm] using h))]

/-- What the new `L0` holds after `LWR`, where the party `y` holds its register: the value written stands in the lane named even under
`nw` (R120). -/
def Ex.laneLatched (x y : Ex) (f : RForm) (l : Nat) : Word :=
  if Word.has x.acting l then (if l = x.namedLane f then x.rdU f.a else if y.isAbsent f.d = true then 0 else y.rd f.d l) else 0

/-- The lane named, where it is active, is one of the active lanes. -/
theorem lane_or_other (m : Word) (k l : Nat) (v r : Word) :
    (if !Word.has m l then 0 else if Word.has m k && l == k then v else r) = if Word.has m l then (if l = k then v else r) else 0 := by
  by_cases hl : Word.has m l = true
  · by_cases hk : l = k
    · simp [← hk, hl]
    · simp [hk, hl]
  · simp [hl]

/-- `LWR` writes its lane and shifts the latches (R120). -/
theorem Ex.laneWrite_eq (x : Ex) {f : RForm} {n : Fin 64} (hd : f.d = .vreg n) :
    x.laneWrite f = (x.laneWritten f n).latch (x.laneLatched (x.laneWritten f n) f) := by
  obtain ⟨nw, d, a, b⟩ := f
  cases hd
  exact congrArg (Ex.latch _) (funext fun l => lane_or_other x.acting _ l _ _)

/-- Settles O10: the entry alters its register and the latches alone. -/
theorem lwrWritesOneLane : Obligations.LwrWritesOneLane := by
  intro f s x n hi hc hd
  obtain ⟨halters, hsp⟩ := x.laneWritten_alters f n
  obtain ⟨y, hy, hbec, hstep, hgroup, hregs, hkeeps, hfpx, hrngs, hrd, habsent, hlatches⟩ :=
    (halters.latch _).ends (body := fun z => .ok (z.laneWrite f)) hi hc rfl (by rw [x.laneWrite_eq hd])
  have hreg (l : Nat) : y.rd (.vreg n) l = (x.laneWritten f n).rd (.vreg n) l := by
    rw [hrd, Ex.rd_latch _ _ _ _ (fun _ => Operand.noConfusion)]
  have hlatched : x.laneLatched (x.laneWritten f n) f = x.laneLatched y f := by
    unfold Ex.laneLatched
    simp only [hd, hreg, habsent, Ex.isAbsent_latch]
  refine ⟨y, hy, hbec, hstep, hgroup, hregs, hd ▸ hkeeps, hfpx, hrngs, fun l hl => ?_, ?_⟩
  · rw [hd, hreg]
    exact x.rd_laneWritten f n hc.ghost hl
  · rw [hlatches, Ex.latch_latches, hsp, hlatched]
    rfl

/-- The value that `SEL` chooses for a lane (R122). -/
def Ex.chosen (x : Ex) (f : RForm) (l : Nat) : Word := if x.guard l then x.rd f.a l else x.rd f.b l

/-- The party once a `SEL` into vector register `n` has written its lanes, before the latches shift. -/
def Ex.lanesChosen (x : Ex) (f : RForm) (n : Fin 64) : Ex := if !f.nw then x.wrV n.val x.active (x.chosen f) else x

theorem Ex.lanesChosen_alters (x : Ex) (f : RForm) (n : Fin 64) :
    x.Alters (x.lanesChosen f n) (.vreg n) ∧ (x.lanesChosen f n).sp = x.sp := x.wrV_if_alters _ n _ _

/-- Into a vector register, the lanes chosen become the new `L0` (R45, R122). -/
theorem Ex.select_vreg (x : Ex) {f : RForm} {n : Fin 64} (hd : f.d = .vreg n) :
    x.select f = (x.lanesChosen f n).latch (fun l => if Word.has x.active l then x.chosen f l else 0) := by
  obtain ⟨nw, d, a, b⟩ := f
  cases hd
  cases nw <;> rfl

/-- Into any other destination, the value that the leader's guard chooses. -/
theorem Ex.select_scalar (x : Ex) {f : RForm} (hd : f.d.isVreg = false) : x.select f = x.wr f.nw f.d (x.chosen f x.lead) := by
  obtain ⟨nw, d, a, b⟩ := f
  cases d with
  | vreg n => cases hd
  | _ => rfl

/-- Settles O11: the entry alters its destination, and the latches where that is a vector register. -/
theorem selChoosesBySource : Obligations.SelChoosesBySource := by
  intro f s x hi hc
  by_cases hv : f.d.isVreg = true
  · obtain ⟨n, hd⟩ := Operand.exists_vreg hv
    obtain ⟨halters, hsp⟩ := x.lanesChosen_alters f n
    obtain ⟨y, hy, hbec, hstep, hgroup, hregs, hkeeps, hfpx, hrngs, hrd, -, hlatches⟩ :=
      (halters.latch _).ends (body := fun z => .ok (z.select f)) hi hc rfl (by rw [x.select_vreg hd])
    have hreg (l : Nat) : y.rd f.d l = (x.lanesChosen f n).rd f.d l := by
      rw [hd, hrd, Ex.rd_latch _ _ _ _ (fun _ => Operand.noConfusion)]
    refine ⟨y, hy, hbec, hstep, hgroup, hregs, hd ▸ hkeeps, hfpx, hrngs, fun _ hnw l hl => ?_, fun hs => ?_, fun hnw l => ?_, ?_⟩
    · rw [hreg, Ex.lanesChosen, if_pos (by rw [hnw]; rfl), hd]
      exact x.rd_wrV n x.active (x.chosen f) l hl hc.ghost
    · rw [hd] at hs
      cases hs
    · rw [hreg, Ex.lanesChosen, if_neg (by rw [hnw]; exact Bool.false_ne_true)]
    · rw [hlatches, Ex.latch_latches, hsp, if_pos hv]
      rfl
  · obtain ⟨halters, hsp⟩ := x.wr_alters f.nw f.d (x.chosen f x.lead)
    obtain ⟨y, hy, hbec, hstep, hgroup, hregs, hkeeps, hfpx, hrngs, hrd, -, hlatches⟩ :=
      halters.ends (body := fun z => .ok (z.select f)) hi hc rfl (by rw [x.select_scalar (by simpa using hv)])
    refine ⟨y, hy, hbec, hstep, hgroup, hregs, hkeeps, hfpx, hrngs, fun h => absurd h hv, fun hs hnw l => ?_, fun hnw l => ?_, ?_⟩
    · obtain ⟨n, hd⟩ := Operand.exists_sreg hs
      rw [hrd, hnw, hd]
      exact x.rd_wrS n _ l
    · rw [hrd, hnw]
      rfl
    · rw [hlatches, hsp, if_neg hv]

end Sys2Proof.Machine
end

section
/-! The two instructions that ask for a trap (R142, R337). -/
namespace Sys2Proof.Machine

/-- An instruction whose meaning asks for a trap that is no limit's enters its handler with it. -/
theorem issueWith_enters {i : Instr} {s : State} {x : Ex} {body : Ex → Except Trap State} {t : Trap} (hi : x.Issues i s) (hu : x.User)
    (hb : body x = .error t) (ht : t.cause.isLimit = false) : ∃ y : Ex, issueWith i s body = .next y.s ∧ x.Enters y t := by
  obtain ⟨y, hy, hent⟩ := Ex.takeTrap_enters hi.load hu ht
  exact ⟨y, by rw [issueWith_trap hi hb, hy], hent⟩

/-- Settles O16: a true guard makes either entry its trap, and neither trap is a limit's. -/
theorem trapInstructionsEnterTheHandler : Obligations.TrapInstructionsEnterTheHandler := by
  constructor
  · intro f s x hi hu hgo
    show ∃ y : Ex, execBkpt f s = _ ∧ _
    exact issueWith_enters hi hu (if_pos hgo) rfl
  · intro f s x hi hu hgo
    show ∃ y : Ex, execTrap f s = _ ∧ _
    exact issueWith_enters hi hu (if_pos hgo) rfl

end Sys2Proof.Machine
end
